-- ==== Sys2Proof/Word.lean ====
section
/-!
DEFINITION. The word types of the machine (R6, R19, R127).
-/

namespace Sys2Proof

/-- A 32-bit register word. -/
abbrev Word := BitVec 32
/-- A 64-bit value, held in a register pair (R127). -/
abbrev DWord := BitVec 64
/-- A byte. -/
abbrev Byte := BitVec 8
/-- The 128 bytes of a memory line, byte i in bits [8i+7:8i] (R41). -/
abbrev Line := BitVec 1024

end Sys2Proof
end

