-- ==== Sys2Proof/Syntax.lean ====
section
/-!
DEFINITION. The instructions and steps of the machine, one constructor per row of spec/opcode_table.json: the words
of R16 to R25 with the fields of the row, and the steps that no word encodes (spec/95_what_each_step_holds.md) with
what names the step, and, where the step answers something outside the part, what it is given.  The order of the
constructors is no part of the spec; the compiled form of Lean can build only the first 244 constructors that have
fields, so what builds the others (the decoder, and the step) is marked noncomputable and runs in the kernel.
-/

namespace Sys2Proof

/-- Where a speculative request aims (R121): an L1 line, a home slice line, a constant-cache line or a TLB entry. -/
inductive SpecPath where
  | l1 | l2 | constant | tlb
  deriving DecidableEq, Repr

/-- The operation of a request that arrives from another device (R295, R297).  Data are given with the byte offset in
the line; an atomic step is given as (offset, operand, comparand). -/
inductive RemoteOp where
  /-- a read of the line -/
  | read
  /-- VERS of the line -/
  | vers
  /-- a write of bytes, with the granules whose bytes arrive poisoned (R59, R295) -/
  | write (bytes : List (Nat × BitVec 8)) (poison : BitVec 4)
  /-- an integer atomic of R24: operation number 0 to 12 and its steps in order -/
  | atomic (op : Nat) (steps : List (Nat × BitVec 64 × BitVec 64))
  /-- ATOMF: double width, rounding mode, steps -/
  | fadd (dbl : Bool) (rm : BitVec 3) (steps : List (Nat × BitVec 64))
  /-- MSADD: true for .h, rounding mode, seed, virtual line address bits, steps -/
  | msadd (half : Bool) (rm : BitVec 3) (seed key : BitVec 64) (steps : List (Nat × BitVec 16))
  /-- CWR: expected version and bytes -/
  | cwr (expect : BitVec 12) (bytes : List (Nat × BitVec 8))
  /-- FLIP, which no device accepts over the fabric (R297) -/
  | flip
  /-- a heat update, which no device accepts over the fabric (R297) -/
  | heat
  deriving DecidableEq, Repr

/-- A request that arrives over the fabric: sender, domain key, physical line address and operation (R297), with the
end-to-end sequence tag (R301). -/
structure RemoteReq where
  sender : Nat
  key    : BitVec 16
  tag    : Nat
  line   : Nat
  op     : RemoteOp
  deriving DecidableEq, Repr

/-- The answer to a request this device sent over a port or to host memory (R295, R298, R309). -/
inductive RemoteResp where
  /-- the line's bytes, version and poison, after the operation; `old` holds the line before it; `done` says whether
  the operation wrote (a CWR or CAS that fails does not) -/
  | line (data old : BitVec 1024) (version : BitVec 12) (poison : BitVec 4) (done : Bool) (flags : BitVec 5)
  /-- the request was refused (R297, R298) -/
  | refused
  deriving DecidableEq, Repr

/-- One constructor per row of the opcode table. -/
inductive Instr where
  | trap (b : BitVec 6)
  | rdsr (d : BitVec 6) (n : BitVec 6) (m : BitVec 3)
  | wrsr (a : BitVec 6) (n : BitVec 6) (m : BitVec 3)
  | wrsrTlbinv (a : BitVec 6)
  | hintImm (p : BitVec 22)
  | hintG (s : BitVec 1) (p : BitVec 3)
  | hintC (r : BitVec 7)
  | hintCScale (a : BitVec 5) (b : BitVec 5)
  | hintRm (r : BitVec 3)
  | hintSc (s : BitVec 3)
  | hintDep (c : BitVec 2) (s : BitVec 6) (f : BitVec 6)
  | bra (g : BitVec 3) (s : BitVec 1) (p : BitVec 6) (d : BitVec 16)
  | jmp (p : BitVec 5) (d : BitVec 20)
  | call (p : BitVec 5) (d : BitVec 20)
  | brx (a : BitVec 6) (b : BitVec 6)
  | setprio (b : BitVec 6)
  | syncC (a : BitVec 6)
  | barT (a : BitVec 6)
  | rvinit (a : BitVec 6) (b : BitVec 6)
  | rvarr (d : BitVec 6) (b : BitVec 6)
  | rvwait (a : BitVec 6) (b : BitVec 6)
  | quotaGive (a : BitVec 6) (b : BitVec 6)
  | quotaTake (a : BitVec 6) (b : BitVec 6)
  | pop (d : BitVec 6) (a : BitVec 6)
  | popTry (d : BitVec 6) (a : BitVec 6)
  | push (d : BitVec 6) (a : BitVec 6)
  | fin (a : BitVec 6)
  | qstat (d : BitVec 6) (a : BitVec 6)
  | qctl (a : BitVec 6) (b : BitVec 6)
  | iadd (d : BitVec 7) (a : BitVec 7) (b : BitVec 7)
  | iaddc (d : BitVec 7) (a : BitVec 7) (b : BitVec 7)
  | isub (d : BitVec 7) (a : BitVec 7) (b : BitVec 7)
  | isubb (d : BitVec 7) (a : BitVec 7) (b : BitVec 7)
  | iminI32 (d : BitVec 7) (a : BitVec 7) (b : BitVec 7)
  | iminZ32 (d : BitVec 7) (a : BitVec 7) (b : BitVec 7)
  | imaxI32 (d : BitVec 7) (a : BitVec 7) (b : BitVec 7)
  | imaxZ32 (d : BitVec 7) (a : BitVec 7) (b : BitVec 7)
  | iabs (d : BitVec 7) (a : BitVec 7)
  | and (d : BitVec 7) (a : BitVec 7) (b : BitVec 7)
  | or (d : BitVec 7) (a : BitVec 7) (b : BitVec 7)
  | xor (d : BitVec 7) (a : BitVec 7) (b : BitVec 7)
  | andn (d : BitVec 7) (a : BitVec 7) (b : BitVec 7)
  | shl (d : BitVec 7) (a : BitVec 7) (b : BitVec 7)
  | shr (d : BitVec 7) (a : BitVec 7) (b : BitVec 7)
  | sar (d : BitVec 7) (a : BitVec 7) (b : BitVec 7)
  | iadd64 (d : BitVec 7) (a : BitVec 7) (b : BitVec 7)
  | iaddc64 (d : BitVec 7) (a : BitVec 7) (b : BitVec 7)
  | isub64 (d : BitVec 7) (a : BitVec 7) (b : BitVec 7)
  | isubb64 (d : BitVec 7) (a : BitVec 7) (b : BitVec 7)
  | iminI64 (d : BitVec 7) (a : BitVec 7) (b : BitVec 7)
  | iminZ64 (d : BitVec 7) (a : BitVec 7) (b : BitVec 7)
  | imaxI64 (d : BitVec 7) (a : BitVec 7) (b : BitVec 7)
  | imaxZ64 (d : BitVec 7) (a : BitVec 7) (b : BitVec 7)
  | iabs64 (d : BitVec 7) (a : BitVec 7)
  | and64 (d : BitVec 7) (a : BitVec 7) (b : BitVec 7)
  | or64 (d : BitVec 7) (a : BitVec 7) (b : BitVec 7)
  | xor64 (d : BitVec 7) (a : BitVec 7) (b : BitVec 7)
  | andn64 (d : BitVec 7) (a : BitVec 7) (b : BitVec 7)
  | shl64 (d : BitVec 7) (a : BitVec 7) (b : BitVec 7)
  | shr64 (d : BitVec 7) (a : BitVec 7) (b : BitVec 7)
  | sar64 (d : BitVec 7) (a : BitVec 7) (b : BitVec 7)
  | iaddi (d : BitVec 7) (a : BitVec 7) (i : BitVec 12)
  | andi (d : BitVec 7) (a : BitVec 7) (i : BitVec 12)
  | ori (d : BitVec 7) (a : BitVec 7) (i : BitVec 12)
  | xori (d : BitVec 7) (a : BitVec 7) (i : BitVec 12)
  | shli (d : BitVec 7) (a : BitVec 7) (c : BitVec 5)
  | shri (d : BitVec 7) (a : BitVec 7) (c : BitVec 5)
  | sari (d : BitVec 7) (a : BitVec 7) (c : BitVec 5)
  | icmpi (c : BitVec 3) (s : BitVec 1) (p : BitVec 3) (a : BitVec 7) (i : BitVec 12)
  | imul (d : BitVec 7) (a : BitVec 7) (b : BitVec 7)
  | imulhI32 (d : BitVec 7) (a : BitVec 7) (b : BitVec 7)
  | imulhZ32 (d : BitVec 7) (a : BitVec 7) (b : BitVec 7)
  | imad (d : BitVec 7) (a : BitVec 7) (b : BitVec 7)
  | imadwI32 (d : BitVec 7) (a : BitVec 7) (b : BitVec 7)
  | imadwZ32 (d : BitVec 7) (a : BitVec 7) (b : BitVec 7)
  | idivI32 (d : BitVec 7) (a : BitVec 7) (b : BitVec 7)
  | idivZ32 (d : BitVec 7) (a : BitVec 7) (b : BitVec 7)
  | iremI32 (d : BitVec 7) (a : BitVec 7) (b : BitVec 7)
  | iremZ32 (d : BitVec 7) (a : BitVec 7) (b : BitVec 7)
  | popc (d : BitVec 7) (a : BitVec 7)
  | clz (d : BitVec 7) (a : BitVec 7)
  | ctz (d : BitVec 7) (a : BitVec 7)
  | brev (d : BitVec 7) (a : BitVec 7)
  | rot (d : BitVec 7) (a : BitVec 7) (b : BitVec 7)
  | funnel (d : BitVec 7) (a : BitVec 7) (b : BitVec 7)
  | bfxI32 (d : BitVec 7) (a : BitVec 7) (b : BitVec 7)
  | bfxZ32 (d : BitVec 7) (a : BitVec 7) (b : BitVec 7)
  | bfi (d : BitVec 7) (a : BitVec 7) (b : BitVec 7)
  | icmp32 (c : BitVec 3) (s : BitVec 1) (p : BitVec 3) (a : BitVec 7) (b : BitVec 7)
  | icmp64 (c : BitVec 3) (s : BitVec 1) (p : BitVec 3) (a : BitVec 7) (b : BitVec 7)
  | sel (d : BitVec 7) (a : BitVec 7) (b : BitVec 7) (n : BitVec 3)
  | leaPair (d : BitVec 7) (a : BitVec 7) (b : BitVec 7) (e : BitVec 1) (s : BitVec 3)
  | lea32 (d : BitVec 7) (a : BitVec 7) (b : BitVec 7) (e : BitVec 1) (s : BitVec 3)
  | uadd (d : BitVec 6) (a : BitVec 6) (b : BitVec 6) (w : BitVec 1)
  | usub (d : BitVec 6) (a : BitVec 6) (b : BitVec 6) (w : BitVec 1)
  | umul (d : BitVec 6) (a : BitVec 6) (b : BitVec 6)
  | umad (d : BitVec 6) (a : BitVec 6) (b : BitVec 6)
  | uand (d : BitVec 6) (a : BitVec 6) (b : BitVec 6) (w : BitVec 1)
  | uor (d : BitVec 6) (a : BitVec 6) (b : BitVec 6) (w : BitVec 1)
  | uxor (d : BitVec 6) (a : BitVec 6) (b : BitVec 6) (w : BitVec 1)
  | ushl (d : BitVec 6) (a : BitVec 6) (b : BitVec 6) (w : BitVec 1)
  | ushr (d : BitVec 6) (a : BitVec 6) (b : BitVec 6) (w : BitVec 1)
  | usar (d : BitVec 6) (a : BitVec 6) (b : BitVec 6) (w : BitVec 1)
  | ucmpI (d : BitVec 6) (a : BitVec 6) (b : BitVec 6) (c : BitVec 3)
  | ucmpZ (d : BitVec 6) (a : BitVec 6) (b : BitVec 6) (c : BitVec 3)
  | usel (d : BitVec 6) (a : BitVec 6) (b : BitVec 6) (w : BitVec 1)
  | uld (d : BitVec 6) (a : BitVec 6) (w : BitVec 1)
  | uaddi (d : BitVec 6) (a : BitVec 6) (i : BitVec 12)
  | umovi (d : BitVec 6) (i : BitVec 12)
  | mov (d : BitVec 7) (a : BitVec 7)
  | movi (d : BitVec 7) (i : BitVec 14)
  | movu (d : BitVec 6) (a : BitVec 6) (w : BitVec 1)
  | movs (w : BitVec 1) (d : BitVec 6) (a : BitVec 7) (n : BitVec 5)
  | rfal (w : BitVec 1) (d : BitVec 6) (a : BitVec 7)
  | shfl (d : BitVec 7) (a : BitVec 7) (b : BitVec 7)
  | bfly (d : BitVec 7) (a : BitVec 7) (m : BitVec 5)
  | crewAll (p : BitVec 3) (s : BitVec 1) (q : BitVec 3)
  | crewAny (p : BitVec 3) (s : BitVec 1) (q : BitVec 3)
  | crewSame (p : BitVec 3) (s : BitVec 1) (q : BitVec 3)
  | crewMask (d : BitVec 7) (s : BitVec 1) (q : BitVec 3)
  | matchB (d : BitVec 7) (a : BitVec 7)
  | matchB64 (d : BitVec 7) (a : BitVec 7)
  | redux (d : BitVec 7) (a : BitVec 7) (t : BitVec 2)
  | scan (d : BitVec 7) (a : BitVec 7) (t : BitVec 2)
  | scanEx (d : BitVec 7) (a : BitVec 7) (t : BitVec 2)
  | matchF (d : BitVec 7) (a : BitVec 7) (t : BitVec 2)
  | fadd (d : BitVec 7) (a : BitVec 7) (b : BitVec 7) (t : BitVec 2)
  | fsub (d : BitVec 7) (a : BitVec 7) (b : BitVec 7) (t : BitVec 2)
  | fmul (d : BitVec 7) (a : BitVec 7) (b : BitVec 7) (t : BitVec 2)
  | fmin (d : BitVec 7) (a : BitVec 7) (b : BitVec 7) (t : BitVec 2)
  | fmax (d : BitVec 7) (a : BitVec 7) (b : BitVec 7) (t : BitVec 2)
  | fabs (d : BitVec 7) (a : BitVec 7) (t : BitVec 2)
  | fneg (d : BitVec 7) (a : BitVec 7) (t : BitVec 2)
  | fscale (d : BitVec 7) (a : BitVec 7) (b : BitVec 7) (t : BitVec 2)
  | fma (d : BitVec 7) (a : BitVec 7) (b : BitVec 7) (t : BitVec 2)
  | fdiv (d : BitVec 7) (a : BitVec 7) (b : BitVec 7) (t : BitVec 2)
  | fsqrt (d : BitVec 7) (a : BitVec 7) (t : BitVec 2)
  | frsq (d : BitVec 7) (a : BitVec 7) (t : BitVec 2)
  | frcp (d : BitVec 7) (a : BitVec 7) (t : BitVec 2)
  | fexp (d : BitVec 7) (a : BitVec 7) (t : BitVec 2)
  | fexp2 (d : BitVec 7) (a : BitVec 7) (t : BitVec 2)
  | fexp10 (d : BitVec 7) (a : BitVec 7) (t : BitVec 2)
  | fexpm1 (d : BitVec 7) (a : BitVec 7) (t : BitVec 2)
  | flog (d : BitVec 7) (a : BitVec 7) (t : BitVec 2)
  | flog2 (d : BitVec 7) (a : BitVec 7) (t : BitVec 2)
  | flog10 (d : BitVec 7) (a : BitVec 7) (t : BitVec 2)
  | flog1p (d : BitVec 7) (a : BitVec 7) (t : BitVec 2)
  | fsin (d : BitVec 7) (a : BitVec 7) (t : BitVec 2)
  | fcos (d : BitVec 7) (a : BitVec 7) (t : BitVec 2)
  | ftan (d : BitVec 7) (a : BitVec 7) (t : BitVec 2)
  | fsinpi (d : BitVec 7) (a : BitVec 7) (t : BitVec 2)
  | fcospi (d : BitVec 7) (a : BitVec 7) (t : BitVec 2)
  | fatan (d : BitVec 7) (a : BitVec 7) (t : BitVec 2)
  | ftanh (d : BitVec 7) (a : BitVec 7) (t : BitVec 2)
  | ferf (d : BitVec 7) (a : BitVec 7) (t : BitVec 2)
  | fcbrt (d : BitVec 7) (a : BitVec 7) (t : BitVec 2)
  | fatan2 (d : BitVec 7) (a : BitVec 7) (b : BitVec 7) (t : BitVec 2)
  | fhypot (d : BitVec 7) (a : BitVec 7) (b : BitVec 7) (t : BitVec 2)
  | fpow (d : BitVec 7) (a : BitVec 7) (b : BitVec 7)
  | fdot2 (d : BitVec 7) (a : BitVec 7) (b : BitVec 7) (t : BitVec 1)
  | fdot4 (d : BitVec 7) (a : BitVec 7) (b : BitVec 7) (t : BitVec 1)
  | fcmp (c : BitVec 3) (p : BitVec 3) (a : BitVec 7) (b : BitVec 7) (t : BitVec 2)
  | fclass (d : BitVec 7) (a : BitVec 7) (t : BitVec 2)
  | frnd (d : BitVec 7) (a : BitVec 7) (t : BitVec 2)
  | fexpo (d : BitVec 7) (a : BitVec 7) (t : BitVec 2)
  | cvt (d : BitVec 7) (a : BitVec 7) (x : BitVec 4) (y : BitVec 4)
  | cvtiF2i (d : BitVec 7) (a : BitVec 7) (x : BitVec 4) (y : BitVec 4)
  | cvtiI2f (d : BitVec 7) (a : BitVec 7) (x : BitVec 4) (y : BitVec 4)
  | quant (d : BitVec 7) (a : BitVec 7) (b : BitVec 7)
  | deq (d : BitVec 7) (a : BitVec 7) (b : BitVec 7)
  | pack (d : BitVec 7) (a : BitVec 7) (w : BitVec 2)
  | unpack (d : BitVec 7) (a : BitVec 7) (w : BitVec 2)
  | amaxPush (d : BitVec 7) (a : BitVec 7) (b : BitVec 7)
  | amaxScale (d : BitVec 7) (a : BitVec 7) (b : BitVec 7)
  | ld (d : BitVec 7) (a : BitVec 7) (z : BitVec 3) (o : BitVec 9)
  | st (d : BitVec 7) (s : BitVec 7) (a : BitVec 7) (z : BitVec 3)
  | lds (d : BitVec 7) (a : BitVec 7) (z : BitVec 3)
  | sts (d : BitVec 7) (s : BitVec 7) (a : BitVec 7) (z : BitVec 3)
  | ldv (d : BitVec 7) (a : BitVec 7) (z : BitVec 3)
  | stv (d : BitVec 7) (s : BitVec 7) (a : BitVec 7) (z : BitVec 3)
  | ldc (d : BitVec 7) (a : BitVec 7) (z : BitVec 3) (o : BitVec 9)
  | ldw (d : BitVec 7) (w : BitVec 7) (a : BitVec 7) (z : BitVec 3)
  | stw (d : BitVec 7) (s : BitVec 7) (a : BitVec 7) (z : BitVec 3)
  | wmerge (d : BitVec 7) (a : BitVec 7) (b : BitVec 7)
  | wall (d : BitVec 7)
  | atomAdd (d : BitVec 7) (a : BitVec 7) (b : BitVec 7) (w : BitVec 1)
  | redAdd (d : BitVec 7) (a : BitVec 7) (b : BitVec 7) (w : BitVec 1)
  | atomMin (d : BitVec 7) (a : BitVec 7) (b : BitVec 7) (z : BitVec 1)
  | redMin (d : BitVec 7) (a : BitVec 7) (b : BitVec 7) (z : BitVec 1)
  | atomMax (d : BitVec 7) (a : BitVec 7) (b : BitVec 7) (z : BitVec 1)
  | redMax (d : BitVec 7) (a : BitVec 7) (b : BitVec 7) (z : BitVec 1)
  | atomAnd (d : BitVec 7) (a : BitVec 7) (b : BitVec 7)
  | redAnd (d : BitVec 7) (a : BitVec 7) (b : BitVec 7)
  | atomOr (d : BitVec 7) (a : BitVec 7) (b : BitVec 7)
  | redOr (d : BitVec 7) (a : BitVec 7) (b : BitVec 7)
  | atomXor (d : BitVec 7) (a : BitVec 7) (b : BitVec 7)
  | redXor (d : BitVec 7) (a : BitVec 7) (b : BitVec 7)
  | atomExch32 (d : BitVec 7) (a : BitVec 7) (b : BitVec 7)
  | atomExch64 (d : BitVec 7) (a : BitVec 7) (b : BitVec 7)
  | atomCas32 (d : BitVec 7) (a : BitVec 7) (b : BitVec 7)
  | atomCas64 (d : BitVec 7) (a : BitVec 7) (b : BitVec 7)
  | atomfAddS (d : BitVec 7) (a : BitVec 7) (b : BitVec 7)
  | atomfAddD (d : BitVec 7) (a : BitVec 7) (b : BitVec 7)
  | atomfRedS (d : BitVec 7) (a : BitVec 7) (b : BitVec 7)
  | atomfRedD (d : BitVec 7) (a : BitVec 7) (b : BitVec 7)
  | ordAtom (c : BitVec 7) (a : BitVec 7) (b : BitVec 7)
  | ordClose (d : BitVec 7) (a : BitVec 7)
  | resv (d : BitVec 7) (b : BitVec 7)
  | msaddBf (d : BitVec 7) (a : BitVec 7) (b : BitVec 7)
  | msaddH (d : BitVec 7) (a : BitVec 7) (b : BitVec 7)
  | cwr (d : BitVec 7) (a : BitVec 7) (b : BitVec 7)
  | vers (d : BitVec 7) (a : BitVec 7)
  | flip (d : BitVec 7) (a : BitVec 7)
  | ldRs (d : BitVec 7) (a : BitVec 7) (z : BitVec 3)
  | stRs32 (d : BitVec 7) (a : BitVec 7) (b : BitVec 7)
  | stRs64 (d : BitVec 7) (a : BitVec 7) (b : BitVec 7)
  | pref (a : BitVec 7) (l : BitVec 1)
  | pfenceS (d : BitVec 7)
  | discLine (a : BitVec 7)
  | tiledef (a : BitVec 6) (b : BitVec 6)
  | tiledefClr (b : BitVec 6)
  | tilestat (d : BitVec 6) (b : BitVec 6)
  | trel (b : BitVec 6)
  | cpy (a : BitVec 6) (b : BitVec 6)
  | cpyMc (d : BitVec 6) (a : BitVec 6) (b : BitVec 6)
  | cpyOut (a : BitVec 6)
  | cpyCvt (a : BitVec 6) (b : BitVec 6)
  | xform (a : BitVec 6) (b : BitVec 6)
  | xprog (a : BitVec 6) (b : BitVec 6)
  | seal (d : BitVec 6)
  | waitb (d : BitVec 6) (b : BitVec 6)
  | mma (m : BitVec 2) (n : BitVec 6) (a : BitVec 5) (b : BitVec 5) (c : BitVec 4) (f : BitVec 4)
  | mmaG (m : BitVec 2) (n : BitVec 6) (a : BitVec 5) (b : BitVec 5) (c : BitVec 4) (f : BitVec 3)
  | mmaCv (m : BitVec 2) (n : BitVec 6) (a : BitVec 5) (b : BitVec 5) (c : BitVec 4) (f : BitVec 3)
  | mmas (m : BitVec 2) (n : BitVec 6) (a : BitVec 5) (b : BitVec 5) (c : BitVec 4) (f : BitVec 4)
  | accdef (a : BitVec 6) (r : BitVec 4)
  | accdefClr (r : BitVec 4)
  | accz (r : BitVec 4)
  | accrd (d : BitVec 7) (a : BitVec 7) (c : BitVec 2) (r : BitVec 4)
  | accrdSt (d : BitVec 7) (a : BitVec 7) (c : BitVec 2) (r : BitVec 4)
  | accwr (s : BitVec 7) (a : BitVec 7) (c : BitVec 2) (r : BitVec 4)
  | accdrain (d : BitVec 6) (a : BitVec 6) (r : BitVec 4) (w : BitVec 2)
  | accsave (d : BitVec 6) (a : BitVec 6) (r : BitVec 4)
  | mwait (d : BitVec 6) (i : BitVec 6)
  | nop
  | eret
  | ret
  | yield
  | exit
  | gbar
  | pfenceC
  | discL1
  | discK
  | rslvWait
  | preemptSave (d : BitVec 6) (a : BitVec 6)
  | preemptRest (d : BitVec 6) (a : BitVec 6)
  | killg (d : BitVec 6) (a : BitVec 6)
  | killgL (d : BitVec 6) (a : BitVec 6)
  | stRs8 (d : BitVec 7) (a : BitVec 7) (b : BitVec 7)
  | stRs16 (d : BitVec 7) (a : BitVec 7) (b : BitVec 7)
  | stRs128 (d : BitVec 7) (a : BitVec 7) (b : BitVec 7)
  | cpyCvtOut (a : BitVec 6)
  | xformOut (a : BitVec 6)
  | accload (d : BitVec 6) (a : BitVec 6) (r : BitVec 4)
  | rslvStat (d : BitVec 6) (n : BitVec 6)
  | entryRaised (crew thread : Nat)
  | yieldExpire (crew thread : Nat)
  | rvarrCount (op : Nat)
  | quotaMove (crew : Nat)
  | fastResult (op : Nat)
  | resolverAccept (core record : Nat)
  | resolverSettle (core record : Nat)
  | exactStageSettle (core record : Nat)
  | matrixCommandStart (cmd : Nat)
  | matrixCommandRetire (cmd : Nat)
  | matrixEscalationSettle (cmd cell : Nat)
  | homeCommand (op line : Nat)
  | stackFill (line : Nat)
  | patrolScrub (line : Nat)
  | tableWalk (walk : Nat)
  | ticketAssign
  | tlbinvComplete (inv : Nat)
  | loadResponse (op : Nat)
  | storePerformed (op line : Nat)
  | requestRetry (op line : Nat)
  | speculativeRequest (crew : Nat) (va : BitVec 64) (path : SpecPath)
  | copyLine (copy line : Nat)
  | tileReady (copy : Nat)
  | tileDrained (team tile : Nat)
  | batchFinish (crew thread batch : Nat)
  | amaxRingPush (op : Nat)
  | ordUpdateAccept (op update : Nat)
  | heatCloseCount (op : Nat)
  | remoteRequest (req : RemoteReq)
  | remoteResponse (op line : Nat) (resp : RemoteResp)
  | fabricTimeout (gang device : Nat)
  | linkRetrain (port width cause : BitVec 8) (downns : BitVec 32) (peer : BitVec 16)
  | hostBar2Read (off : BitVec 45) (len : Nat)
  | hostBar2Write (off : BitVec 45) (bytes : List (BitVec 8))
  | devid (value : BitVec 32)
  | hostTlbinv (value : BitVec 64)
  | qtail (q : BitVec 9) (t : BitVec 32)
  | bar0RegisterWrite (off : BitVec 22) (wide : Bool) (value : BitVec 64)
  | launchRequest
  | launchStart
  | timeSliceSwitch (cluster : Nat)
  | dispatch (crew : Nat)
  | roleGovernor (launch : BitVec 32)
  | noticeAppend (q : Nat)
  | launchEnd (launch : BitVec 32)
  | gangKill (gang : Nat)
  | gangRelaunch (gang : Nat)
  | dieReset (die : Bool) (reason : BitVec 8)
  | dieResetComplete (die : Bool) (downus : BitVec 32)
  | gangSave (gang : Nat)
  | gangRestore (gang : Nat)
  | powerOn (fail : BitVec 4)
  | fundamentalReset (fail : BitVec 4)
  | functionLevelReset (fail : BitVec 4)
  | monitorSample (number : BitVec 9) (value : BitVec 32)
  | boardPowerRemoval
  | portTrainingComplete (port width : BitVec 8)
  | bar2SizeChange (log2 : BitVec 6)
  | powerLoss
  deriving DecidableEq, Repr

end Sys2Proof
end

