-- ==== Sys2Proof/Machine/Shape.lean ====
section
/-!
DEFINITION. The register operands of every instruction: which fields name which registers, how wide, and whether they
are read or written (R19 to R21 and the field tables of each chapter).  The checks of `Instr.wellFormed`, the quota rule
(R128) and the scoreboard (R134) all read this one table.
-/

namespace Sys2Proof

/-- How many 32-bit registers an operand takes (R127). -/
inductive RegWidth where
  | one | pair | quad
  deriving DecidableEq, Repr

/-- An operand field of an instruction. -/
inductive Opnd where
  /-- a vector destination field of R19 -/
  | vd (w : RegWidth) (f : BitVec 7)
  /-- a source field of R19 -/
  | vs (w : RegWidth) (f : BitVec 7)
  /-- the third source of a form whose HINT.C is optional: the hint's field, or the destination's old value (R29) -/
  | c3 (w : RegWidth) (d : BitVec 7)
  /-- the field of a required HINT.C (R29); `none` where it names no register (MMAS) -/
  | creq (w : Option RegWidth)
  /-- a uniform destination of R17 -/
  | ud (w : RegWidth) (f : BitVec 6)
  /-- a uniform source of R17 -/
  | us (w : RegWidth) (f : BitVec 6)
  /-- a block of n consecutive uniform registers whose first is a multiple of `align` -/
  | blk (n align : Nat) (f : BitVec 6)
  /-- a descriptor block of 8 uniform registers, of which the instruction reads those listed (R92) -/
  | desc (reads : List Nat) (f : BitVec 6)
  /-- a predicate destination (R20) -/
  | pd (p : BitVec 3)
  /-- a predicate source (R20) -/
  | ps (p : BitVec 3)
  /-- s0 to s7, which a POP writes (R355) -/
  | popd
  deriving DecidableEq, Repr

/-- The width selected by a one-bit field: 0 single, 1 pair (R143, R197). -/
def bW (w : BitVec 1) : RegWidth := if w = 1#1 then .pair else .one
/-- The width of a floating-point operand of format fmt: pairs for .d (R200). -/
def fW (t : BitVec 2) : RegWidth := if t = 1#2 then .pair else .one
/-- The width of a load or store of a size code (R21). -/
def zW (z : BitVec 3) : RegWidth := if z = 5#3 then .pair else if z = 6#3 then .quad else .one
/-- The width of a floating-point code of the C format (R25). -/
def ffW (x : BitVec 4) : RegWidth := if x = 1#4 then .pair else .one
/-- The width of an integer code of the C format (R25). -/
def ifW (x : BitVec 4) : RegWidth := if x = 3#4 ∨ x = 7#4 then .pair else .one
/-- A register field that names a uniform register (R19). -/
def isU (f : BitVec 7) : Bool := (96#7).ule f && f.ule 126#7
/-- The size codes of a store (R21). -/
def stCode (z : BitVec 3) : Bool := z == 0#3 || z == 2#3 || z == 4#3 || z == 5#3 || z == 6#3
/-- The special registers 64 bits wide (R368). -/
def srW (n : BitVec 9) : RegWidth := if n = 19#9 ∨ n = 36#9 ∨ n = 48#9 then .pair else .one
/-- The numbers of the monitor registers (R381). -/
def srMonitor (n : Nat) : Bool :=
  (256 ≤ n && n ≤ 317) || (320 ≤ n && n ≤ 459)
/-- The special registers that RDSR reads (R368, R381). -/
def srReadable (n : BitVec 9) : Bool :=
  let k := n.toNat
  k ≤ 12 || (16 ≤ k && k ≤ 19) || (32 ≤ k && k ≤ 36) || k == 49 || srMonitor k
/-- The special registers that WRSR writes (R368). -/
def srWritable (n : BitVec 9) : Bool :=
  let k := n.toNat
  (16 ≤ k && k ≤ 18) || (32 ≤ k && k ≤ 36) || k == 48 || k == 49

/-- A vector destination field is one R19 allows. -/
def vdOk (w : RegWidth) (f : BitVec 7) : Bool :=
  f == 127#7 || (f.ult 96#7 && (match w with
    | .one => true
    | .pair => f.toNat % 2 == 0
    | .quad => f.toNat % 4 == 0))

/-- A source field is one R19 allows. -/
def vsOk (w : RegWidth) (f : BitVec 7) : Bool :=
  match w with
  | .one => true
  | .pair => f == 127#7 || (f.toNat % 2 == 0 && !(f == 126#7))
  | .quad => f == 127#7 || f.toNat % 4 == 0

/-- A uniform field of the U and UI formats is aligned for its width (R19). -/
def ufOk (w : RegWidth) (f : BitVec 6) : Bool :=
  match w with
  | .one => true
  | .pair => f.toNat % 2 == 0
  | .quad => f.toNat % 4 == 0

/-- The field of one operand is one R19, R20 and R92 allow. -/
def Opnd.ok : Opnd → Bool
  | .vd w f => vdOk w f
  | .vs w f => vsOk w f
  | .c3 _ _ => true
  | .creq _ => true
  | .ud w f => ufOk w f
  | .us w f => ufOk w f
  | .blk n al f => f.toNat % al == 0 && f.toNat + n ≤ 64
  | .desc _ f => f.toNat % 8 == 0
  | .pd _ => true
  | .ps _ => true
  | .popd => true

/-- The register operands of an instruction. -/
def Instr.shape (i : Instr) : List Opnd :=
  match i with
  | .nop => []
  | .trap _ => []
  | .eret => []
  | .rdsr d n m => [.ud (srW (m ++ n)) d]
  | .wrsr a n m => [.us (srW (m ++ n)) a]
  | .wrsrTlbinv a => [.us .pair a]
  | .preemptSave d a => [.ud .pair d, .blk 8 8 a]
  | .preemptRest d a => [.ud .pair d, .blk 8 8 a]
  | .killg d a => [.ud .one d, .us .pair a]
  | .killgL d a => [.ud .one d, .us .pair a]
  | .hintImm _ => []
  | .hintG _ _ => []
  | .hintC _ => []
  | .hintCScale _ _ => []
  | .hintRm _ => []
  | .hintSc _ => []
  | .hintDep _ _ _ => []
  | .bra g _ _ _ => [.ps g]
  | .jmp _ _ => []
  | .call _ _ => []
  | .ret => []
  | .brx a _ => [.us .one a]
  | .yield => []
  | .exit => []
  | .setprio _ => []
  | .syncC a => [.us .one a]
  | .barT a => [.us .one a]
  | .rvinit a _ => [.us .one a]
  | .rvarr d _ => [.ud .one d]
  | .rvwait a _ => [.us .one a]
  | .gbar => []
  | .quotaGive _ _ => []
  | .quotaTake _ _ => []
  | .pop d a => [.ud .pair d, .us .one a, .popd]
  | .popTry d a => [.ud .pair d, .us .one a, .popd]
  | .push d a => [.ud .pair d, .blk 12 4 a]
  | .fin a => [.us .pair a]
  | .qstat d a => [.ud .pair d, .us .one a]
  | .qctl a _ => [.us .pair a]
  | .iadd d a b => [.vd .one d, .vs .one a, .vs .one b]
  | .iaddc d a b => [.vd .one d, .vs .one a, .vs .one b]
  | .isub d a b => [.vd .one d, .vs .one a, .vs .one b]
  | .isubb d a b => [.vd .one d, .vs .one a, .vs .one b]
  | .iminI32 d a b => [.vd .one d, .vs .one a, .vs .one b]
  | .iminZ32 d a b => [.vd .one d, .vs .one a, .vs .one b]
  | .imaxI32 d a b => [.vd .one d, .vs .one a, .vs .one b]
  | .imaxZ32 d a b => [.vd .one d, .vs .one a, .vs .one b]
  | .iabs d a => [.vd .one d, .vs .one a]
  | .and d a b => [.vd .one d, .vs .one a, .vs .one b]
  | .or d a b => [.vd .one d, .vs .one a, .vs .one b]
  | .xor d a b => [.vd .one d, .vs .one a, .vs .one b]
  | .andn d a b => [.vd .one d, .vs .one a, .vs .one b]
  | .shl d a b => [.vd .one d, .vs .one a, .vs .one b]
  | .shr d a b => [.vd .one d, .vs .one a, .vs .one b]
  | .sar d a b => [.vd .one d, .vs .one a, .vs .one b]
  | .iadd64 d a b => [.vd .pair d, .vs .pair a, .vs .pair b]
  | .iaddc64 d a b => [.vd .pair d, .vs .pair a, .vs .pair b]
  | .isub64 d a b => [.vd .pair d, .vs .pair a, .vs .pair b]
  | .isubb64 d a b => [.vd .pair d, .vs .pair a, .vs .pair b]
  | .iminI64 d a b => [.vd .pair d, .vs .pair a, .vs .pair b]
  | .iminZ64 d a b => [.vd .pair d, .vs .pair a, .vs .pair b]
  | .imaxI64 d a b => [.vd .pair d, .vs .pair a, .vs .pair b]
  | .imaxZ64 d a b => [.vd .pair d, .vs .pair a, .vs .pair b]
  | .iabs64 d a => [.vd .pair d, .vs .pair a]
  | .and64 d a b => [.vd .pair d, .vs .pair a, .vs .pair b]
  | .or64 d a b => [.vd .pair d, .vs .pair a, .vs .pair b]
  | .xor64 d a b => [.vd .pair d, .vs .pair a, .vs .pair b]
  | .andn64 d a b => [.vd .pair d, .vs .pair a, .vs .pair b]
  | .shl64 d a b => [.vd .pair d, .vs .pair a, .vs .one b]
  | .shr64 d a b => [.vd .pair d, .vs .pair a, .vs .one b]
  | .sar64 d a b => [.vd .pair d, .vs .pair a, .vs .one b]
  | .iaddi d a _ => [.vd .one d, .vs .one a]
  | .andi d a _ => [.vd .one d, .vs .one a]
  | .ori d a _ => [.vd .one d, .vs .one a]
  | .xori d a _ => [.vd .one d, .vs .one a]
  | .shli d a _ => [.vd .one d, .vs .one a]
  | .shri d a _ => [.vd .one d, .vs .one a]
  | .sari d a _ => [.vd .one d, .vs .one a]
  | .icmpi _ _ p a _ => [.pd p, .vs .one a]
  | .imul d a b => [.vd .one d, .vs .one a, .vs .one b]
  | .imulhI32 d a b => [.vd .one d, .vs .one a, .vs .one b]
  | .imulhZ32 d a b => [.vd .one d, .vs .one a, .vs .one b]
  | .imad d a b => [.vd .one d, .vs .one a, .vs .one b, .c3 .one d]
  | .imadwI32 d a b => [.vd .pair d, .vs .one a, .vs .one b, .c3 .pair d]
  | .imadwZ32 d a b => [.vd .pair d, .vs .one a, .vs .one b, .c3 .pair d]
  | .idivI32 d a b => [.vd .one d, .vs .one a, .vs .one b]
  | .idivZ32 d a b => [.vd .one d, .vs .one a, .vs .one b]
  | .iremI32 d a b => [.vd .one d, .vs .one a, .vs .one b]
  | .iremZ32 d a b => [.vd .one d, .vs .one a, .vs .one b]
  | .popc d a => [.vd .one d, .vs .one a]
  | .clz d a => [.vd .one d, .vs .one a]
  | .ctz d a => [.vd .one d, .vs .one a]
  | .brev d a => [.vd .one d, .vs .one a]
  | .rot d a b => [.vd .one d, .vs .one a, .vs .one b]
  | .funnel d a b => [.vd .one d, .vs .one a, .vs .one b, .c3 .one d]
  | .bfxI32 d a b => [.vd .one d, .vs .one a, .vs .one b]
  | .bfxZ32 d a b => [.vd .one d, .vs .one a, .vs .one b]
  | .bfi d a b => [.vd .one d, .vs .one a, .vs .one b, .c3 .one d]
  | .icmp32 _ _ p a b => [.pd p, .vs .one a, .vs .one b]
  | .icmp64 _ _ p a b => [.pd p, .vs .pair a, .vs .pair b]
  | .sel d a b n => [.vd .one d, .vs .one a, .vs .one b, .ps n]
  | .leaPair d a b _ _ => [.vd .pair d, .vs .pair a, .vs .one b]
  | .lea32 d a b _ _ => [.vd .one d, .vs .one a, .vs .one b]
  | .uadd d a b w => [.ud (bW w) d, .us (bW w) a, .us (bW w) b]
  | .usub d a b w => [.ud (bW w) d, .us (bW w) a, .us (bW w) b]
  | .umul d a b => [.ud .one d, .us .one a, .us .one b]
  | .umad d a b => [.ud .one d, .us .one d, .us .one a, .us .one b]
  | .uand d a b w => [.ud (bW w) d, .us (bW w) a, .us (bW w) b]
  | .uor d a b w => [.ud (bW w) d, .us (bW w) a, .us (bW w) b]
  | .uxor d a b w => [.ud (bW w) d, .us (bW w) a, .us (bW w) b]
  | .ushl d a b w => [.ud (bW w) d, .us (bW w) a, .us .one b]
  | .ushr d a b w => [.ud (bW w) d, .us (bW w) a, .us .one b]
  | .usar d a b w => [.ud (bW w) d, .us (bW w) a, .us .one b]
  | .ucmpI d a b _ => [.ud .one d, .us .one a, .us .one b]
  | .ucmpZ d a b _ => [.ud .one d, .us .one a, .us .one b]
  | .usel d a b w => [.ud (bW w) d, .us (bW w) d, .us (bW w) a, .us (bW w) b]
  | .uld d a w => [.ud (bW w) d, .us .pair a]
  | .uaddi d a _ => [.ud .one d, .us .one a]
  | .umovi d _ => [.ud .one d]
  | .mov d a => [.vd .one d, .vs .one a]
  | .movi d _ => [.vd .one d]
  | .movu d a w => [.ud (bW w) d, .us (bW w) a]
  | .movs w d a _ => [.ud (bW w) d, .vs (bW w) a]
  | .rfal w d a => [.ud (bW w) d, .vs (bW w) a]
  | .shfl d a b => [.vd .one d, .vs .one a, .vs .one b]
  | .bfly d a _ => [.vd .one d, .vs .one a]
  | .crewAll p _ q => [.pd p, .ps q]
  | .crewAny p _ q => [.pd p, .ps q]
  | .crewSame p _ q => [.pd p, .ps q]
  | .crewMask d _ q => [.vd .one d, .ps q]
  | .matchB d a => [.vd .one d, .vs .one a]
  | .matchB64 d a => [.vd .one d, .vs .pair a]
  | .redux d a t => [.vd (fW t) d, .vs (fW t) a]
  | .scan d a t => [.vd (fW t) d, .vs (fW t) a]
  | .scanEx d a t => [.vd (fW t) d, .vs (fW t) a]
  | .matchF d a t => [.vd .one d, .vs (fW t) a]
  | .fadd d a b t => [.vd (fW t) d, .vs (fW t) a, .vs (fW t) b]
  | .fsub d a b t => [.vd (fW t) d, .vs (fW t) a, .vs (fW t) b]
  | .fmul d a b t => [.vd (fW t) d, .vs (fW t) a, .vs (fW t) b]
  | .fmin d a b t => [.vd (fW t) d, .vs (fW t) a, .vs (fW t) b]
  | .fmax d a b t => [.vd (fW t) d, .vs (fW t) a, .vs (fW t) b]
  | .fabs d a t => [.vd (fW t) d, .vs (fW t) a]
  | .fneg d a t => [.vd (fW t) d, .vs (fW t) a]
  | .fscale d a b t => [.vd (fW t) d, .vs (fW t) a, .vs .one b]
  | .fma d a b t => [.vd (fW t) d, .vs (fW t) a, .vs (fW t) b, .c3 (fW t) d]
  | .fdiv d a b t => [.vd (fW t) d, .vs (fW t) a, .vs (fW t) b]
  | .fsqrt d a t => [.vd (fW t) d, .vs (fW t) a]
  | .frsq d a t => [.vd (fW t) d, .vs (fW t) a]
  | .frcp d a t => [.vd (fW t) d, .vs (fW t) a]
  | .fexp d a t => [.vd (fW t) d, .vs (fW t) a]
  | .fexp2 d a t => [.vd (fW t) d, .vs (fW t) a]
  | .fexp10 d a t => [.vd (fW t) d, .vs (fW t) a]
  | .fexpm1 d a t => [.vd (fW t) d, .vs (fW t) a]
  | .flog d a t => [.vd (fW t) d, .vs (fW t) a]
  | .flog2 d a t => [.vd (fW t) d, .vs (fW t) a]
  | .flog10 d a t => [.vd (fW t) d, .vs (fW t) a]
  | .flog1p d a t => [.vd (fW t) d, .vs (fW t) a]
  | .fsin d a t => [.vd (fW t) d, .vs (fW t) a]
  | .fcos d a t => [.vd (fW t) d, .vs (fW t) a]
  | .ftan d a t => [.vd (fW t) d, .vs (fW t) a]
  | .fsinpi d a t => [.vd (fW t) d, .vs (fW t) a]
  | .fcospi d a t => [.vd (fW t) d, .vs (fW t) a]
  | .fatan d a t => [.vd (fW t) d, .vs (fW t) a]
  | .ftanh d a t => [.vd (fW t) d, .vs (fW t) a]
  | .ferf d a t => [.vd (fW t) d, .vs (fW t) a]
  | .fcbrt d a t => [.vd (fW t) d, .vs (fW t) a]
  | .fatan2 d a b t => [.vd (fW t) d, .vs (fW t) a, .vs (fW t) b]
  | .fhypot d a b t => [.vd (fW t) d, .vs (fW t) a, .vs (fW t) b]
  | .fpow d a b => [.vd .one d, .vs .one a, .vs .one b]
  | .fdot2 d a b _ => [.vd .one d, .vs .one a, .vs .one b, .c3 .one d]
  | .fdot4 d a b _ => [.vd .one d, .vs .one a, .vs .one b, .c3 .one d]
  | .fcmp _ p a b t => [.pd p, .vs (fW t) a, .vs (fW t) b]
  | .fclass d a t => [.vd .one d, .vs (fW t) a]
  | .frnd d a t => [.vd (fW t) d, .vs (fW t) a]
  | .fexpo d a t => [.vd .one d, .vs (fW t) a]
  | .cvt d a x y => [.vd (ffW x) d, .vs (ffW y) a]
  | .cvtiF2i d a x y => [.vd (ifW x) d, .vs (ffW y) a]
  | .cvtiI2f d a x y => [.vd (ffW x) d, .vs (ifW y) a]
  | .quant d a b => [.vd .one d, .vs .one a, .vs .one b]
  | .deq d a b => [.vd .one d, .vs .one a, .vs .one b]
  | .pack d a _ => [.vd .one d, .vs .one a]
  | .unpack d a _ => [.vd .one d, .vs .one a]
  | .amaxPush d a b => [.vd .pair d, .vs .one a, .vs .pair b]
  | .amaxScale d a b => [.vd .one d, .vs .one a, .vs .pair b]
  | .ld d a z _ => [.vd (zW z) d, .vs .pair a]
  | .st d s a z => [.vd .pair d, .vs (zW z) s, .vs .pair a]
  | .lds d a z => [.vd (zW z) d, .vs .one a]
  | .sts d s a z => [.vd .pair d, .vs (zW z) s, .vs .one a]
  | .ldv d a z => [.vd (zW z) d, .vs .one a]
  | .stv d s a z => [.vd .pair d, .vs (zW z) s, .vs .one a]
  | .ldc d a z _ => [.vd (zW z) d, .vs .pair a]
  | .ldw d w a z => [.vd (zW z) d, .vs .pair w, .vs .pair a]
  | .stw d s a z => [.vd .pair d, .vs (zW z) s, .vs .pair a, .creq (some .pair)]
  | .wmerge d a b => [.vd .pair d, .vs .pair a, .vs .pair b]
  | .wall d => [.vd .pair d]
  | .atomAdd d a b w => [.vd (bW w) d, .vs .pair a, .vs (bW w) b]
  | .redAdd d a b w => [.vd .pair d, .vs .pair a, .vs (bW w) b]
  | .atomMin d a b _ => [.vd .one d, .vs .pair a, .vs .one b]
  | .redMin d a b _ => [.vd .pair d, .vs .pair a, .vs .one b]
  | .atomMax d a b _ => [.vd .one d, .vs .pair a, .vs .one b]
  | .redMax d a b _ => [.vd .pair d, .vs .pair a, .vs .one b]
  | .atomAnd d a b => [.vd .one d, .vs .pair a, .vs .one b]
  | .redAnd d a b => [.vd .pair d, .vs .pair a, .vs .one b]
  | .atomOr d a b => [.vd .one d, .vs .pair a, .vs .one b]
  | .redOr d a b => [.vd .pair d, .vs .pair a, .vs .one b]
  | .atomXor d a b => [.vd .one d, .vs .pair a, .vs .one b]
  | .redXor d a b => [.vd .pair d, .vs .pair a, .vs .one b]
  | .atomExch32 d a b => [.vd .one d, .vs .pair a, .vs .one b]
  | .atomExch64 d a b => [.vd .pair d, .vs .pair a, .vs .pair b]
  | .atomCas32 d a b => [.vd .one d, .vs .pair a, .vs .one b, .creq (some .one)]
  | .atomCas64 d a b => [.vd .pair d, .vs .pair a, .vs .pair b, .creq (some .pair)]
  | .atomfAddS d a b => [.vd .one d, .vs .pair a, .vs .one b]
  | .atomfAddD d a b => [.vd .pair d, .vs .pair a, .vs .pair b]
  | .atomfRedS d a b => [.vd .pair d, .vs .pair a, .vs .one b]
  | .atomfRedD d a b => [.vd .pair d, .vs .pair a, .vs .pair b]
  | .ordAtom c a _ => [.vs .one c, .vs .pair a]
  | .ordClose d a => [.vd .pair d, .vs .one a]
  | .resv d _ => [.vd .one d]
  | .msaddBf d a b => [.vd .pair d, .vs .pair a, .vs .one b]
  | .msaddH d a b => [.vd .pair d, .vs .pair a, .vs .one b]
  | .cwr d a b => [.vd .pair d, .vs .pair a, .vs .pair b]
  | .vers d a => [.vd .one d, .vs .pair a]
  | .flip d a => [.vd .pair d, .vs .pair a]
  | .ldRs d a z => [.vd (zW z) d, .vs .one a]
  | .stRs8 d a b => [.vd .pair d, .vs .one a, .vs .one b]
  | .stRs16 d a b => [.vd .pair d, .vs .one a, .vs .one b]
  | .stRs32 d a b => [.vd .pair d, .vs .one a, .vs .one b]
  | .stRs64 d a b => [.vd .pair d, .vs .one a, .vs .pair b]
  | .stRs128 d a b => [.vd .pair d, .vs .one a, .vs .quad b]
  | .pref a _ => [.vs .pair a]
  | .pfenceS d => [.vd .pair d]
  | .pfenceC => []
  | .discLine a => [.vs .pair a]
  | .discL1 => []
  | .discK => []
  | .tiledef a _ => [.us .one a]
  | .tiledefClr _ => []
  | .tilestat d _ => [.ud .one d]
  | .trel _ => []
  | .cpy a _ => [.desc [0, 1, 2, 3, 6, 7] a]
  | .cpyMc d a _ => [.ud .pair d, .desc [0, 1, 2, 3, 4, 6, 7] a]
  | .cpyOut a => [.desc [0, 1, 2, 3, 4, 5, 6, 7] a]
  | .cpyCvt a _ => [.desc [0, 1, 2, 3, 6, 7] a]
  | .cpyCvtOut a => [.desc [0, 1, 2, 3, 4, 5, 6, 7] a]
  | .xform a _ => [.desc [0, 1, 3, 6, 7] a]
  | .xformOut a => [.desc [0, 1, 3, 4, 6, 7] a]
  | .xprog a _ => [.us .pair a]
  | .seal d => [.ud .one d]
  | .waitb d _ => [.ud .pair d]
  | .mma _ _ _ _ _ _ => []
  | .mmaG _ _ _ _ _ _ => [.creq (some .one)]
  | .mmaCv _ _ _ _ _ _ => [.creq (some .quad)]
  | .mmas _ _ _ _ _ _ => [.creq none]
  | .accdef a _ => [.us .one a]
  | .accdefClr _ => []
  | .accz _ => []
  | .accrd _ a _ _ => [.vs .one a]
  | .accrdSt _ a _ _ => [.vs .one a]
  | .accwr _ a _ _ => [.vs .one a]
  | .accdrain d a _ _ => [.ud .pair d, .blk 4 4 a]
  | .accsave d a _ => [.ud .pair d, .us .pair a]
  | .accload d a _ => [.us .pair d, .us .pair a]
  | .mwait d _ => [.ud .one d]
  | .rslvWait => []
  | .rslvStat d _ => [.ud .one d]
  | .entryRaised _ _ => []
  | .yieldExpire _ _ => []
  | .rvarrCount _ => []
  | .quotaMove _ => []
  | .fastResult _ => []
  | .resolverAccept _ _ => []
  | .resolverSettle _ _ => []
  | .exactStageSettle _ _ => []
  | .matrixCommandStart _ => []
  | .matrixCommandRetire _ => []
  | .matrixEscalationSettle _ _ => []
  | .homeCommand _ _ => []
  | .stackFill _ => []
  | .patrolScrub _ => []
  | .tableWalk _ => []
  | .ticketAssign => []
  | .tlbinvComplete _ => []
  | .loadResponse _ => []
  | .storePerformed _ _ => []
  | .requestRetry _ _ => []
  | .speculativeRequest _ _ _ => []
  | .copyLine _ _ => []
  | .tileReady _ => []
  | .tileDrained _ _ => []
  | .batchFinish _ _ _ => []
  | .amaxRingPush _ => []
  | .ordUpdateAccept _ _ => []
  | .heatCloseCount _ => []
  | .remoteRequest _ => []
  | .remoteResponse _ _ _ => []
  | .fabricTimeout _ _ => []
  | .linkRetrain _ _ _ _ _ => []
  | .hostBar2Read _ _ => []
  | .hostBar2Write _ _ => []
  | .devid _ => []
  | .hostTlbinv _ => []
  | .qtail _ _ => []
  | .bar0RegisterWrite _ _ _ => []
  | .launchRequest => []
  | .launchStart => []
  | .timeSliceSwitch _ => []
  | .dispatch _ => []
  | .roleGovernor _ => []
  | .noticeAppend _ => []
  | .launchEnd _ => []
  | .gangKill _ => []
  | .gangRelaunch _ => []
  | .dieReset _ _ => []
  | .dieResetComplete _ _ => []
  | .gangSave _ => []
  | .gangRestore _ => []
  | .powerOn _ => []
  | .fundamentalReset _ => []
  | .functionLevelReset _ => []
  | .monitorSample _ _ => []
  | .boardPowerRemoval => []
  | .portTrainingComplete _ _ => []
  | .bar2SizeChange _ => []
  | .powerLoss => []

/-- The checks of an instruction's own codes, beside those of its register fields (R20, R21, R23, R25, R27, and the
field tables). -/
def Instr.codesOk (i : Instr) : Bool :=
  match i with
  | .nop => true
  | .trap _ => true
  | .eret => true
  | .rdsr _ n m => srReadable (m ++ n)
  | .wrsr _ n m => srWritable (m ++ n) && !(m ++ n == 48#9)
  | .wrsrTlbinv _ => true
  | .preemptSave _ _ => true
  | .preemptRest _ _ => true
  | .killg _ _ => true
  | .killgL _ _ => true
  | .hintImm _ => true
  | .hintG _ _ => true
  | .hintC _ => true
  | .hintCScale a _ => !(a.extractLsb' 2 3 == 0#3)
  | .hintRm r => r.ule 5#3
  | .hintSc s => s.ule 4#3
  | .hintDep c s _ => (c == 1#2 && s == 0#6) || c == 2#2
  | .bra _ _ _ _ => true
  | .jmp _ _ => true
  | .call _ _ => true
  | .ret => true
  | .brx _ _ => true
  | .yield => true
  | .exit => true
  | .setprio _ => true
  | .syncC _ => true
  | .barT _ => true
  | .rvinit _ b => b.ult 24#6
  | .rvarr _ b => b.ult 24#6
  | .rvwait _ b => b.ult 24#6
  | .gbar => true
  | .quotaGive a b => a.ult 32#6 && (1#6).ule b && b.ult 12#6
  | .quotaTake a b => a.ult 32#6 && (1#6).ule b && b.ult 12#6
  | .pop d _ => (8#6).ule d
  | .popTry d _ => (8#6).ule d
  | .push _ a => a.ule 52#6
  | .fin _ => true
  | .qstat _ _ => true
  | .qctl _ b => b.ule 3#6
  | .iadd _ _ _ => true
  | .iaddc _ _ _ => true
  | .isub _ _ _ => true
  | .isubb _ _ _ => true
  | .iminI32 _ _ _ => true
  | .iminZ32 _ _ _ => true
  | .imaxI32 _ _ _ => true
  | .imaxZ32 _ _ _ => true
  | .iabs _ _ => true
  | .and _ _ _ => true
  | .or _ _ _ => true
  | .xor _ _ _ => true
  | .andn _ _ _ => true
  | .shl _ _ _ => true
  | .shr _ _ _ => true
  | .sar _ _ _ => true
  | .iadd64 _ _ _ => true
  | .iaddc64 _ _ _ => true
  | .isub64 _ _ _ => true
  | .isubb64 _ _ _ => true
  | .iminI64 _ _ _ => true
  | .iminZ64 _ _ _ => true
  | .imaxI64 _ _ _ => true
  | .imaxZ64 _ _ _ => true
  | .iabs64 _ _ => true
  | .and64 _ _ _ => true
  | .or64 _ _ _ => true
  | .xor64 _ _ _ => true
  | .andn64 _ _ _ => true
  | .shl64 _ _ _ => true
  | .shr64 _ _ _ => true
  | .sar64 _ _ _ => true
  | .iaddi _ _ _ => true
  | .andi _ _ _ => true
  | .ori _ _ _ => true
  | .xori _ _ _ => true
  | .shli _ _ _ => true
  | .shri _ _ _ => true
  | .sari _ _ _ => true
  | .icmpi c _ _ _ _ => c.ult 6#3
  | .imul _ _ _ => true
  | .imulhI32 _ _ _ => true
  | .imulhZ32 _ _ _ => true
  | .imad _ _ _ => true
  | .imadwI32 _ _ _ => true
  | .imadwZ32 _ _ _ => true
  | .idivI32 _ _ _ => true
  | .idivZ32 _ _ _ => true
  | .iremI32 _ _ _ => true
  | .iremZ32 _ _ _ => true
  | .popc _ _ => true
  | .clz _ _ => true
  | .ctz _ _ => true
  | .brev _ _ => true
  | .rot _ _ _ => true
  | .funnel _ _ _ => true
  | .bfxI32 _ _ _ => true
  | .bfxZ32 _ _ _ => true
  | .bfi _ _ _ => true
  | .icmp32 c _ _ _ _ => c.ult 6#3
  | .icmp64 c _ _ _ _ => c.ult 6#3
  | .sel _ _ _ _ => true
  | .leaPair _ _ _ _ _ => true
  | .lea32 _ _ _ _ _ => true
  | .uadd _ _ _ _ => true
  | .usub _ _ _ _ => true
  | .umul _ _ _ => true
  | .umad _ _ _ => true
  | .uand _ _ _ _ => true
  | .uor _ _ _ _ => true
  | .uxor _ _ _ _ => true
  | .ushl _ _ _ _ => true
  | .ushr _ _ _ _ => true
  | .usar _ _ _ _ => true
  | .ucmpI _ _ _ c => c.ult 6#3
  | .ucmpZ _ _ _ c => c.ult 6#3
  | .usel _ _ _ _ => true
  | .uld _ _ _ => true
  | .uaddi _ _ _ => true
  | .umovi _ _ => true
  | .mov _ _ => true
  | .movi _ _ => true
  | .movu _ _ _ => true
  | .movs _ _ _ _ => true
  | .rfal _ _ _ => true
  | .shfl _ _ _ => true
  | .bfly _ _ _ => true
  | .crewAll _ _ _ => true
  | .crewAny _ _ _ => true
  | .crewSame _ _ _ => true
  | .crewMask _ _ _ => true
  | .matchB _ _ => true
  | .matchB64 _ _ => true
  | .redux _ _ _ => true
  | .scan _ _ _ => true
  | .scanEx _ _ _ => true
  | .matchF _ _ _ => true
  | .fadd _ _ _ _ => true
  | .fsub _ _ _ _ => true
  | .fmul _ _ _ _ => true
  | .fmin _ _ _ _ => true
  | .fmax _ _ _ _ => true
  | .fabs _ _ _ => true
  | .fneg _ _ _ => true
  | .fscale _ _ _ _ => true
  | .fma _ _ _ _ => true
  | .fdiv _ _ _ _ => true
  | .fsqrt _ _ _ => true
  | .frsq _ _ _ => true
  | .frcp _ _ _ => true
  | .fexp _ _ _ => true
  | .fexp2 _ _ _ => true
  | .fexp10 _ _ _ => true
  | .fexpm1 _ _ _ => true
  | .flog _ _ _ => true
  | .flog2 _ _ _ => true
  | .flog10 _ _ _ => true
  | .flog1p _ _ _ => true
  | .fsin _ _ _ => true
  | .fcos _ _ _ => true
  | .ftan _ _ _ => true
  | .fsinpi _ _ _ => true
  | .fcospi _ _ _ => true
  | .fatan _ _ _ => true
  | .ftanh _ _ _ => true
  | .ferf _ _ _ => true
  | .fcbrt _ _ _ => true
  | .fatan2 _ _ _ _ => true
  | .fhypot _ _ _ _ => true
  | .fpow _ _ _ => true
  | .fdot2 _ _ _ _ => true
  | .fdot4 _ _ _ _ => true
  | .fcmp _ _ _ _ _ => true
  | .fclass _ _ _ => true
  | .frnd _ _ _ => true
  | .fexpo _ _ _ => true
  | .cvt _ _ x y => x.ule 8#4 && y.ule 8#4
  | .cvtiF2i _ _ x y => x.ule 7#4 && y.ule 8#4
  | .cvtiI2f _ _ x y => x.ule 8#4 && y.ule 7#4
  | .quant _ _ _ => true
  | .deq _ _ _ => true
  | .pack _ _ _ => true
  | .unpack _ _ _ => true
  | .amaxPush _ _ b => isU b
  | .amaxScale _ a _ => isU a
  | .ld _ _ z _ => !(z == 7#3)
  | .st _ _ _ z => stCode z
  | .lds _ _ z => !(z == 7#3)
  | .sts _ _ _ z => stCode z
  | .ldv _ _ z => !(z == 7#3)
  | .stv _ _ _ z => stCode z
  | .ldc _ _ z _ => !(z == 7#3)
  | .ldw _ _ _ z => !(z == 7#3)
  | .stw _ _ _ z => stCode z
  | .wmerge _ _ _ => true
  | .wall _ => true
  | .atomAdd _ _ _ _ => true
  | .redAdd _ _ _ _ => true
  | .atomMin _ _ _ _ => true
  | .redMin _ _ _ _ => true
  | .atomMax _ _ _ _ => true
  | .redMax _ _ _ _ => true
  | .atomAnd _ _ _ => true
  | .redAnd _ _ _ => true
  | .atomOr _ _ _ => true
  | .redOr _ _ _ => true
  | .atomXor _ _ _ => true
  | .redXor _ _ _ => true
  | .atomExch32 _ _ _ => true
  | .atomExch64 _ _ _ => true
  | .atomCas32 _ _ _ => true
  | .atomCas64 _ _ _ => true
  | .atomfAddS _ _ _ => true
  | .atomfAddD _ _ _ => true
  | .atomfRedS _ _ _ => true
  | .atomfRedD _ _ _ => true
  | .ordAtom c _ _ => isU c
  | .ordClose _ a => isU a
  | .resv _ b => b.ule 2#7
  | .msaddBf _ _ _ => true
  | .msaddH _ _ _ => true
  | .cwr _ _ _ => true
  | .vers _ _ => true
  | .flip _ _ => true
  | .ldRs _ _ z => !(z == 7#3)
  | .stRs8 _ _ _ => true
  | .stRs16 _ _ _ => true
  | .stRs32 _ _ _ => true
  | .stRs64 _ _ _ => true
  | .stRs128 _ _ _ => true
  | .pref _ _ => true
  | .pfenceS _ => true
  | .pfenceC => true
  | .discLine _ => true
  | .discL1 => true
  | .discK => true
  | .tiledef _ b => b.ult 32#6
  | .tiledefClr b => b.ult 32#6
  | .tilestat _ b => b.ult 32#6
  | .trel b => b.ult 32#6
  | .cpy _ b => b.ult 32#6
  | .cpyMc _ _ b => b.ult 32#6
  | .cpyOut _ => true
  | .cpyCvt _ b => b.ult 32#6
  | .cpyCvtOut _ => true
  | .xform _ b => b.ult 32#6
  | .xformOut _ => true
  | .xprog _ b => b.ult 4#6
  | .seal _ => true
  | .waitb _ _ => true
  | .mma m _ _ _ _ f => !(m == 3#2) && f.ule 11#4
  | .mmaG m _ _ _ _ _ => !(m == 3#2)
  | .mmaCv m _ _ _ _ _ => !(m == 3#2)
  | .mmas m _ _ _ _ f => !(m == 3#2) && f.ule 5#4
  | .accdef _ _ => true
  | .accdefClr _ => true
  | .accz _ => true
  | .accrd d a _ _ => isU a && !(isU d)
  | .accrdSt d a _ _ => isU a && !(isU d)
  | .accwr s a _ _ => isU a && !(isU s)
  | .accdrain _ _ _ _ => true
  | .accsave _ _ _ => true
  | .accload _ _ _ => true
  | .mwait _ _ => true
  | .rslvWait => true
  | .rslvStat _ n => n.ule 5#6
  | .entryRaised _ _ => true
  | .yieldExpire _ _ => true
  | .rvarrCount _ => true
  | .quotaMove _ => true
  | .fastResult _ => true
  | .resolverAccept _ _ => true
  | .resolverSettle _ _ => true
  | .exactStageSettle _ _ => true
  | .matrixCommandStart _ => true
  | .matrixCommandRetire _ => true
  | .matrixEscalationSettle _ _ => true
  | .homeCommand _ _ => true
  | .stackFill _ => true
  | .patrolScrub _ => true
  | .tableWalk _ => true
  | .ticketAssign => true
  | .tlbinvComplete _ => true
  | .loadResponse _ => true
  | .storePerformed _ _ => true
  | .requestRetry _ _ => true
  | .speculativeRequest _ _ _ => true
  | .copyLine _ _ => true
  | .tileReady _ => true
  | .tileDrained _ _ => true
  | .batchFinish _ _ _ => true
  | .amaxRingPush _ => true
  | .ordUpdateAccept _ _ => true
  | .heatCloseCount _ => true
  | .remoteRequest _ => true
  | .remoteResponse _ _ _ => true
  | .fabricTimeout _ _ => true
  | .linkRetrain _ _ _ _ _ => true
  | .hostBar2Read _ _ => true
  | .hostBar2Write _ _ => true
  | .devid _ => true
  | .hostTlbinv _ => true
  | .qtail _ _ => true
  | .bar0RegisterWrite _ _ _ => true
  | .launchRequest => true
  | .launchStart => true
  | .timeSliceSwitch _ => true
  | .dispatch _ => true
  | .roleGovernor _ => true
  | .noticeAppend _ => true
  | .launchEnd _ => true
  | .gangKill _ => true
  | .gangRelaunch _ => true
  | .dieReset _ _ => true
  | .dieResetComplete _ _ => true
  | .gangSave _ => true
  | .gangRestore _ => true
  | .powerOn _ => true
  | .fundamentalReset _ => true
  | .functionLevelReset _ => true
  | .monitorSample _ _ => true
  | .boardPowerRemoval => true
  | .portTrainingComplete _ _ => true
  | .bar2SizeChange _ => true
  | .powerLoss => true

/-- The hint kinds an instruction accepts (R29). -/
structure HintSet where
  imm   : Bool := false
  g     : Bool := false
  c     : Bool := false
  /-- HINT.C is required -/
  cReq  : Bool := false
  rm    : Bool := false
  sc    : Bool := false
  dep   : Bool := false
  /-- it rounds and SR in force makes it an invalid instruction -/
  noSr  : Bool := false
  deriving DecidableEq, Repr

/-- The hint kinds each instruction accepts, the required HINT.C, and whether SR in force is refused (R29). -/
def Instr.takes (i : Instr) : HintSet :=
  match i with
  | .nop => { }
  | .trap _ => { }
  | .eret => { }
  | .rdsr _ _ _ => { }
  | .wrsr _ _ _ => { }
  | .wrsrTlbinv _ => { }
  | .preemptSave _ _ => { }
  | .preemptRest _ _ => { }
  | .killg _ _ => { }
  | .killgL _ _ => { }
  | .hintImm _ => { }
  | .hintG _ _ => { }
  | .hintC _ => { }
  | .hintCScale _ _ => { }
  | .hintRm _ => { }
  | .hintSc _ => { }
  | .hintDep _ _ _ => { }
  | .bra _ _ _ _ => { }
  | .jmp _ _ => { }
  | .call _ _ => { }
  | .ret => { g := true }
  | .brx _ _ => { g := true }
  | .yield => { }
  | .exit => { g := true }
  | .setprio _ => { }
  | .syncC _ => { }
  | .barT _ => { }
  | .rvinit _ _ => { }
  | .rvarr _ _ => { }
  | .rvwait _ _ => { }
  | .gbar => { }
  | .quotaGive _ _ => { }
  | .quotaTake _ _ => { }
  | .pop _ _ => { }
  | .popTry _ _ => { }
  | .push _ _ => { }
  | .fin _ => { }
  | .qstat _ _ => { }
  | .qctl _ _ => { }
  | .iadd _ _ _ => { g := true }
  | .iaddc _ _ _ => { g := true }
  | .isub _ _ _ => { g := true }
  | .isubb _ _ _ => { g := true }
  | .iminI32 _ _ _ => { g := true }
  | .iminZ32 _ _ _ => { g := true }
  | .imaxI32 _ _ _ => { g := true }
  | .imaxZ32 _ _ _ => { g := true }
  | .iabs _ _ => { g := true }
  | .and _ _ _ => { g := true }
  | .or _ _ _ => { g := true }
  | .xor _ _ _ => { g := true }
  | .andn _ _ _ => { g := true }
  | .shl _ _ _ => { g := true }
  | .shr _ _ _ => { g := true }
  | .sar _ _ _ => { g := true }
  | .iadd64 _ _ _ => { g := true }
  | .iaddc64 _ _ _ => { g := true }
  | .isub64 _ _ _ => { g := true }
  | .isubb64 _ _ _ => { g := true }
  | .iminI64 _ _ _ => { g := true }
  | .iminZ64 _ _ _ => { g := true }
  | .imaxI64 _ _ _ => { g := true }
  | .imaxZ64 _ _ _ => { g := true }
  | .iabs64 _ _ => { g := true }
  | .and64 _ _ _ => { g := true }
  | .or64 _ _ _ => { g := true }
  | .xor64 _ _ _ => { g := true }
  | .andn64 _ _ _ => { g := true }
  | .shl64 _ _ _ => { g := true }
  | .shr64 _ _ _ => { g := true }
  | .sar64 _ _ _ => { g := true }
  | .iaddi _ _ _ => { imm := true, g := true }
  | .andi _ _ _ => { imm := true, g := true }
  | .ori _ _ _ => { imm := true, g := true }
  | .xori _ _ _ => { imm := true, g := true }
  | .shli _ _ _ => { imm := true, g := true }
  | .shri _ _ _ => { imm := true, g := true }
  | .sari _ _ _ => { imm := true, g := true }
  | .icmpi _ _ _ _ _ => { imm := true, g := true }
  | .imul _ _ _ => { g := true }
  | .imulhI32 _ _ _ => { g := true }
  | .imulhZ32 _ _ _ => { g := true }
  | .imad _ _ _ => { g := true, c := true }
  | .imadwI32 _ _ _ => { g := true, c := true }
  | .imadwZ32 _ _ _ => { g := true, c := true }
  | .idivI32 _ _ _ => { g := true }
  | .idivZ32 _ _ _ => { g := true }
  | .iremI32 _ _ _ => { g := true }
  | .iremZ32 _ _ _ => { g := true }
  | .popc _ _ => { g := true }
  | .clz _ _ => { g := true }
  | .ctz _ _ => { g := true }
  | .brev _ _ => { g := true }
  | .rot _ _ _ => { g := true }
  | .funnel _ _ _ => { g := true, c := true }
  | .bfxI32 _ _ _ => { g := true }
  | .bfxZ32 _ _ _ => { g := true }
  | .bfi _ _ _ => { g := true, c := true }
  | .icmp32 _ _ _ _ _ => { g := true }
  | .icmp64 _ _ _ _ _ => { g := true }
  | .sel _ _ _ _ => { g := true }
  | .leaPair _ _ _ _ _ => { g := true }
  | .lea32 _ _ _ _ _ => { g := true }
  | .uadd _ _ _ _ => { }
  | .usub _ _ _ _ => { }
  | .umul _ _ _ => { }
  | .umad _ _ _ => { }
  | .uand _ _ _ _ => { }
  | .uor _ _ _ _ => { }
  | .uxor _ _ _ _ => { }
  | .ushl _ _ _ _ => { }
  | .ushr _ _ _ _ => { }
  | .usar _ _ _ _ => { }
  | .ucmpI _ _ _ _ => { }
  | .ucmpZ _ _ _ _ => { }
  | .usel _ _ _ _ => { }
  | .uld _ _ _ => { imm := true }
  | .uaddi _ _ _ => { imm := true }
  | .umovi _ _ => { imm := true }
  | .mov _ _ => { g := true }
  | .movi _ _ => { imm := true, g := true }
  | .movu _ _ _ => { }
  | .movs _ _ _ _ => { }
  | .rfal _ _ _ => { g := true }
  | .shfl _ _ _ => { g := true }
  | .bfly _ _ _ => { g := true }
  | .crewAll _ _ _ => { g := true }
  | .crewAny _ _ _ => { g := true }
  | .crewSame _ _ _ => { g := true }
  | .crewMask _ _ _ => { g := true }
  | .matchB _ _ => { g := true }
  | .matchB64 _ _ => { g := true }
  | .redux _ _ _ => { g := true, rm := true, noSr := true }
  | .scan _ _ _ => { g := true, rm := true, noSr := true }
  | .scanEx _ _ _ => { g := true, rm := true, noSr := true }
  | .matchF _ _ _ => { g := true }
  | .fadd _ _ _ _ => { g := true, rm := true, noSr := true }
  | .fsub _ _ _ _ => { g := true, rm := true, noSr := true }
  | .fmul _ _ _ _ => { g := true, rm := true, noSr := true }
  | .fmin _ _ _ _ => { g := true }
  | .fmax _ _ _ _ => { g := true }
  | .fabs _ _ _ => { g := true }
  | .fneg _ _ _ => { g := true }
  | .fscale _ _ _ _ => { g := true, rm := true, noSr := true }
  | .fma _ _ _ _ => { g := true, c := true, rm := true, noSr := true }
  | .fdiv _ _ _ _ => { g := true, rm := true, noSr := true }
  | .fsqrt _ _ _ => { g := true, rm := true, noSr := true }
  | .frsq _ _ _ => { g := true, rm := true, noSr := true }
  | .frcp _ _ _ => { g := true, rm := true, noSr := true }
  | .fexp _ _ _ => { g := true, rm := true, noSr := true }
  | .fexp2 _ _ _ => { g := true, rm := true, noSr := true }
  | .fexp10 _ _ _ => { g := true, rm := true, noSr := true }
  | .fexpm1 _ _ _ => { g := true, rm := true, noSr := true }
  | .flog _ _ _ => { g := true, rm := true, noSr := true }
  | .flog2 _ _ _ => { g := true, rm := true, noSr := true }
  | .flog10 _ _ _ => { g := true, rm := true, noSr := true }
  | .flog1p _ _ _ => { g := true, rm := true, noSr := true }
  | .fsin _ _ _ => { g := true, rm := true, noSr := true }
  | .fcos _ _ _ => { g := true, rm := true, noSr := true }
  | .ftan _ _ _ => { g := true, rm := true, noSr := true }
  | .fsinpi _ _ _ => { g := true, rm := true, noSr := true }
  | .fcospi _ _ _ => { g := true, rm := true, noSr := true }
  | .fatan _ _ _ => { g := true, rm := true, noSr := true }
  | .ftanh _ _ _ => { g := true, rm := true, noSr := true }
  | .ferf _ _ _ => { g := true, rm := true, noSr := true }
  | .fcbrt _ _ _ => { g := true, rm := true, noSr := true }
  | .fatan2 _ _ _ _ => { g := true, rm := true, noSr := true }
  | .fhypot _ _ _ _ => { g := true, rm := true, noSr := true }
  | .fpow _ _ _ => { g := true, rm := true, noSr := true }
  | .fdot2 _ _ _ _ => { g := true, c := true, rm := true, noSr := true }
  | .fdot4 _ _ _ _ => { g := true, c := true, rm := true, noSr := true }
  | .fcmp _ _ _ _ _ => { g := true }
  | .fclass _ _ _ => { g := true }
  | .frnd _ _ _ => { g := true, rm := true, noSr := true }
  | .fexpo _ _ _ => { g := true }
  | .cvt _ _ _ _ => { g := true, rm := true }
  | .cvtiF2i _ _ _ _ => { g := true, rm := true }
  | .cvtiI2f _ _ _ _ => { g := true, rm := true }
  | .quant _ _ _ => { g := true, rm := true }
  | .deq _ _ _ => { g := true }
  | .pack _ _ _ => { g := true }
  | .unpack _ _ _ => { g := true }
  | .amaxPush _ _ _ => { g := true }
  | .amaxScale _ _ _ => { g := true }
  | .ld _ _ _ _ => { imm := true, g := true }
  | .st _ _ _ _ => { imm := true, g := true }
  | .lds _ _ _ => { imm := true, g := true }
  | .sts _ _ _ _ => { imm := true, g := true }
  | .ldv _ _ _ => { imm := true, g := true }
  | .stv _ _ _ _ => { imm := true, g := true }
  | .ldc _ _ _ _ => { imm := true, g := true }
  | .ldw _ _ _ _ => { imm := true, g := true }
  | .stw _ _ _ _ => { imm := true, g := true, c := true, cReq := true }
  | .wmerge _ _ _ => { g := true }
  | .wall _ => { g := true, sc := true }
  | .atomAdd _ _ _ _ => { g := true, sc := true }
  | .redAdd _ _ _ _ => { g := true, sc := true }
  | .atomMin _ _ _ _ => { g := true, sc := true }
  | .redMin _ _ _ _ => { g := true, sc := true }
  | .atomMax _ _ _ _ => { g := true, sc := true }
  | .redMax _ _ _ _ => { g := true, sc := true }
  | .atomAnd _ _ _ => { g := true, sc := true }
  | .redAnd _ _ _ => { g := true, sc := true }
  | .atomOr _ _ _ => { g := true, sc := true }
  | .redOr _ _ _ => { g := true, sc := true }
  | .atomXor _ _ _ => { g := true, sc := true }
  | .redXor _ _ _ => { g := true, sc := true }
  | .atomExch32 _ _ _ => { g := true, sc := true }
  | .atomExch64 _ _ _ => { g := true, sc := true }
  | .atomCas32 _ _ _ => { g := true, c := true, cReq := true, sc := true }
  | .atomCas64 _ _ _ => { g := true, c := true, cReq := true, sc := true }
  | .atomfAddS _ _ _ => { g := true, rm := true, sc := true, noSr := true }
  | .atomfAddD _ _ _ => { g := true, rm := true, sc := true, noSr := true }
  | .atomfRedS _ _ _ => { g := true, rm := true, sc := true, noSr := true }
  | .atomfRedD _ _ _ => { g := true, rm := true, sc := true, noSr := true }
  | .ordAtom _ _ _ => { g := true }
  | .ordClose _ _ => { g := true }
  | .resv _ _ => { g := true }
  | .msaddBf _ _ _ => { g := true, rm := true, sc := true }
  | .msaddH _ _ _ => { g := true, rm := true, sc := true }
  | .cwr _ _ _ => { g := true, sc := true }
  | .vers _ _ => { g := true }
  | .flip _ _ => { g := true, sc := true }
  | .ldRs _ _ _ => { g := true }
  | .stRs8 _ _ _ => { g := true }
  | .stRs16 _ _ _ => { g := true }
  | .stRs32 _ _ _ => { g := true }
  | .stRs64 _ _ _ => { g := true }
  | .stRs128 _ _ _ => { g := true }
  | .pref _ _ => { g := true }
  | .pfenceS _ => { g := true }
  | .pfenceC => { g := true }
  | .discLine _ => { g := true }
  | .discL1 => { g := true }
  | .discK => { g := true }
  | .tiledef _ _ => { }
  | .tiledefClr _ => { }
  | .tilestat _ _ => { }
  | .trel _ => { }
  | .cpy _ _ => { }
  | .cpyMc _ _ _ => { }
  | .cpyOut _ => { }
  | .cpyCvt _ _ => { rm := true }
  | .cpyCvtOut _ => { rm := true }
  | .xform _ _ => { }
  | .xformOut _ => { }
  | .xprog _ _ => { }
  | .seal _ => { }
  | .waitb _ _ => { sc := true }
  | .mma _ _ _ _ _ _ => { rm := true, dep := true, noSr := true }
  | .mmaG _ _ _ _ _ _ => { c := true, cReq := true, rm := true, dep := true, noSr := true }
  | .mmaCv _ _ _ _ _ _ => { c := true, cReq := true, rm := true, dep := true, noSr := true }
  | .mmas _ _ _ _ _ _ => { c := true, cReq := true, rm := true, dep := true, noSr := true }
  | .accdef _ _ => { }
  | .accdefClr _ => { }
  | .accz _ => { }
  | .accrd _ _ _ _ => { }
  | .accrdSt _ _ _ _ => { }
  | .accwr _ _ _ _ => { }
  | .accdrain _ _ _ _ => { rm := true }
  | .accsave _ _ _ => { }
  | .accload _ _ _ => { }
  | .mwait _ _ => { }
  | .rslvWait => { }
  | .rslvStat _ _ => { }
  | .entryRaised _ _ => { }
  | .yieldExpire _ _ => { }
  | .rvarrCount _ => { }
  | .quotaMove _ => { }
  | .fastResult _ => { }
  | .resolverAccept _ _ => { }
  | .resolverSettle _ _ => { }
  | .exactStageSettle _ _ => { }
  | .matrixCommandStart _ => { }
  | .matrixCommandRetire _ => { }
  | .matrixEscalationSettle _ _ => { }
  | .homeCommand _ _ => { }
  | .stackFill _ => { }
  | .patrolScrub _ => { }
  | .tableWalk _ => { }
  | .ticketAssign => { }
  | .tlbinvComplete _ => { }
  | .loadResponse _ => { }
  | .storePerformed _ _ => { }
  | .requestRetry _ _ => { }
  | .speculativeRequest _ _ _ => { }
  | .copyLine _ _ => { }
  | .tileReady _ => { }
  | .tileDrained _ _ => { }
  | .batchFinish _ _ _ => { }
  | .amaxRingPush _ => { }
  | .ordUpdateAccept _ _ => { }
  | .heatCloseCount _ => { }
  | .remoteRequest _ => { }
  | .remoteResponse _ _ _ => { }
  | .fabricTimeout _ _ => { }
  | .linkRetrain _ _ _ _ _ => { }
  | .hostBar2Read _ _ => { }
  | .hostBar2Write _ _ => { }
  | .devid _ => { }
  | .hostTlbinv _ => { }
  | .qtail _ _ => { }
  | .bar0RegisterWrite _ _ _ => { }
  | .launchRequest => { }
  | .launchStart => { }
  | .timeSliceSwitch _ => { }
  | .dispatch _ => { }
  | .roleGovernor _ => { }
  | .noticeAppend _ => { }
  | .launchEnd _ => { }
  | .gangKill _ => { }
  | .gangRelaunch _ => { }
  | .dieReset _ _ => { }
  | .dieResetComplete _ _ => { }
  | .gangSave _ => { }
  | .gangRestore _ => { }
  | .powerOn _ => { }
  | .fundamentalReset _ => { }
  | .functionLevelReset _ => { }
  | .monitorSample _ _ => { }
  | .boardPowerRemoval => { }
  | .portTrainingComplete _ _ => { }
  | .bar2SizeChange _ => { }
  | .powerLoss => { }

end Sys2Proof
end

