-- ==== Sys2Proof/WellFormed.lean ====
section
/-!
DEFINITION. What a word must satisfy, beside matching a row, to be an instruction (R26).  The checks that need the hints
ahead of the instruction (R28, R29, R30) or the crew's state (R128) are made at issue.
-/

namespace Sys2Proof

/-- Every register field is one R19 and R20 allow, and every code is one the row allows (R26). -/
def Instr.wellFormed (i : Instr) : Bool := i.shape.all Opnd.ok && i.codesOk

end Sys2Proof
end

