-- ==== Sys2Proof/Decode.lean ====
section
/-!
DEFINITION. The decoder, total on any word (R22 to R26; noncomputable for the reason Syntax.lean gives), and after it the encoder, both from the encoding tables of the
spec.  A word that no row assigns, or whose register fields and codes R19 to R29 forbid, is refused by name; the issue
logic turns the refusal into the invalid-instruction trap.
-/

namespace Sys2Proof

/-- Why a word is no instruction (R26). -/
inductive DecodeError where
  /-- no row of R22 to R25 assigns the word -/
  | unassigned
  /-- the row exists, and a field holds a value that R19 to R29 or the row's description forbids -/
  | illFormed
  deriving DecidableEq, Repr

/-- Major 0x00, format U (R23). -/
noncomputable def decode00 (d : BitVec 6) (a : BitVec 6) (b : BitVec 6) (x : BitVec 3) (n : BitVec 5) : Option Instr :=
  if d = 0#6 ∧ a = 0#6 ∧ b = 0#6 ∧ x = 0#3 ∧ n = 0#5 then some (.nop)
  else if d = 0#6 ∧ a = 0#6 ∧ b = 0#6 ∧ x = 0#3 ∧ n = 2#5 then some (.eret)
  else if d = 0#6 ∧ a = 0#6 ∧ x = 0#3 ∧ n = 1#5 then some (.trap b)
  else if d = 0#6 ∧ b = 48#6 ∧ x = 0#3 ∧ n = 4#5 then some (.wrsrTlbinv a)
  else if b = 0#6 ∧ x = 0#3 ∧ n = 5#5 then some (.preemptSave d a)
  else if b = 0#6 ∧ x = 1#3 ∧ n = 5#5 then some (.preemptRest d a)
  else if b = 0#6 ∧ x = 0#3 ∧ n = 6#5 then some (.killg d a)
  else if b = 0#6 ∧ x = 1#3 ∧ n = 6#5 then some (.killgL d a)
  else if a = 0#6 ∧ n = 3#5 then some (.rdsr d b x)
  else if d = 0#6 ∧ n = 4#5 then some (.wrsr a b x)
  else none

/-- Major 0x01, format H (R23). -/
def decode01 (k : BitVec 4) (p : BitVec 22) : Option Instr :=
  if k = 3#4 ∧ p.extractLsb' 3 19 = 0#19 then some (.hintRm (p.extractLsb' 0 3))
  else if k = 4#4 ∧ p.extractLsb' 3 19 = 0#19 then some (.hintSc (p.extractLsb' 0 3))
  else if k = 1#4 ∧ p.extractLsb' 4 18 = 0#18 then some (.hintG (p.extractLsb' 3 1) (p.extractLsb' 0 3))
  else if k = 2#4 ∧ p.extractLsb' 7 15 = 0#15 then some (.hintC (p.extractLsb' 0 7))
  else if k = 2#4 ∧ p.extractLsb' 10 12 = 0#12 then some (.hintCScale (p.extractLsb' 5 5) (p.extractLsb' 0 5))
  else if k = 5#4 ∧ p.extractLsb' 14 8 = 0#8 then some (.hintDep (p.extractLsb' 12 2) (p.extractLsb' 6 6) (p.extractLsb' 0 6))
  else if k = 0#4 then some (.hintImm p)
  else none

/-- Major 0x02, format B (R23). -/
def decode02 (g : BitVec 3) (s : BitVec 1) (p : BitVec 6) (o : BitVec 16) : Option Instr :=
  some (.bra g s p o)

/-- Major 0x03, format J (R23). -/
def decode03 (l : BitVec 1) (p : BitVec 5) (o : BitVec 20) : Option Instr :=
  if l = 0#1 then some (.jmp p o)
  else if l = 1#1 then some (.call p o)
  else none

/-- Major 0x04, format U (R23). -/
def decode04 (d : BitVec 6) (a : BitVec 6) (b : BitVec 6) (x : BitVec 3) (n : BitVec 5) : Option Instr :=
  if d = 0#6 ∧ a = 0#6 ∧ b = 0#6 ∧ x = 0#3 ∧ n = 0#5 then some (.ret)
  else if d = 0#6 ∧ a = 0#6 ∧ b = 0#6 ∧ x = 0#3 ∧ n = 2#5 then some (.yield)
  else if d = 0#6 ∧ a = 0#6 ∧ b = 0#6 ∧ x = 0#3 ∧ n = 3#5 then some (.exit)
  else if d = 0#6 ∧ a = 0#6 ∧ b = 0#6 ∧ x = 0#3 ∧ n = 10#5 then some (.gbar)
  else if d = 0#6 ∧ a = 0#6 ∧ x = 0#3 ∧ n = 4#5 then some (.setprio b)
  else if d = 0#6 ∧ b = 0#6 ∧ x = 0#3 ∧ n = 5#5 then some (.syncC a)
  else if d = 0#6 ∧ b = 0#6 ∧ x = 0#3 ∧ n = 6#5 then some (.barT a)
  else if d = 0#6 ∧ x = 0#3 ∧ n = 1#5 then some (.brx a b)
  else if d = 0#6 ∧ x = 0#3 ∧ n = 7#5 then some (.rvinit a b)
  else if a = 0#6 ∧ x = 0#3 ∧ n = 8#5 then some (.rvarr d b)
  else if d = 0#6 ∧ x = 0#3 ∧ n = 9#5 then some (.rvwait a b)
  else if d = 0#6 ∧ x = 0#3 ∧ n = 11#5 then some (.quotaGive a b)
  else if d = 0#6 ∧ x = 1#3 ∧ n = 11#5 then some (.quotaTake a b)
  else none

/-- Major 0x05, format U (R23). -/
def decode05 (d : BitVec 6) (a : BitVec 6) (b : BitVec 6) (x : BitVec 3) (n : BitVec 5) : Option Instr :=
  if d = 0#6 ∧ b = 0#6 ∧ x = 0#3 ∧ n = 2#5 then some (.fin a)
  else if b = 0#6 ∧ x = 0#3 ∧ n = 0#5 then some (.pop d a)
  else if b = 0#6 ∧ x = 1#3 ∧ n = 0#5 then some (.popTry d a)
  else if b = 0#6 ∧ x = 0#3 ∧ n = 1#5 then some (.push d a)
  else if b = 0#6 ∧ x = 0#3 ∧ n = 3#5 then some (.qstat d a)
  else if d = 0#6 ∧ x = 0#3 ∧ n = 4#5 then some (.qctl a b)
  else none

/-- Major 0x08, format V (R23). -/
def decode08 (d : BitVec 7) (a : BitVec 7) (b : BitVec 7) (n : BitVec 5) : Option Instr :=
  if b = 0#7 ∧ n = 8#5 then some (.iabs d a)
  else if n = 0#5 then some (.iadd d a b)
  else if n = 1#5 then some (.iaddc d a b)
  else if n = 2#5 then some (.isub d a b)
  else if n = 3#5 then some (.isubb d a b)
  else if n = 4#5 then some (.iminI32 d a b)
  else if n = 5#5 then some (.iminZ32 d a b)
  else if n = 6#5 then some (.imaxI32 d a b)
  else if n = 7#5 then some (.imaxZ32 d a b)
  else if n = 9#5 then some (.and d a b)
  else if n = 10#5 then some (.or d a b)
  else if n = 11#5 then some (.xor d a b)
  else if n = 12#5 then some (.andn d a b)
  else if n = 13#5 then some (.shl d a b)
  else if n = 14#5 then some (.shr d a b)
  else if n = 15#5 then some (.sar d a b)
  else none

/-- Major 0x09, format V (R23). -/
def decode09 (d : BitVec 7) (a : BitVec 7) (b : BitVec 7) (n : BitVec 5) : Option Instr :=
  if b = 0#7 ∧ n = 8#5 then some (.iabs64 d a)
  else if n = 0#5 then some (.iadd64 d a b)
  else if n = 1#5 then some (.iaddc64 d a b)
  else if n = 2#5 then some (.isub64 d a b)
  else if n = 3#5 then some (.isubb64 d a b)
  else if n = 4#5 then some (.iminI64 d a b)
  else if n = 5#5 then some (.iminZ64 d a b)
  else if n = 6#5 then some (.imaxI64 d a b)
  else if n = 7#5 then some (.imaxZ64 d a b)
  else if n = 9#5 then some (.and64 d a b)
  else if n = 10#5 then some (.or64 d a b)
  else if n = 11#5 then some (.xor64 d a b)
  else if n = 12#5 then some (.andn64 d a b)
  else if n = 13#5 then some (.shl64 d a b)
  else if n = 14#5 then some (.shr64 d a b)
  else if n = 15#5 then some (.sar64 d a b)
  else none

/-- Major 0x0A, format I (R23). -/
def decode0A (d : BitVec 7) (a : BitVec 7) (i : BitVec 12) : Option Instr :=
  some (.iaddi d a i)

/-- Major 0x0B, format I (R23). -/
def decode0B (d : BitVec 7) (a : BitVec 7) (i : BitVec 12) : Option Instr :=
  some (.andi d a i)

/-- Major 0x0C, format I (R23). -/
def decode0C (d : BitVec 7) (a : BitVec 7) (i : BitVec 12) : Option Instr :=
  some (.ori d a i)

/-- Major 0x0D, format I (R23). -/
def decode0D (d : BitVec 7) (a : BitVec 7) (i : BitVec 12) : Option Instr :=
  some (.xori d a i)

/-- Major 0x0E, format I (R23). -/
def decode0E (d : BitVec 7) (a : BitVec 7) (i : BitVec 12) : Option Instr :=
  if i.extractLsb' 5 7 = 0#7 then some (.shli d a (i.extractLsb' 0 5))
  else if i.extractLsb' 5 7 = 32#7 then some (.shri d a (i.extractLsb' 0 5))
  else if i.extractLsb' 5 7 = 64#7 then some (.sari d a (i.extractLsb' 0 5))
  else none

/-- Major 0x0F, format I (R23). -/
def decode0F (d : BitVec 7) (a : BitVec 7) (i : BitVec 12) : Option Instr :=
  some (.icmpi (d.extractLsb' 4 3) (d.extractLsb' 3 1) (d.extractLsb' 0 3) a i)

/-- Major 0x10, format V (R23). -/
def decode10 (d : BitVec 7) (a : BitVec 7) (b : BitVec 7) (n : BitVec 5) : Option Instr :=
  if n = 0#5 then some (.imul d a b)
  else if n = 1#5 then some (.imulhI32 d a b)
  else if n = 2#5 then some (.imulhZ32 d a b)
  else if n = 3#5 then some (.imad d a b)
  else if n = 4#5 then some (.imadwI32 d a b)
  else if n = 5#5 then some (.imadwZ32 d a b)
  else if n = 6#5 then some (.idivI32 d a b)
  else if n = 7#5 then some (.idivZ32 d a b)
  else if n = 8#5 then some (.iremI32 d a b)
  else if n = 9#5 then some (.iremZ32 d a b)
  else none

/-- Major 0x11, format V (R23). -/
def decode11 (d : BitVec 7) (a : BitVec 7) (b : BitVec 7) (n : BitVec 5) : Option Instr :=
  if b = 0#7 ∧ n = 0#5 then some (.popc d a)
  else if b = 0#7 ∧ n = 1#5 then some (.clz d a)
  else if b = 0#7 ∧ n = 2#5 then some (.ctz d a)
  else if b = 0#7 ∧ n = 3#5 then some (.brev d a)
  else if n = 4#5 then some (.rot d a b)
  else if n = 5#5 then some (.funnel d a b)
  else if n = 6#5 then some (.bfxI32 d a b)
  else if n = 7#5 then some (.bfxZ32 d a b)
  else if n = 8#5 then some (.bfi d a b)
  else none

/-- Major 0x12, format V (R23). -/
def decode12 (d : BitVec 7) (a : BitVec 7) (b : BitVec 7) (n : BitVec 5) : Option Instr :=
  if n = 0#5 then some (.icmp32 (d.extractLsb' 4 3) (d.extractLsb' 3 1) (d.extractLsb' 0 3) a b)
  else if n = 1#5 then some (.icmp64 (d.extractLsb' 4 3) (d.extractLsb' 3 1) (d.extractLsb' 0 3) a b)
  else if n.extractLsb' 3 2 = 1#2 then some (.sel d a b (n.extractLsb' 0 3))
  else none

/-- Major 0x13, format V (R23). -/
def decode13 (d : BitVec 7) (a : BitVec 7) (b : BitVec 7) (n : BitVec 5) : Option Instr :=
  if n.extractLsb' 4 1 = 0#1 then some (.leaPair d a b (n.extractLsb' 3 1) (n.extractLsb' 0 3))
  else if n.extractLsb' 4 1 = 1#1 then some (.lea32 d a b (n.extractLsb' 3 1) (n.extractLsb' 0 3))
  else none

/-- Major 0x14, format U (R23). -/
def decode14 (d : BitVec 6) (a : BitVec 6) (b : BitVec 6) (x : BitVec 3) (n : BitVec 5) : Option Instr :=
  if b = 0#6 ∧ x.extractLsb' 1 2 = 0#2 ∧ n = 13#5 then some (.uld d a (x.extractLsb' 0 1))
  else if x = 0#3 ∧ n = 2#5 then some (.umul d a b)
  else if x = 0#3 ∧ n = 3#5 then some (.umad d a b)
  else if x.extractLsb' 1 2 = 0#2 ∧ n = 0#5 then some (.uadd d a b (x.extractLsb' 0 1))
  else if x.extractLsb' 1 2 = 0#2 ∧ n = 1#5 then some (.usub d a b (x.extractLsb' 0 1))
  else if x.extractLsb' 1 2 = 0#2 ∧ n = 4#5 then some (.uand d a b (x.extractLsb' 0 1))
  else if x.extractLsb' 1 2 = 0#2 ∧ n = 5#5 then some (.uor d a b (x.extractLsb' 0 1))
  else if x.extractLsb' 1 2 = 0#2 ∧ n = 6#5 then some (.uxor d a b (x.extractLsb' 0 1))
  else if x.extractLsb' 1 2 = 0#2 ∧ n = 7#5 then some (.ushl d a b (x.extractLsb' 0 1))
  else if x.extractLsb' 1 2 = 0#2 ∧ n = 8#5 then some (.ushr d a b (x.extractLsb' 0 1))
  else if x.extractLsb' 1 2 = 0#2 ∧ n = 9#5 then some (.usar d a b (x.extractLsb' 0 1))
  else if x.extractLsb' 1 2 = 0#2 ∧ n = 12#5 then some (.usel d a b (x.extractLsb' 0 1))
  else if n = 10#5 then some (.ucmpI d a b x)
  else if n = 11#5 then some (.ucmpZ d a b x)
  else none

/-- Major 0x15, format UI (R23). -/
def decode15 (d : BitVec 6) (a : BitVec 6) (n : BitVec 2) (i : BitVec 12) : Option Instr :=
  if a = 0#6 ∧ n = 1#2 then some (.umovi d i)
  else if n = 0#2 then some (.uaddi d a i)
  else none

/-- Major 0x16, format V (R23). -/
def decode16 (d : BitVec 7) (a : BitVec 7) (b : BitVec 7) (n : BitVec 5) : Option Instr :=
  if d.extractLsb' 3 4 = 0#4 ∧ a.extractLsb' 4 3 = 0#3 ∧ b = 0#7 ∧ n = 7#5 then some (.crewAll (d.extractLsb' 0 3) (a.extractLsb' 3 1) (a.extractLsb' 0 3))
  else if d.extractLsb' 3 4 = 0#4 ∧ a.extractLsb' 4 3 = 0#3 ∧ b = 0#7 ∧ n = 8#5 then some (.crewAny (d.extractLsb' 0 3) (a.extractLsb' 3 1) (a.extractLsb' 0 3))
  else if d.extractLsb' 3 4 = 0#4 ∧ a.extractLsb' 4 3 = 0#3 ∧ b = 0#7 ∧ n = 9#5 then some (.crewSame (d.extractLsb' 0 3) (a.extractLsb' 3 1) (a.extractLsb' 0 3))
  else if a.extractLsb' 4 3 = 0#3 ∧ b = 0#7 ∧ n = 10#5 then some (.crewMask d (a.extractLsb' 3 1) (a.extractLsb' 0 3))
  else if b = 0#7 ∧ n = 0#5 then some (.mov d a)
  else if b = 0#7 ∧ n = 4#5 then some (.rfal (d.extractLsb' 6 1) (d.extractLsb' 0 6) a)
  else if b = 0#7 ∧ n = 11#5 then some (.matchB d a)
  else if b = 0#7 ∧ n = 12#5 then some (.matchB64 d a)
  else if b = 0#7 ∧ n.extractLsb' 2 3 = 4#3 then some (.redux d a (n.extractLsb' 0 2))
  else if b = 0#7 ∧ n.extractLsb' 2 3 = 5#3 then some (.scan d a (n.extractLsb' 0 2))
  else if b = 1#7 ∧ n.extractLsb' 2 3 = 5#3 then some (.scanEx d a (n.extractLsb' 0 2))
  else if b = 0#7 ∧ n.extractLsb' 2 3 = 6#3 then some (.matchF d a (n.extractLsb' 0 2))
  else if b.extractLsb' 5 2 = 0#2 ∧ n = 3#5 then some (.movs (d.extractLsb' 6 1) (d.extractLsb' 0 6) a (b.extractLsb' 0 5))
  else if b.extractLsb' 5 2 = 0#2 ∧ n = 6#5 then some (.bfly d a (b.extractLsb' 0 5))
  else if n = 1#5 then some (.movi d (a ++ b))
  else if n = 5#5 then some (.shfl d a b)
  else none

/-- Major 0x16, format U (R23). -/
def decode16U (d : BitVec 6) (a : BitVec 6) (b : BitVec 6) (x : BitVec 3) (n : BitVec 5) : Option Instr :=
  if b = 0#6 ∧ x.extractLsb' 1 2 = 0#2 ∧ n = 2#5 then some (.movu d a (x.extractLsb' 0 1))
  else none

/-- Major 0x18, format F (R23). -/
def decode18 (d : BitVec 7) (a : BitVec 7) (b : BitVec 7) (n : BitVec 3) (t : BitVec 2) : Option Instr :=
  if b = 0#7 ∧ n = 5#3 then some (.fabs d a t)
  else if b = 0#7 ∧ n = 6#3 then some (.fneg d a t)
  else if n = 0#3 then some (.fadd d a b t)
  else if n = 1#3 then some (.fsub d a b t)
  else if n = 2#3 then some (.fmul d a b t)
  else if n = 3#3 then some (.fmin d a b t)
  else if n = 4#3 then some (.fmax d a b t)
  else if n = 7#3 then some (.fscale d a b t)
  else none

/-- Major 0x19, format F (R23). -/
def decode19 (d : BitVec 7) (a : BitVec 7) (b : BitVec 7) (n : BitVec 3) (t : BitVec 2) : Option Instr :=
  if n = 0#3 then some (.fma d a b t)
  else none

/-- Major 0x1A, format F (R23). -/
def decode1A (d : BitVec 7) (a : BitVec 7) (b : BitVec 7) (n : BitVec 3) (t : BitVec 2) : Option Instr :=
  if b = 0#7 ∧ n = 1#3 then some (.fsqrt d a t)
  else if b = 0#7 ∧ n = 2#3 then some (.frsq d a t)
  else if b = 0#7 ∧ n = 3#3 then some (.frcp d a t)
  else if n = 0#3 then some (.fdiv d a b t)
  else none

/-- Major 0x1B, format F (R23). -/
def decode1B (d : BitVec 7) (a : BitVec 7) (b : BitVec 7) (n : BitVec 3) (t : BitVec 2) : Option Instr :=
  if b = 0#7 ∧ n = 0#3 then some (.fexp d a t)
  else if b = 1#7 ∧ n = 0#3 then some (.fexp2 d a t)
  else if b = 2#7 ∧ n = 0#3 then some (.fexp10 d a t)
  else if b = 3#7 ∧ n = 0#3 then some (.fexpm1 d a t)
  else if b = 4#7 ∧ n = 0#3 then some (.flog d a t)
  else if b = 5#7 ∧ n = 0#3 then some (.flog2 d a t)
  else if b = 6#7 ∧ n = 0#3 then some (.flog10 d a t)
  else if b = 7#7 ∧ n = 0#3 then some (.flog1p d a t)
  else if b = 8#7 ∧ n = 0#3 then some (.fsin d a t)
  else if b = 9#7 ∧ n = 0#3 then some (.fcos d a t)
  else if b = 10#7 ∧ n = 0#3 then some (.ftan d a t)
  else if b = 11#7 ∧ n = 0#3 then some (.fsinpi d a t)
  else if b = 12#7 ∧ n = 0#3 then some (.fcospi d a t)
  else if b = 13#7 ∧ n = 0#3 then some (.fatan d a t)
  else if b = 14#7 ∧ n = 0#3 then some (.ftanh d a t)
  else if b = 15#7 ∧ n = 0#3 then some (.ferf d a t)
  else if b = 16#7 ∧ n = 0#3 then some (.fcbrt d a t)
  else none

/-- Major 0x1C, format F (R23). -/
def decode1C (d : BitVec 7) (a : BitVec 7) (b : BitVec 7) (n : BitVec 3) (t : BitVec 2) : Option Instr :=
  if n = 2#3 ∧ t = 0#2 then some (.fpow d a b)
  else if n = 3#3 ∧ t.extractLsb' 1 1 = 1#1 then some (.fdot2 d a b (t.extractLsb' 0 1))
  else if n = 4#3 ∧ t.extractLsb' 1 1 = 0#1 then some (.fdot4 d a b (t.extractLsb' 0 1))
  else if n = 0#3 then some (.fatan2 d a b t)
  else if n = 1#3 then some (.fhypot d a b t)
  else none

/-- Major 0x1D, format F (R23). -/
def decode1D (d : BitVec 7) (a : BitVec 7) (b : BitVec 7) (n : BitVec 3) (t : BitVec 2) : Option Instr :=
  if b = 0#7 ∧ n = 1#3 then some (.fclass d a t)
  else if b = 0#7 ∧ n = 2#3 then some (.frnd d a t)
  else if b = 0#7 ∧ n = 3#3 then some (.fexpo d a t)
  else if d.extractLsb' 3 1 = 0#1 ∧ n = 0#3 then some (.fcmp (d.extractLsb' 4 3) (d.extractLsb' 0 3) a b t)
  else none

/-- Major 0x1E, format C (R23). -/
def decode1E (d : BitVec 7) (a : BitVec 7) (x : BitVec 4) (y : BitVec 4) (n : BitVec 4) : Option Instr :=
  if n = 0#4 then some (.cvt d a x y)
  else if n = 1#4 then some (.cvtiF2i d a x y)
  else if n = 2#4 then some (.cvtiI2f d a x y)
  else none

/-- Major 0x1F, format V (R23). -/
def decode1F (d : BitVec 7) (a : BitVec 7) (b : BitVec 7) (n : BitVec 5) : Option Instr :=
  if b.extractLsb' 2 5 = 0#5 ∧ n = 2#5 then some (.pack d a (b.extractLsb' 0 2))
  else if b.extractLsb' 2 5 = 0#5 ∧ n = 3#5 then some (.unpack d a (b.extractLsb' 0 2))
  else if n = 0#5 then some (.quant d a b)
  else if n = 1#5 then some (.deq d a b)
  else if n = 4#5 then some (.amaxPush d a b)
  else if n = 5#5 then some (.amaxScale d a b)
  else none

/-- Major 0x20, format M (R23). -/
def decode20 (d : BitVec 7) (a : BitVec 7) (z : BitVec 3) (o : BitVec 9) : Option Instr :=
  some (.ld d a z o)

/-- Major 0x21, format S (R23). -/
def decode21 (d : BitVec 7) (s : BitVec 7) (a : BitVec 7) (z : BitVec 3) (n : BitVec 2) : Option Instr :=
  if n = 0#2 then some (.st d s a z)
  else none

/-- Major 0x22, format S (R23). -/
def decode22 (d : BitVec 7) (s : BitVec 7) (a : BitVec 7) (z : BitVec 3) (n : BitVec 2) : Option Instr :=
  if s = 0#7 ∧ n = 0#2 then some (.lds d a z)
  else if n = 1#2 then some (.sts d s a z)
  else none

/-- Major 0x23, format S (R23). -/
def decode23 (d : BitVec 7) (s : BitVec 7) (a : BitVec 7) (z : BitVec 3) (n : BitVec 2) : Option Instr :=
  if s = 0#7 ∧ n = 0#2 then some (.ldv d a z)
  else if n = 1#2 then some (.stv d s a z)
  else none

/-- Major 0x24, format M (R23). -/
def decode24 (d : BitVec 7) (a : BitVec 7) (z : BitVec 3) (o : BitVec 9) : Option Instr :=
  some (.ldc d a z o)

/-- Major 0x25, format S (R23). -/
def decode25 (d : BitVec 7) (s : BitVec 7) (a : BitVec 7) (z : BitVec 3) (n : BitVec 2) : Option Instr :=
  if n = 0#2 then some (.ldw d s a z)
  else none

/-- Major 0x26, format S (R23). -/
def decode26 (d : BitVec 7) (s : BitVec 7) (a : BitVec 7) (z : BitVec 3) (n : BitVec 2) : Option Instr :=
  if n = 0#2 then some (.stw d s a z)
  else none

/-- Major 0x27, format V (R23). -/
def decode27 (d : BitVec 7) (a : BitVec 7) (b : BitVec 7) (n : BitVec 5) : Option Instr :=
  if a = 0#7 ∧ b = 0#7 ∧ n = 1#5 then some (.wall d)
  else if n = 0#5 then some (.wmerge d a b)
  else none

/-- Major 0x28, format A (R23). -/
def decode28 (d : BitVec 7) (a : BitVec 7) (b : BitVec 7) (k : BitVec 1) (n : BitVec 4) : Option Instr :=
  if k = 0#1 ∧ n = 6#4 then some (.atomAnd d a b)
  else if k = 1#1 ∧ n = 6#4 then some (.redAnd d a b)
  else if k = 0#1 ∧ n = 7#4 then some (.atomOr d a b)
  else if k = 1#1 ∧ n = 7#4 then some (.redOr d a b)
  else if k = 0#1 ∧ n = 8#4 then some (.atomXor d a b)
  else if k = 1#1 ∧ n = 8#4 then some (.redXor d a b)
  else if k = 0#1 ∧ n = 9#4 then some (.atomExch32 d a b)
  else if k = 0#1 ∧ n = 10#4 then some (.atomExch64 d a b)
  else if k = 0#1 ∧ n = 11#4 then some (.atomCas32 d a b)
  else if k = 0#1 ∧ n = 12#4 then some (.atomCas64 d a b)
  else if k = 0#1 ∧ n = 13#4 then some (.atomfAddS d a b)
  else if k = 0#1 ∧ n = 14#4 then some (.atomfAddD d a b)
  else if k = 1#1 ∧ n = 13#4 then some (.atomfRedS d a b)
  else if k = 1#1 ∧ n = 14#4 then some (.atomfRedD d a b)
  else if k = 0#1 ∧ n.extractLsb' 1 3 = 0#3 then some (.atomAdd d a b (n.extractLsb' 0 1))
  else if k = 1#1 ∧ n.extractLsb' 1 3 = 0#3 then some (.redAdd d a b (n.extractLsb' 0 1))
  else if k = 0#1 ∧ n.extractLsb' 1 3 = 1#3 then some (.atomMin d a b (n.extractLsb' 0 1))
  else if k = 1#1 ∧ n.extractLsb' 1 3 = 1#3 then some (.redMin d a b (n.extractLsb' 0 1))
  else if k = 0#1 ∧ n.extractLsb' 1 3 = 2#3 then some (.atomMax d a b (n.extractLsb' 0 1))
  else if k = 1#1 ∧ n.extractLsb' 1 3 = 2#3 then some (.redMax d a b (n.extractLsb' 0 1))
  else none

/-- Major 0x29, format V (R23). -/
def decode29 (d : BitVec 7) (a : BitVec 7) (b : BitVec 7) (n : BitVec 5) : Option Instr :=
  if b = 0#7 ∧ n = 1#5 then some (.ordClose d a)
  else if a = 0#7 ∧ n = 2#5 then some (.resv d b)
  else if n = 0#5 then some (.ordAtom d a b)
  else none

/-- Major 0x2A, format V (R23). -/
def decode2A (d : BitVec 7) (a : BitVec 7) (b : BitVec 7) (n : BitVec 5) : Option Instr :=
  if b = 0#7 ∧ n = 3#5 then some (.vers d a)
  else if b = 0#7 ∧ n = 4#5 then some (.flip d a)
  else if n = 0#5 then some (.msaddBf d a b)
  else if n = 1#5 then some (.msaddH d a b)
  else if n = 2#5 then some (.cwr d a b)
  else none

/-- Major 0x2B, format V (R23). -/
noncomputable def decode2B (d : BitVec 7) (a : BitVec 7) (b : BitVec 7) (n : BitVec 5) : Option Instr :=
  if d = 127#7 ∧ a = 0#7 ∧ b = 0#7 ∧ n = 18#5 then some (.pfenceC)
  else if d = 127#7 ∧ a = 0#7 ∧ b = 1#7 ∧ n = 19#5 then some (.discL1)
  else if d = 127#7 ∧ a = 0#7 ∧ b = 2#7 ∧ n = 19#5 then some (.discK)
  else if a = 0#7 ∧ b = 0#7 ∧ n = 17#5 then some (.pfenceS d)
  else if d = 127#7 ∧ b = 0#7 ∧ n = 19#5 then some (.discLine a)
  else if d = 127#7 ∧ b.extractLsb' 1 6 = 0#6 ∧ n = 16#5 then some (.pref a (b.extractLsb' 0 1))
  else if b = 0#7 ∧ n.extractLsb' 3 2 = 0#2 then some (.ldRs d a (n.extractLsb' 0 3))
  else if n = 8#5 then some (.stRs8 d a b)
  else if n = 10#5 then some (.stRs16 d a b)
  else if n = 12#5 then some (.stRs32 d a b)
  else if n = 13#5 then some (.stRs64 d a b)
  else if n = 14#5 then some (.stRs128 d a b)
  else none

/-- Major 0x2C, format U (R23). -/
def decode2C (d : BitVec 6) (a : BitVec 6) (b : BitVec 6) (x : BitVec 3) (n : BitVec 5) : Option Instr :=
  if d = 0#6 ∧ a = 0#6 ∧ x = 1#3 ∧ n = 0#5 then some (.tiledefClr b)
  else if d = 0#6 ∧ a = 0#6 ∧ x = 0#3 ∧ n = 2#5 then some (.trel b)
  else if d = 0#6 ∧ x = 0#3 ∧ n = 0#5 then some (.tiledef a b)
  else if a = 0#6 ∧ x = 0#3 ∧ n = 1#5 then some (.tilestat d b)
  else none

/-- Major 0x2D, format U (R23). -/
noncomputable def decode2D (d : BitVec 6) (a : BitVec 6) (b : BitVec 6) (x : BitVec 3) (n : BitVec 5) : Option Instr :=
  if d = 0#6 ∧ b = 0#6 ∧ x = 1#3 ∧ n = 2#5 then some (.cpyOut a)
  else if d = 0#6 ∧ b = 0#6 ∧ x = 1#3 ∧ n = 3#5 then some (.cpyCvtOut a)
  else if d = 0#6 ∧ b = 0#6 ∧ x = 1#3 ∧ n = 4#5 then some (.xformOut a)
  else if d = 0#6 ∧ x = 0#3 ∧ n = 0#5 then some (.cpy a b)
  else if d = 0#6 ∧ x = 0#3 ∧ n = 3#5 then some (.cpyCvt a b)
  else if d = 0#6 ∧ x = 0#3 ∧ n = 4#5 then some (.xform a b)
  else if d = 0#6 ∧ x = 0#3 ∧ n = 5#5 then some (.xprog a b)
  else if x = 0#3 ∧ n = 1#5 then some (.cpyMc d a b)
  else none

/-- Major 0x2E, format U (R23). -/
def decode2E (d : BitVec 6) (a : BitVec 6) (b : BitVec 6) (x : BitVec 3) (n : BitVec 5) : Option Instr :=
  if a = 0#6 ∧ b = 0#6 ∧ x = 0#3 ∧ n = 0#5 then some (.seal d)
  else if a = 0#6 ∧ x = 0#3 ∧ n = 1#5 then some (.waitb d b)
  else none

/-- Major 0x30, format X (R23). -/
def decode30 (r : BitVec 2) (c : BitVec 6) (a : BitVec 5) (b : BitVec 5) (k : BitVec 4) (f : BitVec 4) : Option Instr :=
  some (.mma r c a b k f)

/-- Major 0x31, format XG (R23). -/
def decode31 (r : BitVec 2) (c : BitVec 6) (a : BitVec 5) (b : BitVec 5) (k : BitVec 4) (g : BitVec 1) (f : BitVec 3) : Option Instr :=
  if g = 0#1 then some (.mmaG r c a b k f)
  else if g = 1#1 then some (.mmaCv r c a b k f)
  else none

/-- Major 0x32, format X (R23). -/
def decode32 (r : BitVec 2) (c : BitVec 6) (a : BitVec 5) (b : BitVec 5) (k : BitVec 4) (f : BitVec 4) : Option Instr :=
  some (.mmas r c a b k f)

/-- Major 0x33, format U (R23). -/
noncomputable def decode33 (d : BitVec 6) (a : BitVec 6) (b : BitVec 6) (x : BitVec 3) (n : BitVec 5) : Option Instr :=
  if d = 0#6 ∧ a = 0#6 ∧ b.extractLsb' 4 2 = 0#2 ∧ x = 1#3 ∧ n = 0#5 then some (.accdefClr (b.extractLsb' 0 4))
  else if d = 0#6 ∧ a = 0#6 ∧ b.extractLsb' 4 2 = 0#2 ∧ x = 0#3 ∧ n = 1#5 then some (.accz (b.extractLsb' 0 4))
  else if d = 0#6 ∧ b.extractLsb' 4 2 = 0#2 ∧ x = 0#3 ∧ n = 0#5 then some (.accdef a (b.extractLsb' 0 4))
  else if a = 0#6 ∧ x = 0#3 ∧ n = 7#5 then some (.mwait d b)
  else if b.extractLsb' 4 2 = 0#2 ∧ x = 0#3 ∧ n = 5#5 then some (.accsave d a (b.extractLsb' 0 4))
  else if b.extractLsb' 4 2 = 0#2 ∧ x = 0#3 ∧ n = 6#5 then some (.accload d a (b.extractLsb' 0 4))
  else if b.extractLsb' 4 2 = 0#2 ∧ x.extractLsb' 2 1 = 0#1 ∧ n = 4#5 then some (.accdrain d a (b.extractLsb' 0 4) (x.extractLsb' 0 2))
  else none

/-- Major 0x33, format V (R23). -/
def decode33V (d : BitVec 7) (a : BitVec 7) (b : BitVec 7) (n : BitVec 5) : Option Instr :=
  if b.extractLsb' 4 1 = 0#1 ∧ n = 2#5 then some (.accrd d a (b.extractLsb' 5 2) (b.extractLsb' 0 4))
  else if b.extractLsb' 4 1 = 1#1 ∧ n = 2#5 then some (.accrdSt d a (b.extractLsb' 5 2) (b.extractLsb' 0 4))
  else if b.extractLsb' 4 1 = 0#1 ∧ n = 3#5 then some (.accwr d a (b.extractLsb' 5 2) (b.extractLsb' 0 4))
  else none

/-- Major 0x34, format U (R23). -/
noncomputable def decode34 (d : BitVec 6) (a : BitVec 6) (b : BitVec 6) (x : BitVec 3) (n : BitVec 5) : Option Instr :=
  if d = 0#6 ∧ a = 0#6 ∧ b = 0#6 ∧ x = 0#3 ∧ n = 0#5 then some (.rslvWait)
  else if a = 0#6 ∧ x = 0#3 ∧ n = 1#5 then some (.rslvStat d b)
  else none

/-- The instruction whose encoding the word matches (R22, R23), before the checks of `Instr.wellFormed`. -/
noncomputable def candidate (w : BitVec 32) : Option Instr :=
  match (w.extractLsb' 26 6).toNat with
  | 0 => decode00 (w.extractLsb' 20 6) (w.extractLsb' 14 6) (w.extractLsb' 8 6) (w.extractLsb' 5 3) (w.extractLsb' 0 5)
  | 1 => decode01 (w.extractLsb' 22 4) (w.extractLsb' 0 22)
  | 2 => decode02 (w.extractLsb' 23 3) (w.extractLsb' 22 1) (w.extractLsb' 16 6) (w.extractLsb' 0 16)
  | 3 => decode03 (w.extractLsb' 25 1) (w.extractLsb' 20 5) (w.extractLsb' 0 20)
  | 4 => decode04 (w.extractLsb' 20 6) (w.extractLsb' 14 6) (w.extractLsb' 8 6) (w.extractLsb' 5 3) (w.extractLsb' 0 5)
  | 5 => decode05 (w.extractLsb' 20 6) (w.extractLsb' 14 6) (w.extractLsb' 8 6) (w.extractLsb' 5 3) (w.extractLsb' 0 5)
  | 8 => decode08 (w.extractLsb' 19 7) (w.extractLsb' 12 7) (w.extractLsb' 5 7) (w.extractLsb' 0 5)
  | 9 => decode09 (w.extractLsb' 19 7) (w.extractLsb' 12 7) (w.extractLsb' 5 7) (w.extractLsb' 0 5)
  | 10 => decode0A (w.extractLsb' 19 7) (w.extractLsb' 12 7) (w.extractLsb' 0 12)
  | 11 => decode0B (w.extractLsb' 19 7) (w.extractLsb' 12 7) (w.extractLsb' 0 12)
  | 12 => decode0C (w.extractLsb' 19 7) (w.extractLsb' 12 7) (w.extractLsb' 0 12)
  | 13 => decode0D (w.extractLsb' 19 7) (w.extractLsb' 12 7) (w.extractLsb' 0 12)
  | 14 => decode0E (w.extractLsb' 19 7) (w.extractLsb' 12 7) (w.extractLsb' 0 12)
  | 15 => decode0F (w.extractLsb' 19 7) (w.extractLsb' 12 7) (w.extractLsb' 0 12)
  | 16 => decode10 (w.extractLsb' 19 7) (w.extractLsb' 12 7) (w.extractLsb' 5 7) (w.extractLsb' 0 5)
  | 17 => decode11 (w.extractLsb' 19 7) (w.extractLsb' 12 7) (w.extractLsb' 5 7) (w.extractLsb' 0 5)
  | 18 => decode12 (w.extractLsb' 19 7) (w.extractLsb' 12 7) (w.extractLsb' 5 7) (w.extractLsb' 0 5)
  | 19 => decode13 (w.extractLsb' 19 7) (w.extractLsb' 12 7) (w.extractLsb' 5 7) (w.extractLsb' 0 5)
  | 20 => decode14 (w.extractLsb' 20 6) (w.extractLsb' 14 6) (w.extractLsb' 8 6) (w.extractLsb' 5 3) (w.extractLsb' 0 5)
  | 21 => decode15 (w.extractLsb' 20 6) (w.extractLsb' 14 6) (w.extractLsb' 12 2) (w.extractLsb' 0 12)
  | 22 => (decode16 (w.extractLsb' 19 7) (w.extractLsb' 12 7) (w.extractLsb' 5 7) (w.extractLsb' 0 5)).or (decode16U (w.extractLsb' 20 6) (w.extractLsb' 14 6) (w.extractLsb' 8 6) (w.extractLsb' 5 3) (w.extractLsb' 0 5))
  | 24 => decode18 (w.extractLsb' 19 7) (w.extractLsb' 12 7) (w.extractLsb' 5 7) (w.extractLsb' 2 3) (w.extractLsb' 0 2)
  | 25 => decode19 (w.extractLsb' 19 7) (w.extractLsb' 12 7) (w.extractLsb' 5 7) (w.extractLsb' 2 3) (w.extractLsb' 0 2)
  | 26 => decode1A (w.extractLsb' 19 7) (w.extractLsb' 12 7) (w.extractLsb' 5 7) (w.extractLsb' 2 3) (w.extractLsb' 0 2)
  | 27 => decode1B (w.extractLsb' 19 7) (w.extractLsb' 12 7) (w.extractLsb' 5 7) (w.extractLsb' 2 3) (w.extractLsb' 0 2)
  | 28 => decode1C (w.extractLsb' 19 7) (w.extractLsb' 12 7) (w.extractLsb' 5 7) (w.extractLsb' 2 3) (w.extractLsb' 0 2)
  | 29 => decode1D (w.extractLsb' 19 7) (w.extractLsb' 12 7) (w.extractLsb' 5 7) (w.extractLsb' 2 3) (w.extractLsb' 0 2)
  | 30 => decode1E (w.extractLsb' 19 7) (w.extractLsb' 12 7) (w.extractLsb' 8 4) (w.extractLsb' 4 4) (w.extractLsb' 0 4)
  | 31 => decode1F (w.extractLsb' 19 7) (w.extractLsb' 12 7) (w.extractLsb' 5 7) (w.extractLsb' 0 5)
  | 32 => decode20 (w.extractLsb' 19 7) (w.extractLsb' 12 7) (w.extractLsb' 9 3) (w.extractLsb' 0 9)
  | 33 => decode21 (w.extractLsb' 19 7) (w.extractLsb' 12 7) (w.extractLsb' 5 7) (w.extractLsb' 2 3) (w.extractLsb' 0 2)
  | 34 => decode22 (w.extractLsb' 19 7) (w.extractLsb' 12 7) (w.extractLsb' 5 7) (w.extractLsb' 2 3) (w.extractLsb' 0 2)
  | 35 => decode23 (w.extractLsb' 19 7) (w.extractLsb' 12 7) (w.extractLsb' 5 7) (w.extractLsb' 2 3) (w.extractLsb' 0 2)
  | 36 => decode24 (w.extractLsb' 19 7) (w.extractLsb' 12 7) (w.extractLsb' 9 3) (w.extractLsb' 0 9)
  | 37 => decode25 (w.extractLsb' 19 7) (w.extractLsb' 12 7) (w.extractLsb' 5 7) (w.extractLsb' 2 3) (w.extractLsb' 0 2)
  | 38 => decode26 (w.extractLsb' 19 7) (w.extractLsb' 12 7) (w.extractLsb' 5 7) (w.extractLsb' 2 3) (w.extractLsb' 0 2)
  | 39 => decode27 (w.extractLsb' 19 7) (w.extractLsb' 12 7) (w.extractLsb' 5 7) (w.extractLsb' 0 5)
  | 40 => decode28 (w.extractLsb' 19 7) (w.extractLsb' 12 7) (w.extractLsb' 5 7) (w.extractLsb' 4 1) (w.extractLsb' 0 4)
  | 41 => decode29 (w.extractLsb' 19 7) (w.extractLsb' 12 7) (w.extractLsb' 5 7) (w.extractLsb' 0 5)
  | 42 => decode2A (w.extractLsb' 19 7) (w.extractLsb' 12 7) (w.extractLsb' 5 7) (w.extractLsb' 0 5)
  | 43 => decode2B (w.extractLsb' 19 7) (w.extractLsb' 12 7) (w.extractLsb' 5 7) (w.extractLsb' 0 5)
  | 44 => decode2C (w.extractLsb' 20 6) (w.extractLsb' 14 6) (w.extractLsb' 8 6) (w.extractLsb' 5 3) (w.extractLsb' 0 5)
  | 45 => decode2D (w.extractLsb' 20 6) (w.extractLsb' 14 6) (w.extractLsb' 8 6) (w.extractLsb' 5 3) (w.extractLsb' 0 5)
  | 46 => decode2E (w.extractLsb' 20 6) (w.extractLsb' 14 6) (w.extractLsb' 8 6) (w.extractLsb' 5 3) (w.extractLsb' 0 5)
  | 48 => decode30 (w.extractLsb' 24 2) (w.extractLsb' 18 6) (w.extractLsb' 13 5) (w.extractLsb' 8 5) (w.extractLsb' 4 4) (w.extractLsb' 0 4)
  | 49 => decode31 (w.extractLsb' 24 2) (w.extractLsb' 18 6) (w.extractLsb' 13 5) (w.extractLsb' 8 5) (w.extractLsb' 4 4) (w.extractLsb' 3 1) (w.extractLsb' 0 3)
  | 50 => decode32 (w.extractLsb' 24 2) (w.extractLsb' 18 6) (w.extractLsb' 13 5) (w.extractLsb' 8 5) (w.extractLsb' 4 4) (w.extractLsb' 0 4)
  | 51 => (decode33 (w.extractLsb' 20 6) (w.extractLsb' 14 6) (w.extractLsb' 8 6) (w.extractLsb' 5 3) (w.extractLsb' 0 5)).or (decode33V (w.extractLsb' 19 7) (w.extractLsb' 12 7) (w.extractLsb' 5 7) (w.extractLsb' 0 5))
  | 52 => decode34 (w.extractLsb' 20 6) (w.extractLsb' 14 6) (w.extractLsb' 8 6) (w.extractLsb' 5 3) (w.extractLsb' 0 5)
  | _ => none

/-- The decoder: the instruction of a 32-bit word, or why there is none. -/
noncomputable def decode (w : BitVec 32) : Except DecodeError Instr :=
  match candidate w with
  | none => .error .unassigned
  | some i => if i.wellFormed then .ok i else .error .illFormed

/-- The 32-bit word of four little-endian bytes (R13); bytes past the fourth are not read and a missing byte is 0. -/
def wordOfBytes (l : List (BitVec 8)) : BitVec 32 :=
  l.getD 3 0#8 ++ l.getD 2 0#8 ++ l.getD 1 0#8 ++ l.getD 0 0#8

/-- The little-endian bytes of a word (R13). -/
def bytesOfWord (w : BitVec 32) : List (BitVec 8) :=
  [w.extractLsb' 0 8, w.extractLsb' 8 8, w.extractLsb' 16 8, w.extractLsb' 24 8]

/-- The decoder on bytes as they lie in memory. -/
noncomputable def decodeBytes (l : List (BitVec 8)) : Except DecodeError Instr := decode (wordOfBytes l)

/-- The instruction the decoder reads from a word whose bits are numbered as the opcode table numbers them; every
instruction is one 32-bit word (R13). -/
noncomputable def decodeTableWord (_nbits w : Nat) : Option Instr :=
  match decodeBytes (bytesOfWord (BitVec.ofNat 32 w)) with
  | .ok i => some i
  | .error _ => none

/-! ### The encoder -/

/-- A word of format V, its parts from bit 31 down (R16 to R18). -/
abbrev wordV (m : BitVec 6) (d : BitVec 7) (a : BitVec 7) (b : BitVec 7) (n : BitVec 5) : BitVec 32 :=
  m ++ d ++ a ++ b ++ n

/-- A word of format F, its parts from bit 31 down (R16 to R18). -/
abbrev wordF (m : BitVec 6) (d : BitVec 7) (a : BitVec 7) (b : BitVec 7) (n : BitVec 3) (t : BitVec 2) : BitVec 32 :=
  m ++ d ++ a ++ b ++ n ++ t

/-- A word of format C, its parts from bit 31 down (R16 to R18). -/
abbrev wordC (m : BitVec 6) (d : BitVec 7) (a : BitVec 7) (x : BitVec 4) (y : BitVec 4) (n : BitVec 4) : BitVec 32 :=
  m ++ d ++ a ++ x ++ y ++ n

/-- A word of format I, its parts from bit 31 down (R16 to R18). -/
abbrev wordI (m : BitVec 6) (d : BitVec 7) (a : BitVec 7) (i : BitVec 12) : BitVec 32 :=
  m ++ d ++ a ++ i

/-- A word of format A, its parts from bit 31 down (R16 to R18). -/
abbrev wordA (m : BitVec 6) (d : BitVec 7) (a : BitVec 7) (b : BitVec 7) (k : BitVec 1) (n : BitVec 4) : BitVec 32 :=
  m ++ d ++ a ++ b ++ k ++ n

/-- A word of format U, its parts from bit 31 down (R16 to R18). -/
abbrev wordU (m : BitVec 6) (d : BitVec 6) (a : BitVec 6) (b : BitVec 6) (x : BitVec 3) (n : BitVec 5) : BitVec 32 :=
  m ++ d ++ a ++ b ++ x ++ n

/-- A word of format UI, its parts from bit 31 down (R16 to R18). -/
abbrev wordUI (m : BitVec 6) (d : BitVec 6) (a : BitVec 6) (n : BitVec 2) (i : BitVec 12) : BitVec 32 :=
  m ++ d ++ a ++ n ++ i

/-- A word of format M, its parts from bit 31 down (R16 to R18). -/
abbrev wordM (m : BitVec 6) (d : BitVec 7) (a : BitVec 7) (z : BitVec 3) (o : BitVec 9) : BitVec 32 :=
  m ++ d ++ a ++ z ++ o

/-- A word of format S, its parts from bit 31 down (R16 to R18). -/
abbrev wordS (m : BitVec 6) (d : BitVec 7) (s : BitVec 7) (a : BitVec 7) (z : BitVec 3) (n : BitVec 2) : BitVec 32 :=
  m ++ d ++ s ++ a ++ z ++ n

/-- A word of format B, its parts from bit 31 down (R16 to R18). -/
abbrev wordB (m : BitVec 6) (g : BitVec 3) (s : BitVec 1) (p : BitVec 6) (o : BitVec 16) : BitVec 32 :=
  m ++ g ++ s ++ p ++ o

/-- A word of format J, its parts from bit 31 down (R16 to R18). -/
abbrev wordJ (m : BitVec 6) (l : BitVec 1) (p : BitVec 5) (o : BitVec 20) : BitVec 32 :=
  m ++ l ++ p ++ o

/-- A word of format H, its parts from bit 31 down (R16 to R18). -/
abbrev wordH (m : BitVec 6) (k : BitVec 4) (p : BitVec 22) : BitVec 32 :=
  m ++ k ++ p

/-- A word of format X, its parts from bit 31 down (R16 to R18). -/
abbrev wordX (m : BitVec 6) (r : BitVec 2) (c : BitVec 6) (a : BitVec 5) (b : BitVec 5) (k : BitVec 4) (f : BitVec 4) : BitVec 32 :=
  m ++ r ++ c ++ a ++ b ++ k ++ f

/-- A word of format XG, its parts from bit 31 down (R16 to R18). -/
abbrev wordXG (m : BitVec 6) (r : BitVec 2) (c : BitVec 6) (a : BitVec 5) (b : BitVec 5) (k : BitVec 4) (g : BitVec 1) (f : BitVec 3) : BitVec 32 :=
  m ++ r ++ c ++ a ++ b ++ k ++ g ++ f

/-- The word of an instruction (R16 to R18, R23); a step that no word encodes has none. -/
def encode (i : Instr) : Option (BitVec 32) :=
  match i with
  | .nop => some (wordU 0#6 0#6 0#6 0#6 0#3 0#5)
  | .trap b => some (wordU 0#6 0#6 0#6 b 0#3 1#5)
  | .eret => some (wordU 0#6 0#6 0#6 0#6 0#3 2#5)
  | .rdsr d n m => some (wordU 0#6 d 0#6 n m 3#5)
  | .wrsr a n m => some (wordU 0#6 0#6 a n m 4#5)
  | .wrsrTlbinv a => some (wordU 0#6 0#6 a 48#6 0#3 4#5)
  | .preemptSave d a => some (wordU 0#6 d a 0#6 0#3 5#5)
  | .preemptRest d a => some (wordU 0#6 d a 0#6 1#3 5#5)
  | .killg d a => some (wordU 0#6 d a 0#6 0#3 6#5)
  | .killgL d a => some (wordU 0#6 d a 0#6 1#3 6#5)
  | .hintImm p => some (wordH 1#6 0#4 p)
  | .hintG s p => some (wordH 1#6 1#4 (0#18 ++ s ++ p))
  | .hintC r => some (wordH 1#6 2#4 (0#15 ++ r))
  | .hintCScale a b => some (wordH 1#6 2#4 (0#12 ++ a ++ b))
  | .hintRm r => some (wordH 1#6 3#4 (0#19 ++ r))
  | .hintSc s => some (wordH 1#6 4#4 (0#19 ++ s))
  | .hintDep c s f => some (wordH 1#6 5#4 (0#8 ++ c ++ s ++ f))
  | .bra g s p d => some (wordB 2#6 g s p d)
  | .jmp p d => some (wordJ 3#6 0#1 p d)
  | .call p d => some (wordJ 3#6 1#1 p d)
  | .ret => some (wordU 4#6 0#6 0#6 0#6 0#3 0#5)
  | .brx a b => some (wordU 4#6 0#6 a b 0#3 1#5)
  | .yield => some (wordU 4#6 0#6 0#6 0#6 0#3 2#5)
  | .exit => some (wordU 4#6 0#6 0#6 0#6 0#3 3#5)
  | .setprio b => some (wordU 4#6 0#6 0#6 b 0#3 4#5)
  | .syncC a => some (wordU 4#6 0#6 a 0#6 0#3 5#5)
  | .barT a => some (wordU 4#6 0#6 a 0#6 0#3 6#5)
  | .rvinit a b => some (wordU 4#6 0#6 a b 0#3 7#5)
  | .rvarr d b => some (wordU 4#6 d 0#6 b 0#3 8#5)
  | .rvwait a b => some (wordU 4#6 0#6 a b 0#3 9#5)
  | .gbar => some (wordU 4#6 0#6 0#6 0#6 0#3 10#5)
  | .quotaGive a b => some (wordU 4#6 0#6 a b 0#3 11#5)
  | .quotaTake a b => some (wordU 4#6 0#6 a b 1#3 11#5)
  | .pop d a => some (wordU 5#6 d a 0#6 0#3 0#5)
  | .popTry d a => some (wordU 5#6 d a 0#6 1#3 0#5)
  | .push d a => some (wordU 5#6 d a 0#6 0#3 1#5)
  | .fin a => some (wordU 5#6 0#6 a 0#6 0#3 2#5)
  | .qstat d a => some (wordU 5#6 d a 0#6 0#3 3#5)
  | .qctl a b => some (wordU 5#6 0#6 a b 0#3 4#5)
  | .iadd d a b => some (wordV 8#6 d a b 0#5)
  | .iaddc d a b => some (wordV 8#6 d a b 1#5)
  | .isub d a b => some (wordV 8#6 d a b 2#5)
  | .isubb d a b => some (wordV 8#6 d a b 3#5)
  | .iminI32 d a b => some (wordV 8#6 d a b 4#5)
  | .iminZ32 d a b => some (wordV 8#6 d a b 5#5)
  | .imaxI32 d a b => some (wordV 8#6 d a b 6#5)
  | .imaxZ32 d a b => some (wordV 8#6 d a b 7#5)
  | .iabs d a => some (wordV 8#6 d a 0#7 8#5)
  | .and d a b => some (wordV 8#6 d a b 9#5)
  | .or d a b => some (wordV 8#6 d a b 10#5)
  | .xor d a b => some (wordV 8#6 d a b 11#5)
  | .andn d a b => some (wordV 8#6 d a b 12#5)
  | .shl d a b => some (wordV 8#6 d a b 13#5)
  | .shr d a b => some (wordV 8#6 d a b 14#5)
  | .sar d a b => some (wordV 8#6 d a b 15#5)
  | .iadd64 d a b => some (wordV 9#6 d a b 0#5)
  | .iaddc64 d a b => some (wordV 9#6 d a b 1#5)
  | .isub64 d a b => some (wordV 9#6 d a b 2#5)
  | .isubb64 d a b => some (wordV 9#6 d a b 3#5)
  | .iminI64 d a b => some (wordV 9#6 d a b 4#5)
  | .iminZ64 d a b => some (wordV 9#6 d a b 5#5)
  | .imaxI64 d a b => some (wordV 9#6 d a b 6#5)
  | .imaxZ64 d a b => some (wordV 9#6 d a b 7#5)
  | .iabs64 d a => some (wordV 9#6 d a 0#7 8#5)
  | .and64 d a b => some (wordV 9#6 d a b 9#5)
  | .or64 d a b => some (wordV 9#6 d a b 10#5)
  | .xor64 d a b => some (wordV 9#6 d a b 11#5)
  | .andn64 d a b => some (wordV 9#6 d a b 12#5)
  | .shl64 d a b => some (wordV 9#6 d a b 13#5)
  | .shr64 d a b => some (wordV 9#6 d a b 14#5)
  | .sar64 d a b => some (wordV 9#6 d a b 15#5)
  | .iaddi d a i => some (wordI 10#6 d a i)
  | .andi d a i => some (wordI 11#6 d a i)
  | .ori d a i => some (wordI 12#6 d a i)
  | .xori d a i => some (wordI 13#6 d a i)
  | .shli d a c => some (wordI 14#6 d a (0#7 ++ c))
  | .shri d a c => some (wordI 14#6 d a (32#7 ++ c))
  | .sari d a c => some (wordI 14#6 d a (64#7 ++ c))
  | .icmpi c s p a i => some (wordI 15#6 (c ++ s ++ p) a i)
  | .imul d a b => some (wordV 16#6 d a b 0#5)
  | .imulhI32 d a b => some (wordV 16#6 d a b 1#5)
  | .imulhZ32 d a b => some (wordV 16#6 d a b 2#5)
  | .imad d a b => some (wordV 16#6 d a b 3#5)
  | .imadwI32 d a b => some (wordV 16#6 d a b 4#5)
  | .imadwZ32 d a b => some (wordV 16#6 d a b 5#5)
  | .idivI32 d a b => some (wordV 16#6 d a b 6#5)
  | .idivZ32 d a b => some (wordV 16#6 d a b 7#5)
  | .iremI32 d a b => some (wordV 16#6 d a b 8#5)
  | .iremZ32 d a b => some (wordV 16#6 d a b 9#5)
  | .popc d a => some (wordV 17#6 d a 0#7 0#5)
  | .clz d a => some (wordV 17#6 d a 0#7 1#5)
  | .ctz d a => some (wordV 17#6 d a 0#7 2#5)
  | .brev d a => some (wordV 17#6 d a 0#7 3#5)
  | .rot d a b => some (wordV 17#6 d a b 4#5)
  | .funnel d a b => some (wordV 17#6 d a b 5#5)
  | .bfxI32 d a b => some (wordV 17#6 d a b 6#5)
  | .bfxZ32 d a b => some (wordV 17#6 d a b 7#5)
  | .bfi d a b => some (wordV 17#6 d a b 8#5)
  | .icmp32 c s p a b => some (wordV 18#6 (c ++ s ++ p) a b 0#5)
  | .icmp64 c s p a b => some (wordV 18#6 (c ++ s ++ p) a b 1#5)
  | .sel d a b n => some (wordV 18#6 d a b (1#2 ++ n))
  | .leaPair d a b e s => some (wordV 19#6 d a b (0#1 ++ e ++ s))
  | .lea32 d a b e s => some (wordV 19#6 d a b (1#1 ++ e ++ s))
  | .uadd d a b w => some (wordU 20#6 d a b (0#2 ++ w) 0#5)
  | .usub d a b w => some (wordU 20#6 d a b (0#2 ++ w) 1#5)
  | .umul d a b => some (wordU 20#6 d a b 0#3 2#5)
  | .umad d a b => some (wordU 20#6 d a b 0#3 3#5)
  | .uand d a b w => some (wordU 20#6 d a b (0#2 ++ w) 4#5)
  | .uor d a b w => some (wordU 20#6 d a b (0#2 ++ w) 5#5)
  | .uxor d a b w => some (wordU 20#6 d a b (0#2 ++ w) 6#5)
  | .ushl d a b w => some (wordU 20#6 d a b (0#2 ++ w) 7#5)
  | .ushr d a b w => some (wordU 20#6 d a b (0#2 ++ w) 8#5)
  | .usar d a b w => some (wordU 20#6 d a b (0#2 ++ w) 9#5)
  | .ucmpI d a b c => some (wordU 20#6 d a b c 10#5)
  | .ucmpZ d a b c => some (wordU 20#6 d a b c 11#5)
  | .usel d a b w => some (wordU 20#6 d a b (0#2 ++ w) 12#5)
  | .uld d a w => some (wordU 20#6 d a 0#6 (0#2 ++ w) 13#5)
  | .uaddi d a i => some (wordUI 21#6 d a 0#2 i)
  | .umovi d i => some (wordUI 21#6 d 0#6 1#2 i)
  | .mov d a => some (wordV 22#6 d a 0#7 0#5)
  | .movi d i => some (wordV 22#6 d (i.extractLsb' 7 7) (i.extractLsb' 0 7) 1#5)
  | .movu d a w => some (wordU 22#6 d a 0#6 (0#2 ++ w) 2#5)
  | .movs w d a n => some (wordV 22#6 (w ++ d) a (0#2 ++ n) 3#5)
  | .rfal w d a => some (wordV 22#6 (w ++ d) a 0#7 4#5)
  | .shfl d a b => some (wordV 22#6 d a b 5#5)
  | .bfly d a m => some (wordV 22#6 d a (0#2 ++ m) 6#5)
  | .crewAll p s q => some (wordV 22#6 (0#4 ++ p) (0#3 ++ s ++ q) 0#7 7#5)
  | .crewAny p s q => some (wordV 22#6 (0#4 ++ p) (0#3 ++ s ++ q) 0#7 8#5)
  | .crewSame p s q => some (wordV 22#6 (0#4 ++ p) (0#3 ++ s ++ q) 0#7 9#5)
  | .crewMask d s q => some (wordV 22#6 d (0#3 ++ s ++ q) 0#7 10#5)
  | .matchB d a => some (wordV 22#6 d a 0#7 11#5)
  | .matchB64 d a => some (wordV 22#6 d a 0#7 12#5)
  | .redux d a t => some (wordV 22#6 d a 0#7 (4#3 ++ t))
  | .scan d a t => some (wordV 22#6 d a 0#7 (5#3 ++ t))
  | .scanEx d a t => some (wordV 22#6 d a 1#7 (5#3 ++ t))
  | .matchF d a t => some (wordV 22#6 d a 0#7 (6#3 ++ t))
  | .fadd d a b t => some (wordF 24#6 d a b 0#3 t)
  | .fsub d a b t => some (wordF 24#6 d a b 1#3 t)
  | .fmul d a b t => some (wordF 24#6 d a b 2#3 t)
  | .fmin d a b t => some (wordF 24#6 d a b 3#3 t)
  | .fmax d a b t => some (wordF 24#6 d a b 4#3 t)
  | .fabs d a t => some (wordF 24#6 d a 0#7 5#3 t)
  | .fneg d a t => some (wordF 24#6 d a 0#7 6#3 t)
  | .fscale d a b t => some (wordF 24#6 d a b 7#3 t)
  | .fma d a b t => some (wordF 25#6 d a b 0#3 t)
  | .fdiv d a b t => some (wordF 26#6 d a b 0#3 t)
  | .fsqrt d a t => some (wordF 26#6 d a 0#7 1#3 t)
  | .frsq d a t => some (wordF 26#6 d a 0#7 2#3 t)
  | .frcp d a t => some (wordF 26#6 d a 0#7 3#3 t)
  | .fexp d a t => some (wordF 27#6 d a 0#7 0#3 t)
  | .fexp2 d a t => some (wordF 27#6 d a 1#7 0#3 t)
  | .fexp10 d a t => some (wordF 27#6 d a 2#7 0#3 t)
  | .fexpm1 d a t => some (wordF 27#6 d a 3#7 0#3 t)
  | .flog d a t => some (wordF 27#6 d a 4#7 0#3 t)
  | .flog2 d a t => some (wordF 27#6 d a 5#7 0#3 t)
  | .flog10 d a t => some (wordF 27#6 d a 6#7 0#3 t)
  | .flog1p d a t => some (wordF 27#6 d a 7#7 0#3 t)
  | .fsin d a t => some (wordF 27#6 d a 8#7 0#3 t)
  | .fcos d a t => some (wordF 27#6 d a 9#7 0#3 t)
  | .ftan d a t => some (wordF 27#6 d a 10#7 0#3 t)
  | .fsinpi d a t => some (wordF 27#6 d a 11#7 0#3 t)
  | .fcospi d a t => some (wordF 27#6 d a 12#7 0#3 t)
  | .fatan d a t => some (wordF 27#6 d a 13#7 0#3 t)
  | .ftanh d a t => some (wordF 27#6 d a 14#7 0#3 t)
  | .ferf d a t => some (wordF 27#6 d a 15#7 0#3 t)
  | .fcbrt d a t => some (wordF 27#6 d a 16#7 0#3 t)
  | .fatan2 d a b t => some (wordF 28#6 d a b 0#3 t)
  | .fhypot d a b t => some (wordF 28#6 d a b 1#3 t)
  | .fpow d a b => some (wordF 28#6 d a b 2#3 0#2)
  | .fdot2 d a b t => some (wordF 28#6 d a b 3#3 (1#1 ++ t))
  | .fdot4 d a b t => some (wordF 28#6 d a b 4#3 (0#1 ++ t))
  | .fcmp c p a b t => some (wordF 29#6 (c ++ 0#1 ++ p) a b 0#3 t)
  | .fclass d a t => some (wordF 29#6 d a 0#7 1#3 t)
  | .frnd d a t => some (wordF 29#6 d a 0#7 2#3 t)
  | .fexpo d a t => some (wordF 29#6 d a 0#7 3#3 t)
  | .cvt d a x y => some (wordC 30#6 d a x y 0#4)
  | .cvtiF2i d a x y => some (wordC 30#6 d a x y 1#4)
  | .cvtiI2f d a x y => some (wordC 30#6 d a x y 2#4)
  | .quant d a b => some (wordV 31#6 d a b 0#5)
  | .deq d a b => some (wordV 31#6 d a b 1#5)
  | .pack d a w => some (wordV 31#6 d a (0#5 ++ w) 2#5)
  | .unpack d a w => some (wordV 31#6 d a (0#5 ++ w) 3#5)
  | .amaxPush d a b => some (wordV 31#6 d a b 4#5)
  | .amaxScale d a b => some (wordV 31#6 d a b 5#5)
  | .ld d a z o => some (wordM 32#6 d a z o)
  | .st d s a z => some (wordS 33#6 d s a z 0#2)
  | .lds d a z => some (wordS 34#6 d 0#7 a z 0#2)
  | .sts d s a z => some (wordS 34#6 d s a z 1#2)
  | .ldv d a z => some (wordS 35#6 d 0#7 a z 0#2)
  | .stv d s a z => some (wordS 35#6 d s a z 1#2)
  | .ldc d a z o => some (wordM 36#6 d a z o)
  | .ldw d w a z => some (wordS 37#6 d w a z 0#2)
  | .stw d s a z => some (wordS 38#6 d s a z 0#2)
  | .wmerge d a b => some (wordV 39#6 d a b 0#5)
  | .wall d => some (wordV 39#6 d 0#7 0#7 1#5)
  | .atomAdd d a b w => some (wordA 40#6 d a b 0#1 (0#3 ++ w))
  | .redAdd d a b w => some (wordA 40#6 d a b 1#1 (0#3 ++ w))
  | .atomMin d a b z => some (wordA 40#6 d a b 0#1 (1#3 ++ z))
  | .redMin d a b z => some (wordA 40#6 d a b 1#1 (1#3 ++ z))
  | .atomMax d a b z => some (wordA 40#6 d a b 0#1 (2#3 ++ z))
  | .redMax d a b z => some (wordA 40#6 d a b 1#1 (2#3 ++ z))
  | .atomAnd d a b => some (wordA 40#6 d a b 0#1 6#4)
  | .redAnd d a b => some (wordA 40#6 d a b 1#1 6#4)
  | .atomOr d a b => some (wordA 40#6 d a b 0#1 7#4)
  | .redOr d a b => some (wordA 40#6 d a b 1#1 7#4)
  | .atomXor d a b => some (wordA 40#6 d a b 0#1 8#4)
  | .redXor d a b => some (wordA 40#6 d a b 1#1 8#4)
  | .atomExch32 d a b => some (wordA 40#6 d a b 0#1 9#4)
  | .atomExch64 d a b => some (wordA 40#6 d a b 0#1 10#4)
  | .atomCas32 d a b => some (wordA 40#6 d a b 0#1 11#4)
  | .atomCas64 d a b => some (wordA 40#6 d a b 0#1 12#4)
  | .atomfAddS d a b => some (wordA 40#6 d a b 0#1 13#4)
  | .atomfAddD d a b => some (wordA 40#6 d a b 0#1 14#4)
  | .atomfRedS d a b => some (wordA 40#6 d a b 1#1 13#4)
  | .atomfRedD d a b => some (wordA 40#6 d a b 1#1 14#4)
  | .ordAtom c a b => some (wordV 41#6 c a b 0#5)
  | .ordClose d a => some (wordV 41#6 d a 0#7 1#5)
  | .resv d b => some (wordV 41#6 d 0#7 b 2#5)
  | .msaddBf d a b => some (wordV 42#6 d a b 0#5)
  | .msaddH d a b => some (wordV 42#6 d a b 1#5)
  | .cwr d a b => some (wordV 42#6 d a b 2#5)
  | .vers d a => some (wordV 42#6 d a 0#7 3#5)
  | .flip d a => some (wordV 42#6 d a 0#7 4#5)
  | .ldRs d a z => some (wordV 43#6 d a 0#7 (0#2 ++ z))
  | .stRs8 d a b => some (wordV 43#6 d a b 8#5)
  | .stRs16 d a b => some (wordV 43#6 d a b 10#5)
  | .stRs32 d a b => some (wordV 43#6 d a b 12#5)
  | .stRs64 d a b => some (wordV 43#6 d a b 13#5)
  | .stRs128 d a b => some (wordV 43#6 d a b 14#5)
  | .pref a l => some (wordV 43#6 127#7 a (0#6 ++ l) 16#5)
  | .pfenceS d => some (wordV 43#6 d 0#7 0#7 17#5)
  | .pfenceC => some (wordV 43#6 127#7 0#7 0#7 18#5)
  | .discLine a => some (wordV 43#6 127#7 a 0#7 19#5)
  | .discL1 => some (wordV 43#6 127#7 0#7 1#7 19#5)
  | .discK => some (wordV 43#6 127#7 0#7 2#7 19#5)
  | .tiledef a b => some (wordU 44#6 0#6 a b 0#3 0#5)
  | .tiledefClr b => some (wordU 44#6 0#6 0#6 b 1#3 0#5)
  | .tilestat d b => some (wordU 44#6 d 0#6 b 0#3 1#5)
  | .trel b => some (wordU 44#6 0#6 0#6 b 0#3 2#5)
  | .cpy a b => some (wordU 45#6 0#6 a b 0#3 0#5)
  | .cpyMc d a b => some (wordU 45#6 d a b 0#3 1#5)
  | .cpyOut a => some (wordU 45#6 0#6 a 0#6 1#3 2#5)
  | .cpyCvt a b => some (wordU 45#6 0#6 a b 0#3 3#5)
  | .cpyCvtOut a => some (wordU 45#6 0#6 a 0#6 1#3 3#5)
  | .xform a b => some (wordU 45#6 0#6 a b 0#3 4#5)
  | .xformOut a => some (wordU 45#6 0#6 a 0#6 1#3 4#5)
  | .xprog a b => some (wordU 45#6 0#6 a b 0#3 5#5)
  | .seal d => some (wordU 46#6 d 0#6 0#6 0#3 0#5)
  | .waitb d b => some (wordU 46#6 d 0#6 b 0#3 1#5)
  | .mma m n a b c f => some (wordX 48#6 m n a b c f)
  | .mmaG m n a b c f => some (wordXG 49#6 m n a b c 0#1 f)
  | .mmaCv m n a b c f => some (wordXG 49#6 m n a b c 1#1 f)
  | .mmas m n a b c f => some (wordX 50#6 m n a b c f)
  | .accdef a r => some (wordU 51#6 0#6 a (0#2 ++ r) 0#3 0#5)
  | .accdefClr r => some (wordU 51#6 0#6 0#6 (0#2 ++ r) 1#3 0#5)
  | .accz r => some (wordU 51#6 0#6 0#6 (0#2 ++ r) 0#3 1#5)
  | .accrd d a c r => some (wordV 51#6 d a (c ++ 0#1 ++ r) 2#5)
  | .accrdSt d a c r => some (wordV 51#6 d a (c ++ 1#1 ++ r) 2#5)
  | .accwr s a c r => some (wordV 51#6 s a (c ++ 0#1 ++ r) 3#5)
  | .accdrain d a r w => some (wordU 51#6 d a (0#2 ++ r) (0#1 ++ w) 4#5)
  | .accsave d a r => some (wordU 51#6 d a (0#2 ++ r) 0#3 5#5)
  | .accload d a r => some (wordU 51#6 d a (0#2 ++ r) 0#3 6#5)
  | .mwait d i => some (wordU 51#6 d 0#6 i 0#3 7#5)
  | .rslvWait => some (wordU 52#6 0#6 0#6 0#6 0#3 0#5)
  | .rslvStat d n => some (wordU 52#6 d 0#6 n 0#3 1#5)
  | .entryRaised _ _ => none
  | .yieldExpire _ _ => none
  | .rvarrCount _ => none
  | .quotaMove _ => none
  | .fastResult _ => none
  | .resolverAccept _ _ => none
  | .resolverSettle _ _ => none
  | .exactStageSettle _ _ => none
  | .matrixCommandStart _ => none
  | .matrixCommandRetire _ => none
  | .matrixEscalationSettle _ _ => none
  | .homeCommand _ _ => none
  | .stackFill _ => none
  | .patrolScrub _ => none
  | .tableWalk _ => none
  | .ticketAssign => none
  | .tlbinvComplete _ => none
  | .loadResponse _ => none
  | .storePerformed _ _ => none
  | .requestRetry _ _ => none
  | .speculativeRequest _ _ _ => none
  | .copyLine _ _ => none
  | .tileReady _ => none
  | .tileDrained _ _ => none
  | .batchFinish _ _ _ => none
  | .amaxRingPush _ => none
  | .ordUpdateAccept _ _ => none
  | .heatCloseCount _ => none
  | .remoteRequest _ => none
  | .remoteResponse _ _ _ => none
  | .fabricTimeout _ _ => none
  | .linkRetrain _ _ _ _ _ => none
  | .hostBar2Read _ _ => none
  | .hostBar2Write _ _ => none
  | .devid _ => none
  | .hostTlbinv _ => none
  | .qtail _ _ => none
  | .bar0RegisterWrite _ _ _ => none
  | .launchRequest => none
  | .launchStart => none
  | .timeSliceSwitch _ => none
  | .dispatch _ => none
  | .roleGovernor _ => none
  | .noticeAppend _ => none
  | .launchEnd _ => none
  | .gangKill _ => none
  | .gangRelaunch _ => none
  | .dieReset _ _ => none
  | .dieResetComplete _ _ => none
  | .gangSave _ => none
  | .gangRestore _ => none
  | .powerOn _ => none
  | .fundamentalReset _ => none
  | .functionLevelReset _ => none
  | .monitorSample _ _ => none
  | .boardPowerRemoval => none
  | .portTrainingComplete _ _ => none
  | .bar2SizeChange _ => none
  | .powerLoss => none

end Sys2Proof
end

