-- ==== Sys2Proof/Config.lean ====
section
/-!
DEFINITION. What the spec leaves to the implementation, as constants without a value (free values), and the sizes the
spec fixes.
-/

namespace Sys2Proof.Config

/-- FREE VALUE (log entry 8). The displacement of a fast result from the exact value, drawn with the counter `State.free`,
in units of the fixed point in which the model forms the test: R168 bounds it and says no more.  A displacement outside the
bound stands for none. -/
opaque fastError : Nat → Int

/-- FREE VALUE (log entry 8). The displacement of the resolver's result, as `fastError`, inside the bound of R177. -/
opaque resolverError : Nat → Int

/-- FREE VALUE (log entry 22). Which of several answers that the spec allows at once is given, drawn with the counter
`State.free`. -/
opaque pick : Nat → Nat

/-- FREE VALUE (log entry 14). The L1 set of a line, modulo the number of sets: R108 gives the sets and not their index. -/
opaque l1Set : Nat → Nat

/-- FREE VALUE (log entry 119). A payload byte behind the operand slots of a chain (R173): R172 makes a record a function of
the instruction's word and its operands, and gives these bytes no value. -/
opaque chainByte : BitVec 16 → List (Nat × BitVec 64) → Nat → BitVec 8

/-- Bytes of main memory (R37). -/
def mainBytes : Nat := 0xC000000000
/-- The first byte of the vault aperture (R37). -/
def vaultBase : Nat := 0x100000000000
/-- Bytes of the vault aperture (R37). -/
def vaultSpan : Nat := 0x80000000
/-- Bytes of a vault slot, and of its vault memory (R37). -/
def vaultSlot : Nat := 0x1000000
def vaultBytes : Nat := 0xC00000
/-- The first virtual address of the vault window (R51). -/
def windowBase : Nat := 0x00FFFFFF80000000
/-- The launch ring of queue 7 (R333). -/
def launchRing : Nat := 0x00BFFFFF0000
/-- The pool of time-slice images and its stride per core (R375). -/
def slicePool : Nat := 0x00BFE0000000
def sliceStride : Nat := 0x140000
/-- Entries of a core TLB and of a cluster's TLB (R70). -/
def tlbEntries : Nat := 2048
def xtlbEntries : Nat := 16384
/-- Table walkers of a die (R70). -/
def walkers : Nat := 64
/-- Lines and ways of an L1 (R108); lines of a constant cache (R115). -/
def l1Sets : Nat := 512
def l1Ways : Nat := 8
def konstLines : Nat := 512
/-- Lines of a home slice of 4 MiB (R5, R44). -/
def sliceLines : Nat := 32768
/-- Miss-status entries and the reserved ones (R113, R114). -/
def mshrs : Nat := 256
def mshrReserved : Nat := 16

end Sys2Proof.Config
end

