-- ==== Sys2Proof/Machine/State.lean ====
section
/-!
DEFINITION. The state of the machine as plain data: every register, memory, queue and operation in flight that the spec
names, and the model's own scheduling fields (agenda, cur, serial, free).  Sparse contents are `Cells`: sorted lists of
(index, value) that list no value equal to what an unlisted index reads as.
-/

namespace Sys2Proof.Machine

/-- Sparse contents by index, in one canonical form: indices strictly rising, no entry equal to the default. -/
abbrev Cells (β : Type) := List (Nat × β)

/-! ### Names of the units of work (R312) -/

/-- A team: its launch, its gang number and its gang position. -/
structure TeamKey where
  launch : Word
  gang   : Nat
  pos    : Nat
  deriving DecidableEq, Repr

/-- A crew: its team and its CREWID. -/
structure CrewKey where
  team : TeamKey
  crew : Nat
  deriving DecidableEq, Repr

/-! ### Crews -/

/-- A register that the scoreboard may hold pending (R134). -/
inductive PReg where
  | v (n : Nat)
  | u (n : Nat)
  deriving DecidableEq, Repr

/-- A pending register and the operation that will write it. -/
structure Pend where
  reg : PReg
  op  : Nat
  deriving DecidableEq, Repr

/-- A link of a thread's link stack (R320). -/
structure Link where
  pc   : Word
  prio : BitVec 6
  deriving DecidableEq, Repr

/-- What holds a frontier entry at its group, beside SYNC.C: a translation walk under way (R71), a page-fault ticket
(R72), a QUOTA waiting for its partner (R330). -/
inductive Hold where
  | free
  | walk
  | page (launch : Word) (page : Nat)
  | quota
  deriving DecidableEq, Repr

/-- A frontier entry (R314); `waits` names what it has issued and is held by: operations with rejected requests (R114), a
WRSR of TLBINV until its completion (R76); `yield` is 0, or one more than the issue opportunities a YIELD still gives away (R322);
`raised` holds the raise position; `parkWait` says since when its group waits for park records (R174); `mwait` names the
matrix command its MWAIT waits on, with the command's mask once it has retired (R239); `popWait` names the POP for whose
registers its group has been found to wait (R134, R344). -/
structure Entry where
  pc      : Word
  prio    : BitVec 6
  age     : Nat
  raised  : Option Nat
  blocked : Bool
  hold    : Hold
  waits   : List Nat
  mask    : BitVec 32
  yield   : Nat
  parkWait : Option Nat
  mwait   : Option (Nat × Option Word)
  popWait : Option Nat
  deriving DecidableEq, Repr

/-- The hints read so far of a group (R27): their payloads, how many words, and whether a kind occurred twice (R28). -/
structure Hints where
  imm   : Option (BitVec 22)
  g     : Option (BitVec 4)
  c     : Option (BitVec 22)
  rm    : Option (BitVec 3)
  sc    : Option (BitVec 3)
  dep   : Option (BitVec 14)
  count : Nat
  twice : Bool
  deriving DecidableEq, Repr

/-- The hint group a crew is issuing (R31): a thread of its entry, the pc of its first word, the pc of the word to issue
and the hints read. -/
structure Group where
  thread : Nat
  first  : Word
  pc     : Word
  hints  : Hints
  deriving DecidableEq, Repr

/-- What a whole crew waits in (R375): a BAR.T phase or a GBAR phase in which it has arrived. -/
inductive SyncWait where
  | free | barT | gbar
  deriving DecidableEq, Repr

/-- A POP that waits for a dispatch (R355): lease pair, selector, the order in which it began to wait, the time on the
base-die clock at which it did (R350), the group's pc and the threads of its entry, from which it issues afresh after a save
(R376), the pc of the word after it, and whether its crew has left its core with the threads back at the group's pc. -/
structure PopWait where
  op     : Nat
  dest   : BitVec 6
  sel    : Word
  since  : Nat
  clk    : Nat
  pc     : Word
  mask   : BitVec 32
  next   : Word
  back   : Bool
  deriving DecidableEq, Repr

/-- A QUOTA that waits for its partner (R330). -/
structure QuotaWait where
  give    : Bool
  partner : Nat
  gran    : Nat
  thread  : Nat
  pc      : Word
  deriving DecidableEq, Repr

/-- A sealed batch of a thread that is not known finished (R99). -/
structure Batch where
  thread : Nat
  number : Word
  deriving DecidableEq, Repr

/-- A crew (R127, R312, R375). -/
structure Crew where
  key       : CrewKey
  quota     : Nat
  vregs     : Cells Word          -- key 32 * register + slot
  vbad      : List Nat            -- registers whose code word is uncorrectable (R132)
  uregs     : Cells Word
  preds     : Cells (BitVec 32)   -- p1 to p7, bit per slot
  entries   : List Entry
  links     : Cells (List Link)   -- by thread, top of the stack first
  ended     : BitVec 32
  smask     : BitVec 32
  sarr      : BitVec 32
  rm        : BitVec 3
  flags     : BitVec 5
  mnext     : BitVec 6
  cpyctr    : Word
  resvBase  : Word
  resvCount : Word
  running   : Word
  evec      : Word
  epc       : Word
  eprio     : Word
  ecause    : Word
  einfo     : DWord
  tlblaunch : Word
  ordk      : Cells Word          -- by heat
  srctr     : Cells Word          -- by thread (and shadow slot)
  batch     : Cells Word          -- by thread
  sealedB   : List Batch
  pend      : List Pend
  group     : Option Group
  raises    : Nat                 -- issue opportunities so far, by which raise positions are given (R316)
  wait      : SyncWait
  pop       : Option PopWait
  quotaW    : Option QuotaWait
  started   : Bool                -- has issued (R344)
  stopped   : Bool                -- stopped for a kill or a save (R362, R372)
  upset     : Bool                -- what the crew computes twice next comes out different (R138, R139)
  deriving DecidableEq, Repr

/-! ### Teams, gangs -/

/-- The state of a defined tile (R86). -/
inductive TileSt where
  | empty | filling | ready | draining
  deriving DecidableEq, Repr

/-- A defined tile: its descriptor word (R84), its state, the copy that fills it, and, draining, the serial number of
the TREL. -/
structure Tile where
  desc  : Word
  st    : TileSt
  owner : Nat
  deriving DecidableEq, Repr

/-- A rendezvous point that has been initialised or has a phase (R328). -/
structure Point where
  init  : Bool
  count : Nat
  left  : Nat
  phase : Word
  deriving DecidableEq, Repr

/-- A lease (R349). -/
structure Lease where
  queue : Nat
  index : Word
  deriving DecidableEq, Repr

/-- Where a team stands (R313, R344, R372). -/
inductive TeamSt where
  | running
  | saved       -- by PREEMPT.SAVE or while a restore is under way
  | sliced      -- by a time-slice switch
  | ended
  deriving DecidableEq, Repr

/-- A team (R127, R312, R374). -/
structure Team where
  key      : TeamKey
  lcore    : Nat
  teamid   : Nat
  type     : Nat
  core     : Nat
  st       : TeamSt
  role     : BitVec 4
  mark     : Option (BitVec 4)
  spu      : Nat
  accu     : Nat
  scratch  : Cells Byte
  scPoison : Cells Bool           -- by 32-byte granule
  scBad    : List Nat             -- uncorrectable 4-byte words not yet read (R106)
  acc      : Cells Word           -- by slot
  accSt    : Cells Byte           -- by slot
  accBad   : List Nat             -- uncorrectable rows of 32 slots (R242)
  tiles    : Cells (Option Tile)
  regions  : Cells (Option Word)
  points   : Cells Point
  bmask    : BitVec 32
  barr     : BitVec 32
  garr     : BitVec 32
  gphase   : Word
  xprog    : Cells (List Word)    -- transform slots (R101), sixteen steps each; an empty slot is the empty list
  leases   : List Lease
  parkKeep : List (Bool × Word)   -- of each park record saved, what its image has no room for: SCAN.EX, the group's pc
  slice    : Option Nat           -- physical address of its image in the time-slice pool (R375)
  deriving DecidableEq, Repr

/-- A trap that kills a gang: cause, detecting core, position and crew, pc, info and thread of R364. -/
structure KillInfo where
  cause  : BitVec 8
  core   : BitVec 16
  pos    : BitVec 8
  crew   : BitVec 8
  pc     : Word
  info   : DWord
  thread : BitVec 8
  deriving DecidableEq, Repr

/-- A PREEMPT under way (R371): the issuing crew, its result pair, the operation's number, the area and the target
cluster. -/
structure PreemptOp where
  op      : Nat
  crew    : CrewKey
  dest    : BitVec 6
  save    : Bool
  area    : Nat
  cluster : Nat
  deriving DecidableEq, Repr

/-- Where a gang stands at the control core (R362, R363, R365, R371). -/
inductive GangSt where
  | running
  | relaunchPending
  | saved (area : Nat) (held : Bool)   -- held: the device's own image of a time slice
  | ended
  deriving DecidableEq, Repr

/-- A gang: its members' number, the relaunches so far, the kill that is in progress (first cause, whether any joined
cause is 8 to 12, whether KILLG.L asked) and the operations handed to the control core in order (R365). -/
structure Gang where
  launch  : Word
  num     : Nat
  count   : Nat
  st      : GangSt
  kill    : Option KillInfo
  again   : Bool
  forever : Bool
  todo    : List PreemptOp
  deriving DecidableEq, Repr

/-! ### Launches (R335 to R340) -/

/-- A team type (R336). -/
structure TeamType where
  pc    : Word
  prio  : BitVec 6
  crews : Nat
  quota : Nat
  spu   : Nat
  accu  : Nat
  role  : BitVec 4
  rmask : BitVec 16
  resv  : Word
  tiles : List Word
  accs  : List Word
  deriving DecidableEq, Repr

/-- A placement entry (R337). -/
structure Place where
  lcore : Nat
  type  : Nat
  gang  : Nat
  pos   : Nat
  deriving DecidableEq, Repr

/-- A dual-version range with its selection bit (R78). -/
structure DvRange where
  base : Nat
  len  : Nat
  sel  : Bool
  deriving DecidableEq, Repr

/-- A vault grant (R338). -/
structure Grant where
  vault : Nat
  unit  : Nat
  count : Nat
  deriving DecidableEq, Repr

/-- An ordered atomic region of a running launch (R259 to R265): its descriptor, the physical addresses of its
spill area, the records appended, the participants whose close is counted, and whether it failed or merged. -/
structure Heat where
  ext     : Nat
  len     : Nat
  op      : Nat
  rm      : BitVec 3
  np      : Nat
  spill   : Nat
  spillb  : Nat
  spillPa : List Nat              -- physical address of each 64 KiB unit that the spill area meets
  count   : Nat
  closed  : List Nat
  failed  : Bool
  merged  : Bool
  flags   : BitVec 5
  deriving DecidableEq, Repr

/-- A running launch: what the retained record says, and what the launch has become. -/
structure Launch where
  id        : Word
  codebase  : Nat
  database  : Nat
  codelen   : Nat
  pt0       : Nat
  seed      : DWord
  det       : Bool
  prot      : Bool
  priv      : Bool
  gov       : Bool
  vzero     : Bool
  tag       : Word
  retry     : Nat
  rings     : DWord
  cq        : Nat
  args      : List Word
  types     : List TeamType
  places    : List Place
  grants    : List Grant
  dvs       : List DvRange
  heats     : List Heat
  clusters  : List (Nat × Nat)    -- logical cluster, physical cluster
  sliced    : List Nat            -- logical clusters time-sliced out (R344)
  relaunches : Nat
  endStatus : Option (BitVec 8)   -- 2 or 3 once the launch is to end so (R359)
  start     : Nat                 -- length of the store history when it started (R14)
  deriving DecidableEq, Repr

/-- A task queue (R338, R345). -/
structure Queue where
  num      : Nat
  launch   : Word
  lg       : Nat
  prio     : Nat
  role     : BitVec 4
  hostVis  : Bool
  governed : Bool
  bound    : Option Nat
  ring     : Nat
  low      : Nat
  high     : Nat
  tail     : Word
  head     : Word
  next     : Word
  returned : List Word
  finished : List Word
  govAt    : Option Nat           -- core-clock time of its last reassignment (R353)
  deriving DecidableEq, Repr

/-- A launch request that has passed its checks and waits at the head of queue 7 (R334): its index there, and what its
record says. -/
structure Request where
  index  : Word
  launch : Launch
  queues : List Queue
  deriving DecidableEq, Repr

/-! ### Memory side -/

/-- The metadata of a line (R41, R42): version, poison, granules with an uncorrectable and with a correctable error that
no read has found. -/
structure LineMeta where
  ver    : BitVec 12
  poison : BitVec 4
  bad    : BitVec 4
  soft   : BitVec 4
  deriving DecidableEq, Repr

/-- A line held in an L1 (R108): core, line number, contents, poison, version, the time of its fill on the base-die clock
(R250), and the number of the home's answer that filled it. -/
structure L1Line where
  core   : Nat
  line   : Nat
  data   : Line
  poison : BitVec 4
  ver    : BitVec 12
  since  : Nat
  point  : Nat
  deriving DecidableEq, Repr

/-- A line held in a constant cache, with the launch whose access filled it (R115). -/
structure KLine where
  core   : Nat
  line   : Nat
  launch : Word
  data   : Line
  poison : BitVec 4
  deriving DecidableEq, Repr

/-- A copy of a remote line held in a home slice of one of the dies (R302), with the number of the answer that filled it. -/
structure L2Copy where
  die    : Nat
  dev    : Nat
  line   : Nat
  launch : Word
  data   : Line
  poison : BitVec 4
  ver    : BitVec 12
  point  : Nat
  deriving DecidableEq, Repr

/-- A line of code of a launch that another device has sent (R66, R315). -/
structure CodeLine where
  launch : Word
  dev    : Nat
  line   : Nat
  data   : Line
  poison : BitVec 4
  deriving DecidableEq, Repr

/-- A TLB entry (R70): the core, or the cluster in the second-level TLB, the launch, the page's base and the base-2
logarithm of its size, the leaf and the selection bit of its range. -/
structure TlbEntry where
  loc    : Nat
  launch : Word
  va     : Nat
  lg     : Nat
  leaf   : DWord
  sel    : Bool
  deriving DecidableEq, Repr

/-- The kind of access that meets a translation (R68, R73). -/
inductive Access where
  | load | store | memside | fetch | copyRead | copyWrite | flip
  deriving DecidableEq, Repr

/-- Who waits for a walk: a crew's entry, by a thread of it, with its group's pc, or a copy. -/
inductive Waiter where
  | crew (c : CrewKey) (thread : Nat) (pc : Word)
  | copy (id : Nat)
  deriving DecidableEq, Repr

/-- A miss that waits for a walk: its core, its address, its kind, who made it (R70, R71), and the thread that did, if it was
one thread's access (R364). -/
structure Miss where
  core   : Nat
  va     : Nat
  access : Access
  who    : Waiter
  thread : Option Nat
  deriving DecidableEq, Repr

/-- A translation walk of a die that has not completed: the launch, the page's 64 KiB unit, and the misses that have merged
into it, first come first (R70). -/
structure Walk where
  id     : Nat
  launch : Word
  die    : Nat
  page   : Nat
  misses : List Miss
  deriving DecidableEq, Repr

/-- A leaf that a launch's walks have read: the page's base, the base-2 logarithm of its size, and the entry.  It is kept
while a line may be held that the launch has reached through it (R76). -/
structure Leaf where
  launch : Word
  va     : Nat
  lg     : Nat
  entry  : DWord
  deriving DecidableEq, Repr

/-- A page that faulted (R72): ticket 0 while it waits for one; the first faulting access's kind, level, core and
logical core. -/
structure Fault72 where
  launch : Word
  page   : Nat
  ticket : Nat
  access : Access
  level  : Nat
  core   : Nat
  lcore  : Nat
  deriving DecidableEq, Repr

/-- Where a line request goes: a local home (physical line number), another device or host memory (device, physical line
number), the scratchpad of a team. -/
inductive Target where
  | home (line : Nat)
  | remote (dev line : Nat)
  | scratch (team : TeamKey)
  deriving DecidableEq, Repr

/-- Where a line request stands: rejected for want of a miss-status entry, on its way, held at its home (CWR), performed,
delivered. -/
inductive ReqSt where
  | rejected | sent | held | performed | delivered
  deriving DecidableEq, Repr

/-- Which path serves a line request (R109, R110, R115, R302). -/
inductive ReqPath where
  | l1 | home | konst | l2copy
  deriving DecidableEq, Repr

/-- One line request of an instruction (R112): target, virtual line number of its first access, path, state, what came back,
rejections, aging and whether it holds a reserved miss-status entry (R114), whether its fill may still be installed (R281), and, answered, when on the base-die clock and
under which number. -/
structure LReq where
  target  : Target
  vline   : Nat
  path    : ReqPath
  st      : ReqSt
  data    : Line
  poison  : BitVec 4
  ver     : BitVec 12
  wrote   : Bool
  flags   : BitVec 5
  tries   : Nat
  aged    : Option Nat
  install : Bool
  refused : Bool
  time    : Nat
  point   : Nat
  kept    : Bool
  deriving DecidableEq, Repr

/-- Bytes of a line that a slot's thread has loaded, and the number of the answer it loaded: a copy that an earlier answer
filled serves these bytes to the thread no more (R275). -/
structure Seen where
  crew   : CrewKey
  slot   : Nat
  target : Target
  off    : Nat
  n      : Nat
  point  : Nat
  deriving DecidableEq, Repr

/-- The access of one slot: its address, the index of its line request, its data and second operand, the value it
brings back, and whether it has been performed before the rest (R107, R261). -/
structure Acc where
  slot : Nat
  va   : DWord
  req  : Nat
  data : BitVec 128
  aux  : BitVec 128
  out  : BitVec 128
  fin  : Bool
  deriving DecidableEq, Repr

/-- What an operation in flight is. -/
inductive OpKind where
  /-- LD, LDW, LDV, LDC, ULD -/
  | load (size : Nat) (sgn : Bool)
  /-- ST, STW, STV -/
  | store (size : Nat)
  /-- LDS, LD.RS -/
  | scLoad (size : Nat) (sgn : Bool) (gang : Bool)
  /-- STS, ST.RS -/
  | scStore (size : Nat) (gang : Bool)
  /-- ATOM and RED of R24, operation number and whether the old value returns; reservation results in a deterministic
  launch are already in `out` -/
  | atomic (op : Nat) (ret det : Bool)
  | atomf (dbl ret : Bool)
  | msadd (half : Bool)
  | cwr
  | vers
  | flip (range : Nat) (inv : Nat)
  | pref (l1 : Bool)
  | ordAtom (heat : Nat)
  | ordClose (heat part : Nat) (counted : Bool)
  | amaxPush (ring : Nat) (step : Word) (m : DWord) (flags : BitVec 5)
  | rvarr (point : Nat)
  | xprog (slot : Nat)
  | accdrain (num : Nat) (region : Word) (base : DWord) (stride : Word) (scale : Word) (wf : BitVec 2)
  | accsave (num : Nat) (region : Word) (base : DWord)
  | accload (num : Nat) (region : Word) (base : DWord)
  | preempt
  | pop
  /-- a line of code of another device (R66, R315) -/
  | fetch
  deriving DecidableEq, Repr

/-- A destination: a register field and how many registers it takes. -/
structure RegDest where
  field : BitVec 7
  width : Nat
  deriving DecidableEq, Repr

/-- An operation that has issued and is not over: its number (numbers rise in issue order), crew, core, kind, active
threads, destination fields, rounding mode, scope, virtual page touched, pc of its group, its accesses and line requests,
and the value or witness bits it will write to a uniform pair. -/
structure MOp where
  id    : Nat
  crew  : CrewKey
  core  : Nat
  kind  : OpKind
  mask  : BitVec 32
  vdest : Option RegDest
  udest : Option RegDest
  rm    : BitVec 3
  scope : BitVec 3
  pc    : Word
  since : Nat
  accs  : List Acc
  reqs  : List LReq
  deriving DecidableEq, Repr

/-- A copy's memory line (R82): virtual line number, where it lies once it is translated and not yet read or written,
of a page with RC = 1, whether the L2 keeps what its read brings (R302), whether it has been read or written, and what was
read. -/
structure CopyLn where
  vline : Nat
  asked : Option Target
  rc    : Bool
  keep  : Bool
  done  : Bool
  data  : Line
  poison : BitVec 4
  deriving DecidableEq, Repr

/-- What a copy does (R96, R98, R102). -/
inductive CopyKind where
  | plain
  | convert (dfmt sfmt : BitVec 4) (rm : BitVec 3) (key ctr : DWord)
  | xform (esz : Nat) (prog : List Word)
  deriving DecidableEq, Repr

/-- A copy in flight (R81): outward copies carry the batch each active thread joined (R99); `spa` is relative to the
tile for an inward copy; `dest` is the pair of CPY.MC; `sels` holds the selection bits the copy uses (R80).  `taken` holds
the 4-byte words of the scratchpad that an outward copy has read, each with its granule's poison bit (R284); `landed` the
words of its tiles that a fill has written before TILE_READY, by tile of the list and word of the tile (R89). -/
structure Copy where
  id     : Nat
  crew   : CrewKey
  core   : Nat
  kind   : CopyKind
  out    : Bool
  sh     : Bool
  mva    : DWord
  mstr   : Word
  rows   : Nat
  rowb   : Nat                    -- bytes of a row on the scratchpad side
  spa    : Nat
  sstr   : Nat
  wit    : DWord
  tiles  : List (TeamKey × Nat)
  dest   : Option (BitVec 6)
  sels   : List Bool
  batch  : List Batch
  lines  : List CopyLn
  taken  : List (Nat × Word × Bool)
  landed : List (Nat × Nat)
  hold   : Hold
  pc     : Word
  deriving DecidableEq, Repr

/-- A matrix command from its acceptance to its retirement (R228): what it named at issue (R230), and from its start the
escalated cells that are still to be written (R224).  `seen` holds the 4-byte words of its tiles that it has read before its
start, each with its granule's poison bit (R231). -/
structure Cmd where
  id     : Nat
  crew   : CrewKey
  core   : Nat
  ident  : BitVec 6
  num    : Nat                    -- the region's number
  region : Word
  m      : Nat
  n      : Nat
  fmt    : BitVec 4
  scaled : Bool
  ta     : Nat
  tb     : Nat
  sa     : Nat
  sb     : Nat
  rowsA  : List (Option Nat)      -- the tile row of each row of A; none reads as zero
  mask   : BitVec 16
  rm     : BitVec 3
  dep    : List (BitVec 6)
  seen   : List (Nat × Word × Bool)
  started : Bool
  left   : List (Nat × Word × Word × Byte)   -- escalated cells: cell number, value to write (low, high), status bits
  pc     : Word
  deriving DecidableEq, Repr

/-- One staged operation whose fast results have not been written (R167, R176). -/
structure FastOp where
  id     : Nat
  crew   : CrewKey
  core   : Nat
  major  : BitVec 6
  sel    : BitVec 5
  fmt    : BitVec 2
  rm     : BitVec 3
  dest   : BitVec 7
  amask  : BitVec 32
  resv   : List Nat               -- park records reserved (R174)
  args   : List (Nat × DWord × DWord × DWord)   -- slot, a, b, c
  excl   : Bool
  pc     : Word
  draw   : Nat                    -- the free counter from which its displacements are drawn (R168)
  deriving DecidableEq, Repr

/-- The progress of a park record (R172). -/
inductive ParkStage where
  | queued | resolver | exact
  deriving DecidableEq, Repr

/-- A single park record or a chain of them (R172, R173), at the listed indices of its core's queue. -/
structure Park where
  core   : Nat
  idx    : List Nat
  seq    : Word
  crew   : CrewKey
  op     : Nat
  major  : BitVec 6
  sel    : BitVec 5
  fmt    : BitVec 2
  rm     : BitVec 3
  dest   : BitVec 7
  slot   : Nat                    -- the slot of a single record
  chain  : Bool
  excl   : Bool
  pmask  : BitVec 32
  amask  : BitVec 32
  args   : List (Nat × DWord × DWord × DWord)
  stage  : ParkStage
  bad    : Bool
  pc     : Word
  deriving DecidableEq, Repr

/-- A heat update in a home's holding buffer (R261). -/
structure Upd where
  home  : Nat
  launch : Word
  heat  : Nat
  pa    : Nat
  tag   : Nat
  value : DWord
  acc   : Word
  since : Nat
  deriving DecidableEq, Repr

/-- A TLBINV under way, of a crew or of the host, or the discards of a FLIP (R76, R80): its range in bytes, the launch it
names (0: every launch), the operations it waits for, and the lines of copies it waits for, by copy and position. -/
structure Inv where
  id     : Nat
  host   : Bool                   -- the host's TLBINV
  launch : Word
  lo     : Nat
  len    : Nat
  ops    : List Nat
  lines  : List (Nat × Nat)
  deriving DecidableEq, Repr

/-- A response this device sends, or a message to the host: what is seen outside. -/
inductive OutMsg where
  | msix (vector : BitVec 6)
  | fabric (dest tag : Nat) (resp : RemoteResp)
  | hostRead (bytes : List (BitVec 8)) (poisoned : Bool)
  | hostAbort
  | hostUnsupported
  | hostWrite (addr : Nat) (bytes : List (Nat × BitVec 8))
  deriving DecidableEq, Repr

/-- The line's data are not installed in the L2 where its target satisfies p (R281). -/
def CopyLn.spoil (p : Target → Bool) (x : CopyLn) : CopyLn := if x.asked.any p then { x with rc := false, keep := false } else x
/-- No line of a copy under way to a target that satisfies p is installed. -/
def Copy.spoil (p : Target → Bool) (c : Copy) : Copy := { c with lines := c.lines.map (CopyLn.spoil p) }

/-- What happens next. -/
inductive Move where
  /-- a step of the table other than an instruction word -/
  | event (i : Instr)
  /-- the crew at this position issues the next word of a group; `choice` picks among the values a fetch may return
  (R14) -/
  | issue (crew choice : Nat)
  /-- an L1, constant-cache, L2 or TLB line leaves by replacement (R45, R70, R109, R115): core or slice, line -/
  | evictL1 (core line : Nat)
  | evictK (core line : Nat)
  | evictL2 (line : Nat)
  | evictRemote (die dev line : Nat)
  | evictTlb (core : Nat) (va : Nat)
  | evictXtlb (cluster : Nat) (va : Nat)
  | evictCode (launch : Word) (dev line : Nat)
  /-- a bit error appears: in a granule of a line (uncorrectable or not), a scratchpad word, a vector register, a row of
  accumulator memory, a park record -/
  | errLine (line : Nat) (granule : Nat) (hard : Bool)
  | errScratch (team : Nat) (word : Nat)
  | errReg (crew : Nat) (reg : Nat)
  | errAcc (team : Nat) (row : Nat)
  | errPark (core idx : Nat)
  /-- a detected disagreement of a protected pair, in a slot of a register: the slot takes a value (R138) -/
  | errSlot (crew reg slot : Nat) (value : Word)
  /-- one of the two computations of what a protected crew next computes twice goes wrong (R138) -/
  | errTwice (crew : Nat)
  /-- the host reads BAR0: offset and size (R305) -/
  | bar0Read (off size : Nat)
  /-- the host writes BAR0 with a size other than 4 and 8 bytes (R305) -/
  | bar0Odd (off size : Nat)
  /-- power comes on, or a reset of the whole device begins, and its sequence goes step by step; one step of it (R378) -/
  | boot (fail : BitVec 4)
  | bootNext
  /-- one clk of a core's clock, or one cycle of the base-die clock -/
  | tick (cluster : Nat)
  | baseTick
  /-- a copy translates its next line and reads or writes it later: the accesses of a copy overlap in time (R81) -/
  | reach (copy : Nat)
  /-- the L2 will keep the remote line that a copy's read under way brings (R302) -/
  | keep (copy line : Nat)
  /-- a home of another device holds the line of a CWR (R267, R271) -/
  | farHold (op line : Nat)
  /-- an outward copy reads a scratchpad word before it writes the line that needs it (R284) -/
  | take (copy word : Nat)
  /-- the access of one thread of a scratchpad load or store is performed before the others (R107) -/
  | single (op slot : Nat)
  /-- a fill writes a word of one of its tiles before TILE_READY (R89) -/
  | land (copy tile word : Nat)
  /-- a matrix command reads a word of its tiles before MATRIX_COMMAND_START (R231) -/
  | peek (cmd word : Nat)
  /-- nothing -/
  | idle
  deriving DecidableEq, Repr

/-- A fabric port (R294, R303): its lanes, 0 for none, and whether its first training is over. -/
structure Port where
  width   : Nat
  trained : Bool
  deriving DecidableEq, Repr

/-- The device's registers, clocks and control state. -/
structure Device where
  power    : Bool
  step     : BitVec 4             -- BOOTSTAT step
  fail     : BitVec 4             -- BOOTSTAT fail
  boot     : Option (BitVec 4)    -- a bring-up sequence is under way, and ends with this failure cause or with 0 (R378, R380)
  fusedOff : List Nat             -- cores whose bit of the enabled-core fuse map is clear (R379)
  enabled  : List (Nat × Nat)     -- cores whose lane-map fuses differ from fully good: core, lane map (R379)
  monitors : Cells Word           -- TEMP, VOLT, PROC, ECCS, ECCV, POWER, STRETCH by number
  devid    : Word
  domkey   : Word
  fabctl   : DWord
  hostbase : DWord
  winbase  : DWord
  tlblaunch : Word
  msix     : Cells Word
  bar2lg   : Nat
  ports    : Cells Port
  portsOn  : Bool                 -- DEVID has been written (R378)
  portsDown : List Nat            -- ports that a die reset has taken down and that have not retrained (R366)
  rp       : Cells Nat            -- rotating pointer by priority (R350)
  rings    : Cells (List (Word × DWord))   -- absmax rings (R160): step, absolute value as FP64
  nextLid  : Word
  held     : List (Nat × List (BitVec 8))  -- notices held: queue, 32 bytes (R347)
  lost     : Cells Nat            -- notices lost, by queue
  diesDown : List (Nat × Nat × Nat)        -- die being reset, reason, gangs killed (R366)
  seqs     : Cells Word           -- park sequence numbers, by core
  counts   : Cells Word           -- RSLV.STAT counters, 8 * core + n
  rslv     : Cells Nat            -- the core of each cluster that its resolver's rotation offers next (R177)
  clk      : Cells Nat            -- clk of each cluster since reset
  resetAt  : Cells Nat            -- clk at which each core was last reset
  bclk     : Nat                  -- cycles of the base-die clock
  out      : List OutMsg
  deriving DecidableEq, Repr

/-- Memory and what its homes hold. -/
structure Mem where
  bytes    : List Host.Cell       -- by physical address; an unlisted byte reads 0 (R50)
  lines    : Cells LineMeta       -- by line number
  resident : List Nat             -- lines in their home slice (R45)
  history  : List (Nat × Word)    -- words stored, oldest first: address, value (R14)
  taken    : List Nat             -- lines that a command took in this cycle of the base-die clock (R46)
  updates  : List Upd             -- holding buffers (R261)
  accNum   : Cells Word           -- acceptance numbers, 16 * home + heat (R261)
  deriving DecidableEq, Repr

/-- A CWR of another device that a home holds (R267, R297): sender, tag, line, expected version, bytes, arrival. -/
structure FarCwr where
  sender : Nat
  tag    : Nat
  line   : Nat
  expect : BitVec 12
  bytes  : List (Nat × BitVec 8)
  since  : Nat
  deriving DecidableEq, Repr

/-- The caches, TLBs and operations in flight of the cores. -/
structure Flight where
  l1      : List L1Line
  konst   : List KLine
  l2      : List L2Copy
  tlb     : List TlbEntry
  xtlb    : List TlbEntry
  walks   : List Walk
  leaves  : List Leaf
  code    : List CodeLine
  seen    : List Seen
  faults  : List Fault72
  ops     : List MOp
  copies  : List Copy
  cmds    : List Cmd
  fasts   : List FastOp
  parks   : List Park
  invs    : List Inv
  far     : List FarCwr
  fabTags : List (Nat × Nat × RemoteResp)  -- sender and end-to-end tag of requests answered, with the answer (R301)
  deriving DecidableEq, Repr

/-- The state of the machine. -/
structure State where
  dev      : Device
  mem      : Mem
  fl       : Flight
  launches : List Launch
  gangs    : List Gang
  teams    : List Team
  crews    : List Crew
  queues   : List Queue
  request  : Option Request       -- the request that waits to be placed (R334)
  cur      : Nat                  -- the crew whose word is issued
  agenda   : List Move            -- what happens next
  turn     : Nat                  -- the crew the rotation of R317 offers next
  waited   : Bool                 -- the last word issued found that its group must wait
  serial   : Nat                  -- the next number of an operation
  free     : Nat                  -- the counter the free values are drawn with
  deriving DecidableEq, Repr

/-! ### Stops and reset -/

/-- Why the machine stops with a fault.  The spec gives every instruction and every step an outcome (R12), so only a
malformed choice of what happens next faults; safe: no rule of the spec asks for such a step. -/
inductive Fault where
  /-- raised by an instruction word when no crew stands at `cur` or it has no entry to issue from; safe -/
  | noCrew
  deriving DecidableEq, Repr

/-- Why a step has no meaning. -/
inductive Refusal where
  /-- raised by an arm of `exec` that has no meaning yet; safe -/
  | notModelled (mnemonic : String)
  /-- raised by a step of the machine (an event of the table) asked for in a state in which the spec lets it not happen;
  `step` drops such a choice from the agenda; safe -/
  | notEnabled
  deriving DecidableEq, Repr

/-- The device right after step 6 of bring-up (R378; log entries 1 to 5 and 20).  DESIGN CHOICE (log entry 106): every core's
next park sequence number is 0, and every resolver's rotation begins at the first core of its cluster. -/
def Device.reset : Device where
  power := true
  step := 6#4
  fail := 0#4
  boot := none
  fusedOff := []
  enabled := []
  monitors := []
  devid := 0x7FF#32
  domkey := 0#32
  fabctl := 0#64
  hostbase := 0#64
  winbase := 0#64
  tlblaunch := 0#32
  msix := []
  bar2lg := 30
  ports := []
  portsOn := false
  portsDown := []
  rp := []
  rings := []
  nextLid := 1#32
  held := []
  lost := []
  diesDown := []
  seqs := []
  counts := []
  rslv := []
  clk := []
  resetAt := []
  bclk := 0
  out := []

/-- Memory after bring-up: zero data, version 0, clear poison in every line (R50). -/
def Mem.reset : Mem where
  bytes := []
  lines := []
  resident := []
  history := []
  taken := []
  updates := []
  accNum := []

/-- Nothing cached, nothing in flight. -/
def Flight.reset : Flight where
  l1 := []
  konst := []
  l2 := []
  tlb := []
  xtlb := []
  walks := []
  leaves := []
  code := []
  seen := []
  faults := []
  ops := []
  copies := []
  cmds := []
  fasts := []
  parks := []
  invs := []
  far := []
  fabTags := []

/-- Queue 7, the launch queue: 2,048 entries at the last 64 KiB of main memory, host-visible (R333). -/
def Queue.seven : Queue where
  num := 7
  launch := 0#32
  lg := 11
  prio := 0
  role := 0#4
  hostVis := true
  governed := false
  bound := none
  ring := 0x00BFFFFF0000
  low := 0
  high := 2048
  tail := 0#32
  head := 0#32
  next := 0#32
  returned := []
  finished := []
  govAt := none

/-- The machine right after reset: bring-up has completed its step 6 (R378), no launch runs, queue 7 is empty. -/
def State.reset : State where
  dev := Device.reset
  mem := Mem.reset
  fl := Flight.reset
  launches := []
  gangs := []
  teams := []
  crews := []
  queues := [Queue.seven]
  request := none
  cur := 0
  agenda := []
  turn := 0
  waited := false
  serial := 1
  free := 0

end Sys2Proof.Machine
end

