-- ==== Sys2Proof/Machine/Ops.lean ====
section
/-!
DEFINITION. The named operations over registers, units of work and the frontier, the issue of an instruction (checks
before it, advance after it), and taking an exception and returning from one.
-/

namespace Sys2Proof.Machine

/-! ### Cells -/

/-- The value at an index; `dflt` where it is not listed. -/
def Cells.get {β : Type} (dflt : β) : Cells β → Nat → β
  | [], _ => dflt
  | (j, v) :: r, k => if k < j then dflt else if k = j then v else Cells.get dflt r k

/-- Writes an index; a write of the default removes the entry, so equal contents are equal lists. -/
def Cells.set {β : Type} [DecidableEq β] (dflt : β) : Cells β → Nat → β → Cells β
  | [], k, v => if v = dflt then [] else [(k, v)]
  | (j, w) :: r, k, v =>
    if k < j then (if v = dflt then (j, w) :: r else (k, v) :: (j, w) :: r)
    else if k = j then (if v = dflt then r else (k, v) :: r)
    else (j, w) :: Cells.set dflt r k v

/-- Writes several indices in order. -/
def Cells.setAll {β : Type} [DecidableEq β] (dflt : β) (c : Cells β) (l : List (Nat × β)) : Cells β :=
  l.foldl (fun c p => Cells.set dflt c p.1 p.2) c

/-- The entries at the indices that satisfy p only. -/
def Cells.keep {β : Type} (p : Nat → Bool) (c : Cells β) : Cells β := c.filter (fun e => p e.1)

/-- The canonical form: indices strictly rising, no entry equal to the default. -/
def Cells.wf {β : Type} [DecidableEq β] (dflt : β) : Cells β → Bool
  | [] => true
  | [(_, v)] => decide (v ≠ dflt)
  | (j, v) :: (k, w) :: r => decide (j < k) && decide (v ≠ dflt) && Cells.wf dflt ((k, w) :: r)

/-! ### Stops -/

/-- A trap (R360): its cause, the information of R364, the lowest thread that raised it, and the code of TRAP. -/
structure Trap where
  cause  : Nat
  info   : DWord := 0#64
  thread : Option Nat := none
  code   : BitVec 6 := 0#6
  deriving DecidableEq, Repr

/-- Why an instruction or a step does not complete now. -/
inductive Stop where
  /-- a rule makes the group wait at issue -/
  | wait
  /-- the group needs a register that the crew's POP, of a number, will write (R134, R355) -/
  | popWait (op : Nat)
  /-- the group waits for park records, and takes its place among the waiters (R174) -/
  | parkWait
  /-- the MWAIT waits on a matrix command (R239) -/
  | matrixWait (cmd : Nat)
  /-- a translation is in no TLB: a walk starts and the entry is held (R71) -/
  | miss (va : Nat) (access : Access) (thread : Option Nat)
  /-- a trap detected at issue -/
  | trap (t : Trap)
  /-- the word lies in another device, and has not come from it -/
  | codeMiss (dev line vline : Nat)
  /-- the trap of the group, of the lowest cause code there is, strikes others too: the machine after it (R330, R361) -/
  | struck (t : State)
  /-- a step of the machine that the spec does not let happen now -/
  | disabled
  /-- an instruction word without a crew to issue it -/
  | noCrew
  deriving DecidableEq, Repr

/-- The result of a step part: a state or a stop. -/
abbrev Res (α : Type) := Except Stop α

/-- A trap of a cause. -/
def trapOf {α : Type} (cause : Nat) (info : DWord := 0#64) (thread : Option Nat := none) : Res α :=
  .error (.trap { cause := cause, info := info, thread := thread })

/-- The invalid-instruction trap (R26). -/
def invalid {α : Type} : Res α := trapOf 1
/-- The sync-mask-mismatch trap (R326). -/
def syncMismatch {α : Type} : Res α := trapOf 2
/-- The scale-layout fault (R153). -/
def scaleLayout {α : Type} : Res α := trapOf 3
/-- The invalid-witness trap (R245).  DESIGN CHOICE (log entry 99): its info is 0, of the values R364 allows. -/
def badWitness {α : Type} (thread : Option Nat := none) : Res α := trapOf 4 0#64 thread
/-- The nondeterministic-operation trap (R257). -/
def nondet {α : Type} : Res α := trapOf 5
/-- An access violation; `info` is the address (R364). -/
def violation {α : Type} (info : DWord := 0#64) (thread : Option Nat := none) : Res α := trapOf 6 info thread
/-- A detected silent error at a row of the table of R139. -/
def silentError {α : Type} (row : Nat) (thread : Option Nat := none) : Res α := trapOf 9 (BitVec.ofNat 64 row) thread

/-- Raises an invalid instruction unless the condition holds. -/
def ensure (p : Bool) (e : Res Unit) : Res Unit := if p then .ok () else e

/-! ### Lists of units -/

/-- Replaces the element at a position. -/
def putAt {α : Type} (l : List α) (n : Nat) (x : α) : List α := l.set n x

/-- The position of the first element that satisfies p. -/
def findIx {α : Type} (p : α → Bool) (l : List α) : Option Nat := l.findIdx? p

def State.setCrew (s : State) (n : Nat) (c : Crew) : State := { s with crews := putAt s.crews n c }
def State.setTeam (s : State) (n : Nat) (t : Team) : State := { s with teams := putAt s.teams n t }

/-- The position of a crew. -/
def State.crewIx (s : State) (k : CrewKey) : Option Nat := findIx (fun c => decide (c.key = k)) s.crews
/-- The position of a team. -/
def State.teamIx (s : State) (k : TeamKey) : Option Nat := findIx (fun t => decide (t.key = k)) s.teams
def State.crewOf (s : State) (k : CrewKey) : Option Crew := s.crews.find? (fun c => decide (c.key = k))
def State.teamOf (s : State) (k : TeamKey) : Option Team := s.teams.find? (fun t => decide (t.key = k))
def State.launchOf (s : State) (id : Word) : Option Launch := s.launches.find? (fun l => decide (l.id = id))
def State.gangIx (s : State) (launch : Word) (g : Nat) : Option Nat :=
  findIx (fun x => decide (x.launch = launch) && decide (x.num = g)) s.gangs
def State.queueOf (s : State) (q : Nat) : Option Queue := s.queues.find? (fun x => decide (x.num = q))

/-- Applies f to the crew named, wherever it stands. -/
def State.mapCrew (s : State) (k : CrewKey) (f : Crew → Crew) : State :=
  { s with crews := s.crews.map (fun c => if c.key = k then f c else c) }
/-- Applies f to the team named. -/
def State.mapTeam (s : State) (k : TeamKey) (f : Team → Team) : State :=
  { s with teams := s.teams.map (fun t => if t.key = k then f t else t) }
def State.mapLaunch (s : State) (id : Word) (f : Launch → Launch) : State :=
  { s with launches := s.launches.map (fun l => if l.id = id then f l else l) }
def State.mapGang (s : State) (id : Word) (g : Nat) (f : Gang → Gang) : State :=
  { s with gangs := s.gangs.map (fun x => if x.launch = id ∧ x.num = g then f x else x) }
def State.mapQueue (s : State) (q : Nat) (f : Queue → Queue) : State :=
  { s with queues := s.queues.map (fun x => if x.num = q then f x else x) }
def State.mapOp (s : State) (id : Nat) (f : MOp → MOp) : State :=
  { s with fl := { s.fl with ops := s.fl.ops.map (fun o => if o.id = id then f o else o) } }
def State.opOf (s : State) (id : Nat) : Option MOp := s.fl.ops.find? (fun o => decide (o.id = id))
def State.dropOp (s : State) (id : Nat) : State :=
  { s with fl := { s.fl with ops := s.fl.ops.filter (fun o => !decide (o.id = id)) } }

/-! ### Cores and lanes -/

/-- The cluster of a core, and the compute die of a core (R5, R51). -/
def clusterOf (core : Nat) : Nat := core / 8
def dieOf (core : Nat) : Nat := core / 128

/-- The lane map the fuses give a core: all lanes good unless they say otherwise (R379). -/
def Device.laneMap (d : Device) (core : Nat) : BitVec 32 :=
  match d.enabled.find? (fun e => decide (e.1 = core)) with
  | some (_, m) => BitVec.ofNat 32 m
  | none => 0xFFFFFFFF#32

/-- The number of set bits. -/
def popCount {w : Nat} (x : BitVec w) : Nat := ((List.range w).filter (fun i => x.getLsbD i)).length

/-- The fuses enable a core: its bit of the enabled-core map is set, and at least 26 of its lanes are good (R379). -/
def Device.fuseOn (d : Device) (core : Nat) : Bool :=
  decide (core < 256) && !d.fusedOff.contains core && decide (26 ≤ popCount (d.laneMap core))

/-- A core runs when its fuses enable it and its die is not being reset (R366, R379). -/
def Device.coreOn (d : Device) (core : Nat) : Bool :=
  d.fuseOn core && !(d.diesDown.any (fun x => decide (x.1 = dieOf core)))

/-! ### Registers -/

/-- The threads of a 32-bit mask below a bound, ascending. -/
def threadsOf (m : BitVec 32) : List Nat := (List.range 32).filter (fun t => m.getLsbD t)
/-- The lowest thread of a mask. -/
def lowThread (m : BitVec 32) : Nat := (threadsOf m).headD 0
/-- The mask of a list of threads. -/
def maskOf (l : List Nat) : BitVec 32 := l.foldl (fun m t => m ||| (1#32 <<< t)) 0#32

/-- A uniform register. -/
def Crew.u (c : Crew) (n : Nat) : Word := Cells.get 0#32 c.uregs n
/-- A uniform pair, the lower register first (R127). -/
def Crew.u64 (c : Crew) (n : Nat) : DWord := c.u (n + 1) ++ c.u n
/-- A slot of a vector register. -/
def Crew.v (c : Crew) (r slot : Nat) : Word := Cells.get 0#32 c.vregs (32 * r + slot)
/-- A predicate of a slot; p0 reads true (R20). -/
def Crew.p (c : Crew) (p slot : Nat) : Bool :=
  if p = 0 then true else (Cells.get 0#32 c.preds p).getLsbD slot

/-- A source field for a slot: a vector register, a broadcast uniform register, or zero (R19). -/
def Crew.src (c : Crew) (f : BitVec 7) (slot : Nat) : Word :=
  if f = 127#7 then 0#32 else if f.ult 96#7 then c.v f.toNat slot else c.u (f.toNat - 96)
/-- The k-th register of a wider source. -/
def Crew.srcK (c : Crew) (f : BitVec 7) (k slot : Nat) : Word :=
  if f = 127#7 then 0#32 else if f.ult 96#7 then c.v (f.toNat + k) slot else c.u (f.toNat - 96 + k)
/-- A pair source (R19). -/
def Crew.src64 (c : Crew) (f : BitVec 7) (slot : Nat) : DWord := c.srcK f 1 slot ++ c.srcK f 0 slot
/-- A quad source (R19). -/
def Crew.src128 (c : Crew) (f : BitVec 7) (slot : Nat) : BitVec 128 :=
  c.srcK f 3 slot ++ c.srcK f 2 slot ++ c.srcK f 1 slot ++ c.srcK f 0 slot

/-- Writes a slot of register field f + k; a write to vz is discarded (R19), and a crew has no registers beyond its quota
(R128). -/
def Crew.putK (c : Crew) (f : BitVec 7) (k slot : Nat) (w : Word) : Crew :=
  if f.ult 96#7 && decide (32 * (f.toNat + k) + slot < 256 * c.quota) then
    { c with vregs := Cells.set 0#32 c.vregs (32 * (f.toNat + k) + slot) w }
  else c
/-- Writes one register for several slots. -/
def Crew.putV (c : Crew) (f : BitVec 7) (l : List (Nat × Word)) : Crew :=
  l.foldl (fun c p => c.putK f 0 p.1 p.2) c
/-- Writes a pair for several slots. -/
def Crew.putV64 (c : Crew) (f : BitVec 7) (l : List (Nat × DWord)) : Crew :=
  l.foldl (fun c p => (c.putK f 0 p.1 (p.2.extractLsb' 0 32)).putK f 1 p.1 (p.2.extractLsb' 32 32)) c
/-- Writes n registers for several slots from a 128-bit value, low register first. -/
def Crew.putVn (c : Crew) (f : BitVec 7) (n : Nat) (l : List (Nat × BitVec 128)) : Crew :=
  l.foldl (fun c p => (List.range n).foldl (fun c k => c.putK f k p.1 (p.2.extractLsb' (32 * k) 32)) c) c
/-- Writes a uniform register. -/
def Crew.putU (c : Crew) (n : Nat) (w : Word) : Crew := { c with uregs := Cells.set 0#32 c.uregs n w }
/-- Writes a uniform pair. -/
def Crew.putU64 (c : Crew) (n : Nat) (w : DWord) : Crew :=
  (c.putU n (w.extractLsb' 0 32)).putU (n + 1) (w.extractLsb' 32 32)
/-- Writes a predicate for several slots; a write to p0 is discarded (R20). -/
def Crew.putP (c : Crew) (p : Nat) (l : List (Nat × Bool)) : Crew :=
  if p = 0 then c else
    let m := l.foldl (fun m e => if e.2 then m ||| (1#32 <<< e.1) else m &&& ~~~(1#32 <<< e.1))
      (Cells.get 0#32 c.preds p)
    { c with preds := Cells.set 0#32 c.preds p m }
/-- ORs flags into FLAGS (R156). -/
def Crew.orFlags (c : Crew) (f : BitVec 5) : Crew := { c with flags := c.flags ||| f }

/-- How many registers a width takes. -/
def regNum : RegWidth → Nat
  | .one => 1
  | .pair => 2
  | .quad => 4

/-- The registers that a field of R19 names. -/
def fieldRegs (f : BitVec 7) (n : Nat) : List PReg :=
  if f.ult 96#7 then (List.range n).map (fun k => .v (f.toNat + k))
  else if f = 127#7 then []
  else (List.range n).map (fun k => .u (f.toNat - 96 + k))

/-- The registers an operand names; `c` is the field of HINT.C, if there is one. -/
def opndRegs (c : Option (BitVec 7)) : Opnd → List PReg
  | .vd w f => fieldRegs f (regNum w)
  | .vs w f => fieldRegs f (regNum w)
  | .c3 w d => fieldRegs (c.getD d) (regNum w)
  | .creq (some w) => match c with
    | some f => fieldRegs f (regNum w)
    | none => []
  | .creq none => []
  | .ud w f => (List.range (regNum w)).map (fun k => .u (f.toNat + k))
  | .us w f => (List.range (regNum w)).map (fun k => .u (f.toNat + k))
  | .blk n _ f => (List.range n).map (fun k => .u (f.toNat + k))
  | .desc reads f => reads.map (fun k => .u (f.toNat + k))
  | .pd _ => []
  | .ps _ => []
  | .popd => (List.range 8).map (fun k => .u k)

/-- The vector registers an operand reads, and those it writes. -/
def opndReads (c : Option (BitVec 7)) (o : Opnd) : List PReg :=
  match o with
  | .vd _ _ => []
  | _ => opndRegs c o
def opndWrites (o : Opnd) : List PReg :=
  match o with
  | .vd w f => fieldRegs f (regNum w)
  | _ => []
/-- The numbers of the vector registers of a list. -/
def vNums (l : List PReg) : List Nat := l.filterMap (fun r => match r with
  | .v k => some k
  | .u _ => none)

/-- A register is pending in the scoreboard (R134). -/
def Crew.pending (c : Crew) (r : PReg) : Bool := c.pend.any (fun p => decide (p.reg = r))
/-- Marks registers pending for an operation. -/
def Crew.mark (c : Crew) (op : Nat) (rs : List PReg) : Crew :=
  { c with pend := c.pend ++ rs.map (fun r => { reg := r, op := op }) }
/-- An operation no longer holds registers pending. -/
def Crew.unmark (c : Crew) (op : Nat) : Crew := { c with pend := c.pend.filter (fun p => !decide (p.op = op)) }

/-! ### The frontier (R314, R318) -/

/-- The earlier of two raise positions. -/
def minRaise : Option Nat → Option Nat → Option Nat
  | some a, some b => some (min a b)
  | some a, none => some a
  | none, b => b

/-- An entry that may merge: not blocked by SYNC.C and not held. -/
def Entry.loose (e : Entry) : Bool := !e.blocked && decide (e.hold = .free)

/-- Adds an entry to a frontier; an entry at the pc of another loose one merges with it, and waits for what either waits
for (R114, R318).  DESIGN CHOICE (log entry 131): of two YIELDs, or of one part's, the smaller count that is left remains. -/
def joinEntry (l : List Entry) (e : Entry) : List Entry :=
  match findIx (fun x => x.loose && e.loose && decide (x.pc = e.pc)) l with
  | some n => match l[n]? with
    | some x => l.set n { x with
        mask := x.mask ||| e.mask
        prio := if x.prio.ult e.prio then e.prio else x.prio
        age := max x.age e.age
        raised := minRaise x.raised e.raised
        waits := x.waits ++ e.waits
        yield := min x.yield e.yield
        parkWait := minRaise x.parkWait e.parkWait
        mwait := x.mwait.orElse (fun _ => e.mwait)
        popWait := x.popWait.orElse (fun _ => e.popWait) }
    | none => l
  | none => l ++ [e]

/-- The frontier with every merge made and empty entries removed (R318). -/
def settle (l : List Entry) : List Entry :=
  l.foldl (fun acc e => if e.mask = 0#32 then acc else joinEntry acc e) []

/-- The entries that wait for an operation or an invalidation wait for it no more. -/
def Crew.endWait (c : Crew) (id : Nat) : Crew :=
  { c with entries := c.entries.map (fun e => { e with waits := e.waits.filter (fun w => !decide (w = id)) }) }

/-- The entry that holds a thread. -/
def Crew.entryOf (c : Crew) (t : Nat) : Option Entry := c.entries.find? (fun e => e.mask.getLsbD t)

/-- Changes the entry that holds a thread. -/
def Crew.mapEntry (c : Crew) (t : Nat) (f : Entry → Entry) : Crew :=
  { c with entries := c.entries.map (fun e => if e.mask.getLsbD t then f e else e) }

/-- An entry whose YIELD is over. -/
def Entry.awake (e : Entry) : Entry := { e with yield := 0 }
/-- Every YIELD of a crew is over, since none of its entries is ready (R322). -/
def Crew.awake (c : Crew) : Crew := { c with entries := c.entries.map Entry.awake }

/-- Makes every merge. -/
def Crew.settled (c : Crew) : Crew := { c with entries := settle c.entries }

/-- What issuing a group does to its entry's age and raised flag (R318). -/
def Entry.issued (e : Entry) : Entry := { e with age := 0, raised := none, yield := 0, parkWait := none, mwait := none, popWait := none }

/-- The live threads of a crew: those of its entries (R314). -/
def Crew.live (c : Crew) : BitVec 32 := c.entries.foldl (fun m e => m ||| e.mask) 0#32

/-- Hints of a group whose first word is about to issue. -/
def Hints.empty : Hints where
  imm := none
  g := none
  c := none
  rm := none
  sc := none
  dep := none
  count := 0
  twice := false

/-! ### The issue of an instruction -/

/-- What an instruction sees when it issues: its crew and the crew's position, its team and launch, its group, its entry,
the mask of its active threads, the pc of the next word, and a trap of the group that one of a lower cause code would
precede (R361). -/
structure Ctx where
  n      : Nat
  crew   : Crew
  team   : Team
  launch : Launch
  grp    : Group
  ent    : Entry
  act    : BitVec 32
  next   : Word
  late   : Option Trap := none
  deriving DecidableEq, Repr

/-- The width of crew-wide masks: 32, or 16 in a protected launch (R140). -/
def Ctx.W (c : Ctx) : Nat := if c.launch.prot then 16 else 32
/-- The active threads, ascending. -/
def Ctx.threads (c : Ctx) : List Nat := threadsOf c.act
/-- The slots that the active threads compute on: a thread's own, and in a protected launch its shadow slot (R138). -/
def Ctx.slots (c : Ctx) : List Nat :=
  if c.launch.prot then c.threads ++ c.threads.map (· + 16) else c.threads
/-- The thread whose value a slot holds. -/
def Ctx.ownThread (c : Ctx) (slot : Nat) : Nat := if c.launch.prot then slot % 16 else slot
/-- The rounding mode in force: HINT.RM, else RM (R154). -/
def Ctx.rm (c : Ctx) : BitVec 3 := c.grp.hints.rm.getD c.crew.rm
/-- The scope in force: HINT.SC, else device (R29). -/
def Ctx.scope (c : Ctx) : BitVec 3 := c.grp.hints.sc.getD 2#3
/-- The register field of HINT.C, if there is one. -/
def Hints.cField (h : Hints) : Option (BitVec 7) := h.c.map (fun p => p.extractLsb' 0 7)
/-- The third source field: HINT.C's, else the destination (R29). -/
def Ctx.third (c : Ctx) (d : BitVec 7) : BitVec 7 := c.grp.hints.cField.getD d

/-- Every active thread's value, or values, are good, or the lowest whose is not raises a trap (R364). -/
def Ctx.each (c : Ctx) (cause : Nat) (ok : Nat → Bool) : Res Unit :=
  match c.threads.find? (fun t => !(ok t && (!c.launch.prot || ok (t + 16)))) with
  | some t => trapOf cause 0#64 (some t)
  | none => .ok ()

/-- In a protected launch the two members of each active thread agree on a value, or a silent error is detected at the
row of R139's table. -/
def Ctx.agree {α : Type} [DecidableEq α] (c : Ctx) (row : Nat) (f : Nat → α) : Res Unit :=
  if c.launch.prot then
    match c.threads.find? (fun t => !decide (f t = f (t + 16))) with
    | some t => silentError row (some t)
    | none => .ok ()
  else .ok ()

/-- What the issue of an instruction reads of it: its register operands and the hints it takes. -/
structure Form where
  shape : List Opnd
  takes : HintSet
  twice : Option Nat := none
  later : Bool := false
  deriving DecidableEq, Repr

/-- What a protected launch computes twice of an instruction and compares: the row of R139 where the two uniform datapaths,
the two translations of ULD, the two decodes of a descriptor, or the next pcs and priorities are compared, and 0 for what the
table does not list: the operands of the TASK and of the synchronising instructions and the uniform words of MMA.CV (R83,
R138, R139, R199, R240, R320, R332, R354, R369; DEDUCED: log entry 126). -/
def twiceOf (i : Instr) : Option Nat :=
  match i with
  | .uadd _ _ _ _ => some 6
  | .usub _ _ _ _ => some 6
  | .umul _ _ _ => some 6
  | .umad _ _ _ => some 6
  | .uand _ _ _ _ => some 6
  | .uor _ _ _ _ => some 6
  | .uxor _ _ _ _ => some 6
  | .ushl _ _ _ _ => some 6
  | .ushr _ _ _ _ => some 6
  | .usar _ _ _ _ => some 6
  | .ucmpI _ _ _ _ => some 6
  | .ucmpZ _ _ _ _ => some 6
  | .usel _ _ _ _ => some 6
  | .uaddi _ _ _ => some 6
  | .umovi _ _ => some 6
  | .movu _ _ _ => some 6
  | .rdsr _ _ _ => some 6
  | .rslvStat _ _ => some 6
  | .tilestat _ _ => some 6
  | .seal _ => some 6
  | .waitb _ _ => some 6
  | .mwait _ _ => some 6
  | .killg _ _ => some 6
  | .killgL _ _ => some 6
  | .preemptSave _ _ => some 6
  | .preemptRest _ _ => some 6
  | .cpy _ _ => some 4
  | .cpyMc _ _ _ => some 4
  | .cpyOut _ => some 4
  | .cpyCvt _ _ => some 4
  | .cpyCvtOut _ => some 4
  | .xform _ _ => some 4
  | .xformOut _ => some 4
  | .accdrain _ _ _ _ => some 4
  | .accsave _ _ _ => some 4
  | .accload _ _ _ => some 4
  | .wrsr _ _ _ => some 6
  | .wrsrTlbinv _ => some 6
  | .bra _ _ _ _ => some 5
  | .jmp _ _ => some 5
  | .call _ _ => some 5
  | .ret => some 5
  | .brx _ _ => some 5
  | .setprio _ => some 5
  | .syncC _ => some 0
  | .barT _ => some 0
  | .rvinit _ _ => some 0
  | .rvarr _ _ => some 0
  | .rvwait _ _ => some 0
  | .quotaGive _ _ => some 0
  | .quotaTake _ _ => some 0
  | .pop _ _ => some 0
  | .popTry _ _ => some 0
  | .push _ _ => some 0
  | .fin _ => some 0
  | .qstat _ _ => some 0
  | .qctl _ _ => some 0
  | .uld _ _ _ => some 2
  | .mmaCv _ _ _ _ _ _ => some 0
  | _ => none

/-- An instruction that writes its vector destination after its issue: the register file reads the word of a write that is
not full then (R133, R175). -/
def laterOf (i : Instr) : Bool :=
  match i with
  | .ld _ _ _ _ => true
  | .ldv _ _ _ => true
  | .ldc _ _ _ _ => true
  | .ldw _ _ _ _ => true
  | .st _ _ _ _ => true
  | .stv _ _ _ _ => true
  | .stw _ _ _ _ => true
  | .lds _ _ _ => true
  | .sts _ _ _ _ => true
  | .ldRs _ _ _ => true
  | .stRs8 _ _ _ => true
  | .stRs16 _ _ _ => true
  | .stRs32 _ _ _ => true
  | .stRs64 _ _ _ => true
  | .stRs128 _ _ _ => true
  | .atomAdd _ _ _ _ => true
  | .redAdd _ _ _ _ => true
  | .atomMin _ _ _ _ => true
  | .redMin _ _ _ _ => true
  | .atomMax _ _ _ _ => true
  | .redMax _ _ _ _ => true
  | .atomAnd _ _ _ => true
  | .redAnd _ _ _ => true
  | .atomOr _ _ _ => true
  | .redOr _ _ _ => true
  | .atomXor _ _ _ => true
  | .redXor _ _ _ => true
  | .atomExch32 _ _ _ => true
  | .atomExch64 _ _ _ => true
  | .atomCas32 _ _ _ => true
  | .atomCas64 _ _ _ => true
  | .atomfAddS _ _ _ => true
  | .atomfAddD _ _ _ => true
  | .atomfRedS _ _ _ => true
  | .atomfRedD _ _ _ => true
  | .msaddBf _ _ _ => true
  | .msaddH _ _ _ => true
  | .cwr _ _ _ => true
  | .vers _ _ => true
  | .flip _ _ => true
  | .amaxPush _ _ _ => true
  | .ordClose _ _ => true
  | .frsq _ _ _ => true
  | .frcp _ _ _ => true
  | .fexp _ _ _ => true
  | .fexp2 _ _ _ => true
  | .fexp10 _ _ _ => true
  | .fexpm1 _ _ _ => true
  | .flog _ _ _ => true
  | .flog2 _ _ _ => true
  | .flog10 _ _ _ => true
  | .flog1p _ _ _ => true
  | .fsin _ _ _ => true
  | .fcos _ _ _ => true
  | .ftan _ _ _ => true
  | .fsinpi _ _ _ => true
  | .fcospi _ _ _ => true
  | .fatan _ _ _ => true
  | .ftanh _ _ _ => true
  | .ferf _ _ _ => true
  | .fcbrt _ _ _ => true
  | .fatan2 _ _ _ _ => true
  | .fhypot _ _ _ _ => true
  | .fpow _ _ _ => true
  | .fdot2 _ _ _ _ => true
  | .fdot4 _ _ _ _ => true
  | .redux _ _ _ => true
  | .scan _ _ _ => true
  | .scanEx _ _ _ => true
  | _ => false

/-- The form of an instruction. -/
def formOf (i : Instr) : Form := { shape := i.shape, takes := i.takes, twice := twiceOf i, later := laterOf i }

/-- The hint kinds present are kinds the instruction accepts, none twice, at most three, and a required HINT.C stands
(R28, R29). -/
def Hints.fit (h : Hints) (f : Form) : Bool :=
  let k := f.takes
  decide (h.count ≤ 3) && !h.twice && (k.imm || h.imm.isNone) && (k.g || h.g.isNone) && (k.c || h.c.isNone) &&
    (k.rm || h.rm.isNone) && (k.sc || h.sc.isNone) && (k.dep || h.dep.isNone) && (!k.cReq || h.c.isSome)

/-- The payload of HINT.C names a register field that the instruction's third operand allows (R19, R27). -/
def Hints.cOk (h : Hints) (f : Form) : Bool :=
  match h.c with
  | none => true
  | some p => f.shape.all (fun o => match o with
    | .c3 w _ => decide (p.extractLsb' 7 15 = 0#15) && vsOk w (p.extractLsb' 0 7)
    | .creq (some w) => decide (p.extractLsb' 7 15 = 0#15) && vsOk w (p.extractLsb' 0 7)
    | .creq none => decide (p.extractLsb' 10 12 = 0#12)
    | _ => true)

/-- The guard's predicate for a slot (R27): HINT.G's, true without one. -/
def Crew.guard (c : Crew) (g : Option (BitVec 4)) (slot : Nat) : Bool :=
  match g with
  | none => true
  | some p => xor (c.p (p.extractLsb' 0 3).toNat slot) (p.getLsbD 3)

/-- The vector registers that the operands name, with the field of HINT.C. -/
def formRegs (f : Form) (h : Hints) : List PReg := f.shape.flatMap (opndRegs h.cField)

/-- No vector register named is at or above the quota (R128). -/
def inQuota (q : Nat) (rs : List PReg) : Bool :=
  rs.all (fun r => match r with
    | .v n => decide (n < 8 * q)
    | .u _ => true)

/-- The group a crew is issuing: the one it has begun, or none. -/
def State.context (s : State) : Res (Nat × Crew × Team × Launch × Group × Entry) :=
  match s.crews[s.cur]? with
  | none => .error .noCrew
  | some c =>
    match c.group, s.teamOf c.key.team, s.launchOf c.key.team.launch with
    | some g, some t, some l =>
      match c.entryOf g.thread with
      | some e => .ok (s.cur, c, t, l, g, e)
      | none => .error .noCrew
    | _, _, _ => .error .noCrew

/-- What is computed twice comes out different: a detected silent error; the row is free where R139's table has none. -/
def State.twiceTrap (s : State) (row : Nat) : Trap :=
  { cause := 9, info := BitVec.ofNat 64 (if row = 0 then 1 + Config.pick s.free % 7 else row) }

/-- Why a group waits that names a pending register: for the crew's POP, or for another operation (R134, R355). -/
def Crew.pendStop (c : Crew) (rs : List PReg) : Stop :=
  match c.pop with
  | some p => if c.pend.any (fun q => decide (q.op = p.op) && rs.contains q.reg) then .popWait p.op else .wait
  | none => .wait

/-- The checks every instruction passes before it acts: its hints fit (R28, R29), SR is not in force where it may not be
(R29), its registers lie inside the quota (R128), and none of them is pending (R134).  A register word read, or written at
issue in part, that is uncorrectable (R132, R133), members that differ on the guard, and what is computed twice and comes out
different (R139) have high cause codes: they wait in `late` for what the instruction itself checks (R361).  DESIGN CHOICE (log
entry 130): the source words are read also where no thread is active. -/
def prepare (f : Form) (s : State) : Res Ctx := do
  let (n, c, t, l, g, e) ← s.context
  ensure (g.hints.fit f && g.hints.cOk f) invalid
  ensure (!(f.takes.noSr && decide (g.hints.rm.getD c.rm = 5#3))) invalid
  let rs := formRegs f g.hints
  ensure (inQuota c.quota rs) invalid
  if rs.any c.pending then .error (c.pendStop rs)
  else
    let act := e.mask &&& maskOf ((threadsOf e.mask).filter (c.guard g.hints.g))
    let full := decide (act = if l.prot then 0xFFFF#32 else 0xFFFFFFFF#32)
    let reads := vNums (f.shape.flatMap (opndReads g.hints.cField))
    let writes := vNums (f.shape.flatMap opndWrites)
    let word (k : Nat) : Bool := c.vbad.contains k
    let bad := match reads.find? word with
      | some k => some k
      | none => if full || f.later || decide (act = 0#32) then none else writes.find? word
    let c := if full && !f.later then { c with vbad := c.vbad.filter (fun k => !writes.contains k) } else c
    let split (x : Nat) : Bool := c.guard g.hints.g x != c.guard g.hints.g (x + 16)
    let late : Option Trap := match bad with
      | some k => some { cause := 8, info := BitVec.ofNat 64 (2 <<< 60 + k) }
      | none => match (threadsOf e.mask).find? (fun x => l.prot && split x) with
        | some x => some { cause := 9, info := 5#64, thread := some x }
        | none => if l.prot && c.upset then f.twice.map (s.twiceTrap ·) else none
    .ok { n := n, crew := c, team := t, launch := l, grp := g, ent := e, act := act, next := g.pc + 4#32, late := late }

/-- The crew with registers that an instruction writes at issue for its active threads, where its form may also write later: a
write that is not full reads the words first (R132, R133). -/
def Ctx.writeNow (c : Ctx) (rs : List PReg) : Res Crew :=
  if c.act = if c.launch.prot then 0xFFFF#32 else 0xFFFFFFFF#32 then
    .ok { c.crew with vbad := c.crew.vbad.filter (fun k => !(vNums rs).contains k) }
  else match if c.act = 0#32 then none else (vNums rs).find? (fun k => c.crew.vbad.contains k) with
    | some k => trapOf 8 (BitVec.ofNat 64 (2 <<< 60 + k))
    | none => .ok c.crew

/-- The entry of the group moves whole to the next word at its own priority (R318). -/
def Crew.advance (c : Crew) (g : Group) (next : Word) : Crew :=
  { c with
    entries := settle (c.entries.map (fun e =>
      if e.mask.getLsbD g.thread then { e.issued with pc := next } else e))
    group := none
    started := true }

/-- The entry of the group is replaced by entries at other places; they inherit its age and raised flag where `keep`
(a BRA that splits, R318), and are fresh of both otherwise (RET, BRX, EXIT).  A YIELD is over once its entry has issued
(R322). -/
def Crew.split (c : Crew) (g : Group) (keep : Bool) (l : List (BitVec 32 × Word × BitVec 6)) : Crew :=
  { c with
    entries := settle (c.entries.flatMap (fun e =>
      if e.mask.getLsbD g.thread then
        l.map (fun x => { (if keep then { e.issued with age := e.age, raised := e.raised } else e.issued) with
          mask := x.1, pc := x.2.1, prio := x.2.2 })
      else [e]))
    group := none
    started := true }

/-! ### Taking an exception (R360 to R365, R370) -/

/-- The kill of a gang is requested: the first cause is kept, later ones join it (R365), and every crew of the gang stops
issuing at its next boundary (R362). -/
def State.requestKill (s : State) (launch : Word) (gang : Nat) (k : KillInfo) (forever : Bool) : State :=
  let s := s.mapGang launch gang (fun g => { g with
    kill := some (g.kill.getD k)
    again := g.again || (8#8).ule k.cause
    forever := g.forever || forever })
  { s with crews := s.crews.map (fun c =>
      if c.key.team.launch = launch ∧ c.key.team.gang = gang then { c with stopped := true, group := none } else c) }

/-- What R364 reports of a trap that strikes a crew's group. -/
def KillInfo.ofTrap (core : Nat) (k : CrewKey) (pc : Word) (t : Trap) : KillInfo where
  cause := BitVec.ofNat 8 t.cause
  core := BitVec.ofNat 16 core
  pos := BitVec.ofNat 8 k.team.pos
  crew := BitVec.ofNat 8 k.crew
  pc := pc
  info := t.info
  thread := match t.thread with
    | some x => BitVec.ofNat 8 x
    | none => 0xFF#8

/-- A trap detected after issue kills the gang (R361). -/
def State.trapAfter (s : State) (core : Nat) (k : CrewKey) (pc : Word) (t : Trap) : State :=
  s.requestKill k.team.launch k.team.gang (KillInfo.ofTrap core k pc t) false

/-- Writes results to slots of a register field of a crew after issue; a write that is not full reads the word first, and
an uncorrectable word is then consumed (R132, R133). -/
def State.writeLate (s : State) (core : Nat) (k : CrewKey) (pc : Word) (f : BitVec 7) (n : Nat)
    (l : List (Nat × BitVec 128)) : State :=
  match s.crewOf k with
  | none => s
  | some c =>
    let full := (List.range 32).all (fun i => l.any (fun p => decide (p.1 = i)))
    let regs := vNums (fieldRegs f n)
    match if full || l.isEmpty then none else regs.find? (fun r => c.vbad.contains r) with
    | some r => s.trapAfter core k pc { cause := 8, info := BitVec.ofNat 64 (2 <<< 60 + r) }
    | none => s.mapCrew k (fun c =>
        let c := if full then { c with vbad := c.vbad.filter (fun r => !regs.contains r) } else c
        c.putVn f n l)

/-- ECAUSE: the cause, the thread and the TRAP code (R370). -/
def ecauseOf (t : Trap) : Word :=
  0#10 ++ t.code ++ (match t.thread with | some x => BitVec.ofNat 8 x | none => 0xFF#8) ++ BitVec.ofNat 8 t.cause

/-- The crew enters its handler: the trapping entry moves whole to (EVEC, 63), and the saved registers are written; after
TRAP, EPC names the next word (R370). -/
def Crew.enterHandler (c : Crew) (g : Group) (e : Entry) (t : Trap) : Crew :=
  { c.split g false [(e.mask, c.evec, 63#6)] with
    epc := if t.cause = 7 then g.pc + 4#32 else g.first
    eprio := e.prio.setWidth 32
    ecause := ecauseOf t
    einfo := t.info
    evec := 0#32 }

/-- A trap detected at issue strikes the group of a crew: a program-class trap of a crew of the privileged launch with
EVEC armed enters the handler; every other kills the gang (R360, R370). -/
def State.trapCrew (s : State) (n : Nat) (g : Group) (t : Trap) : State :=
  match s.crews[n]? with
  | some c =>
    match s.teamOf c.key.team, s.launchOf c.key.team.launch, c.entryOf g.thread with
    | some tm, some l, some e =>
      if l.priv ∧ c.evec ≠ 0#32 ∧ t.cause ≤ 7 then s.setCrew n (c.enterHandler g e t)
      else s.requestKill c.key.team.launch c.key.team.gang (KillInfo.ofTrap tm.core c.key g.first t) false
    | _, _, _ => s
  | none => s

/-- Taking a trap detected at the issue of the current group. -/
def State.takeTrap (s : State) (t : Trap) : State :=
  match s.context with
  | .ok (n, _, _, _, g, _) => s.trapCrew n g t
  | .error _ => s

/-- A miss joins the walk of its page that its die has not completed, or starts one (R70).  DEDUCED (log entry 98): before
the walk a page is known by its 64 KiB unit. -/
def State.addMiss (s : State) (launch : Word) (m : Miss) : State :=
  let same (w : Walk) : Bool :=
    decide (w.launch = launch) && decide (w.die = dieOf m.core) && decide (w.page = m.va / 65536)
  { s with
    serial := s.serial + 1
    fl := { s.fl with walks :=
      if s.fl.walks.any same then s.fl.walks.map (fun w => if same w then { w with misses := w.misses ++ [m] } else w)
      else s.fl.walks ++ [⟨s.serial, launch, dieOf m.core, m.va / 65536, [m]⟩] } }

/-- A translation miss at issue: a walk starts, and the entry is held at the group's first hint (R71, R31); `th` is the
thread whose access missed, none for an access of the whole crew (R364). -/
def State.startWalk (s : State) (va : Nat) (a : Access) (th : Option Nat) : State :=
  match s.context with
  | .ok (n, c, tm, l, g, _) =>
    let c := { (c.mapEntry g.thread (fun e => { e with hold := .walk })).awake with group := none }
    (s.setCrew n c).addMiss l.id ⟨tm.core, va, a, .crew c.key g.thread g.first, th⟩
  | .error _ => s

/-- The group waits at issue: it issues afresh later, from its first hint (R31). -/
def State.waitGroup (s : State) : State :=
  match s.crews[s.cur]? with
  | some c => { s.setCrew s.cur { c with group := none } with waited := true }
  | none => { s with waited := true }

/-- The group waits for what the crew's POP will write: its entry keeps which POP (R344, R355). -/
def State.waitPop (s : State) (op : Nat) : State :=
  match s.context with
  | .ok (n, c, _, _, g, _) =>
    let c := c.mapEntry g.thread (fun e => { e with popWait := some op })
    { s.setCrew n { c with group := none } with waited := true }
  | .error _ => s

/-- The group waits for park records: its entry keeps the time at which it began to (R174). -/
def State.waitPark (s : State) : State :=
  match s.context with
  | .ok (n, c, _, _, g, _) =>
    let c := c.mapEntry g.thread (fun e => { e with parkWait := some (e.parkWait.getD s.serial) })
    { s.setCrew n { c with group := none } with waited := true, serial := s.serial + 1 }
  | .error _ => s

/-- The group waits on a matrix command: its entry keeps which, and the mask of the first once it has retired, though a later
command holds the same identifier by then (R239; DESIGN CHOICE: log entry 35). -/
def State.waitMatrix (s : State) (cmd : Nat) : State :=
  match s.context with
  | .ok (n, c, _, _, g, _) =>
    let c := c.mapEntry g.thread (fun e => { e with mwait := match e.mwait with
      | some (k, some m) => some (k, some m)
      | _ => some (cmd, none) })
    { s.setCrew n { c with group := none } with waited := true }
  | .error _ => s

/-- A line request that has left for its target. -/
def LReq.new (t : Target) (vline : Nat) (path : ReqPath) (install : Bool) : LReq where
  target := t
  vline := vline
  path := path
  st := .sent
  data := 0#1024
  poison := 0#4
  ver := 0#12
  wrote := false
  flags := 0#5
  tries := 0
  aged := none
  install := install
  refused := false
  time := 0
  point := 0
  kept := false

/-- The operation of a crew that fetches a line of code from another device, by its virtual line (R76). -/
def fetchOp (id : Nat) (c : Crew) (t : Team) (g : Group) (dev line vline : Nat) : MOp where
  id := id
  crew := c.key
  core := t.core
  kind := .fetch
  mask := 0#32
  vdest := none
  udest := none
  rm := 0#3
  scope := 0#3
  pc := g.first
  since := id
  accs := []
  reqs := [LReq.new (.remote dev line) vline .home false]

/-- The group waits for a line of code from another device, which is asked for once (R66, R315). -/
def State.askCode (s : State) (dev line vline : Nat) : State :=
  match s.context with
  | .ok (n, c, t, _, g, _) =>
    let asked := s.fl.ops.any (fun o => decide (o.crew = c.key) && decide (o.kind = .fetch) &&
      o.reqs.any (fun r => decide (r.target = .remote dev line)))
    let s := s.setCrew n { c with group := none }
    if asked then { s with waited := true }
    else { s with
      waited := false
      serial := s.serial + 1
      fl := { s.fl with ops := s.fl.ops ++ [fetchOp s.serial c t g dev line vline] } }
  | .error _ => s

/-- The outcome of an instruction word from what its meaning gives. -/
def finishIssue (s : State) (r : Res State) : Host.Outcome State Fault Refusal :=
  match r with
  | .ok t => .next { t with waited := false }
  | .error .wait => .next s.waitGroup
  | .error (.popWait op) => .next (s.waitPop op)
  | .error .parkWait => .next s.waitPark
  | .error (.matrixWait m) => .next (s.waitMatrix m)
  | .error (.miss va a th) => .next { s.startWalk va a th with waited := false }
  | .error (.trap t) => .next { s.takeTrap t with waited := false }
  | .error (.codeMiss d ln vl) => .next (s.askCode d ln vl)
  | .error (.struck t) => .next { t with waited := false }
  | .error .disabled => .refused .notEnabled
  | .error .noCrew => .fault .noCrew

/-- What a group does that has found a late trap: the trap, unless its own checks found one of a lower cause code (R361). -/
def settleLate {α : Type} (late : Option Trap) (r : Res α) : Res α :=
  match late with
  | none => r
  | some u => match r with
    | .error (.trap t) => .error (.trap (if t.cause < u.cause then t else u))
    | .error (.struck t) => .error (.struck t)
    | _ => .error (.trap u)

/-- An instruction word of a form: its checks, its effect, and then its outcome. -/
def issueF (f : Form) (body : Ctx → State → Res State) (s : State) : Host.Outcome State Fault Refusal :=
  finishIssue s (do
    let c ← prepare f s
    settleLate c.late (body c (s.setCrew c.n c.crew)))

/-- An instruction word. -/
def issue (i : Instr) (body : Ctx → State → Res State) (s : State) : Host.Outcome State Fault Refusal :=
  issueF (formOf i) body s

/-- An instruction whose effect lies in its own crew, and which then goes on to the next word. -/
def issueCrew (i : Instr) (body : Ctx → Res Crew) (s : State) : Host.Outcome State Fault Refusal :=
  issue i (fun c s => do
    let cr ← body c
    .ok (s.setCrew c.n (cr.advance c.grp c.next))) s

/-- A step of the machine outside any instruction word. -/
def event (body : State → Res State) (s : State) : Host.Outcome State Fault Refusal :=
  match body s with
  | .ok t => .next t
  | .error _ => .refused .notEnabled

/-- The crew after an instruction's own changes goes on to the next word. -/
def Ctx.go (c : Ctx) (s : State) (f : Crew → Crew) : State :=
  match s.crews[c.n]? with
  | some cr => s.setCrew c.n ((f cr).advance c.grp c.next)
  | none => s

end Sys2Proof.Machine
end

