-- ==== Sys2Proof/Machine/Flags.lean ====
section
/-!
DEFINITION. Number formats (R146 to R149), rounding and the exception flags (R154 to R156), stochastic rounding (R157,
R158), exact sums (R201) and conversions (R159).
-/

namespace Sys2Proof.Machine

/-! ### Flags (R156) -/

def flInvalid : BitVec 5 := 1#5
def flDivzero : BitVec 5 := 2#5
def flOverflow : BitVec 5 := 4#5
def flUnderflow : BitVec 5 := 8#5
def flInexact : BitVec 5 := 16#5

/-- The union of flags. -/
def orAll (l : List (BitVec 5)) : BitVec 5 := l.foldl (· ||| ·) 0#5

/-! ### Formats (R146) -/

/-- How a format spends its all-ones exponent: infinities and NaNs, only the NaN codes of E4M3, or neither. -/
inductive NanKind where
  | ieee | e4m3 | none
  deriving DecidableEq, Repr

/-- A binary floating-point format: exponent and mantissa bits, bias, and its special codes. -/
structure Fmt where
  eb   : Nat
  mb   : Nat
  bias : Nat
  kind : NanKind
  deriving DecidableEq, Repr

def fp64 : Fmt := ⟨11, 52, 1023, .ieee⟩
def fp32 : Fmt := ⟨8, 23, 127, .ieee⟩
def fp16 : Fmt := ⟨5, 10, 15, .ieee⟩
def bf16 : Fmt := ⟨8, 7, 127, .ieee⟩
def e4m3 : Fmt := ⟨4, 3, 7, .e4m3⟩
def e5m2 : Fmt := ⟨5, 2, 15, .ieee⟩
def e3m2 : Fmt := ⟨3, 2, 3, .none⟩
def e2m3 : Fmt := ⟨2, 3, 1, .none⟩
def e2m1 : Fmt := ⟨2, 1, 1, .none⟩

/-- Bits of a value. -/
def Fmt.width (f : Fmt) : Nat := 1 + f.eb + f.mb
/-- The exponent of the smallest normal. -/
def Fmt.emin (f : Fmt) : Int := 1 - (f.bias : Int)
/-- The magnitude code of the largest finite value. -/
def Fmt.maxCode (f : Fmt) : Nat :=
  match f.kind with
  | .ieee => ((2 ^ f.eb - 1) <<< f.mb) - 1
  | .e4m3 => 2 ^ (f.eb + f.mb) - 2
  | .none => 2 ^ (f.eb + f.mb) - 1
/-- The code of infinity. -/
def Fmt.infCode (f : Fmt) : Nat := (2 ^ f.eb - 1) <<< f.mb
def Fmt.hasInf (f : Fmt) : Bool := decide (f.kind = .ieee)
def Fmt.hasNan (f : Fmt) : Bool := decide (f.kind ≠ .none)
/-- The canonical NaN (R147). -/
def Fmt.nan (f : Fmt) : Nat :=
  match f.kind with
  | .ieee => ((2 ^ f.eb - 1) <<< f.mb) + 2 ^ (f.mb - 1)
  | .e4m3 => 2 ^ (f.eb + f.mb) - 1
  | .none => 0
/-- A code with a sign. -/
def Fmt.signed (f : Fmt) (neg : Bool) (code : Nat) : Nat := if neg then code + 2 ^ (f.eb + f.mb) else code

/-- A value read from bits: a NaN, quiet or signalling, an infinity, or (-1)^neg * m * 2^e. -/
inductive Num where
  | nan (sig : Bool)
  | inf (neg : Bool)
  | fin (neg : Bool) (m : Nat) (e : Int)
  deriving DecidableEq, Repr

/-- The value of the low bits of a register in a format (R146, R147). -/
def Fmt.read (f : Fmt) (bits : Nat) : Num :=
  let x := bits % 2 ^ f.width
  let neg := decide (2 ^ (f.eb + f.mb) ≤ x)
  let c := x % 2 ^ (f.eb + f.mb)
  let ex := c >>> f.mb
  let mt := c % 2 ^ f.mb
  if f.kind = .ieee ∧ ex = 2 ^ f.eb - 1 then
    if mt = 0 then .inf neg else .nan (decide (mt < 2 ^ (f.mb - 1)))
  else if f.kind = .e4m3 ∧ c = 2 ^ (f.eb + f.mb) - 1 then .nan false
  else if ex = 0 then .fin neg mt (f.emin - f.mb)
  else .fin neg (2 ^ f.mb + mt) ((ex : Int) - f.bias - f.mb)

def Num.isNan : Num → Bool
  | .nan _ => true
  | _ => false
def Num.isSig : Num → Bool
  | .nan s => s
  | _ => false
def Num.isInf : Num → Bool
  | .inf _ => true
  | _ => false
def Num.isZero : Num → Bool
  | .fin _ m _ => decide (m = 0)
  | _ => false
/-- The sign bit. -/
def Num.neg : Num → Bool
  | .nan _ => false
  | .inf s => s
  | .fin s _ _ => s
/-- The value with the sign given. -/
def Num.withSign (x : Num) (s : Bool) : Num :=
  match x with
  | .nan g => .nan g
  | .inf _ => .inf s
  | .fin _ m e => .fin s m e

/-- The number of bits of a Nat. -/
def bitLen (m : Nat) : Nat := if m = 0 then 0 else m.log2 + 1

/-! ### Rounding (R155, R157) -/

/-- A real number to round: (-1)^neg times m * 2^e, or, with `sticky`, a number strictly between m * 2^e and
(m + 1) * 2^e. -/
structure Mag where
  neg    : Bool
  m      : Nat
  e      : Int
  sticky : Bool
  deriving DecidableEq, Repr

/-- The magnitude is rounded to a multiple of 2^q: the multiple below, whether the next one up is chosen, and whether the
value lies between them.  `r` is the mixing word of SR. -/
def roundAt (rm : BitVec 3) (r : Word) (x : Mag) (q : Int) : Nat × Bool × Bool :=
  if q ≤ x.e then
    let n := x.m <<< (x.e - q).toNat
    let up := x.sticky && ((rm == 2#3 && !x.neg) || (rm == 3#3 && x.neg))
    (n, up, x.sticky)
  else
    let sh := min (q - x.e).toNat (bitLen x.m + 40)
    let n := x.m >>> sh
    let rem := x.m % 2 ^ sh
    let half := 2 ^ (sh - 1)
    let inexact := decide (rem ≠ 0) || x.sticky
    let above := decide (half < rem) || (decide (rem = half) && x.sticky)
    let tie := decide (rem = half) && !x.sticky
    let up := match rm.toNat with
      | 0 => above || (tie && n % 2 == 1)
      | 1 => false
      | 2 => inexact && !x.neg
      | 3 => inexact && x.neg
      | 4 => above || tie
      | _ =>
        if !inexact then false
        else if x.neg then decide ((2 ^ sh - rem) * 2 ^ 32 ≤ r.toNat * 2 ^ sh)
        else if x.sticky then decide (r.toNat * 2 ^ sh ≤ rem * 2 ^ 32)
        else decide (r.toNat * 2 ^ sh < rem * 2 ^ 32)
    (n, up, inexact)

/-- The exponent of the leading bit of a nonzero magnitude. -/
def Mag.lead (x : Mag) : Int := x.e + (bitLen x.m : Int) - 1

/-- The magnitude code of n * 2^q, on the grid that continues past the largest finite value. -/
def Fmt.code (f : Fmt) (n : Nat) (q : Int) : Nat :=
  if n < 2 ^ f.mb then n
  else if n = 2 ^ (f.mb + 1) then ((q + 1 + f.mb + f.bias).toNat) <<< f.mb
  else ((q + f.mb + f.bias).toNat <<< f.mb) + (n - 2 ^ f.mb)

/-- round(x, fmt, rm) and its flags (R155, R156); a zero keeps its sign. -/
def Fmt.round (f : Fmt) (rm : BitVec 3) (r : Word) (x : Mag) : Nat × BitVec 5 :=
  if x.m = 0 then (f.signed x.neg 0, 0#5)
  else
    let lead := x.lead
    let qMin := f.emin - f.mb
    let q := if lead - f.mb < qMin then qMin else lead - f.mb
    let (n, up, inexact) := roundAt rm r x q
    let code := f.code (if up then n + 1 else n) q
    if f.maxCode < code then
      let toMax := match rm.toNat with
        | 1 => true
        | 2 => x.neg
        | 3 => !x.neg
        | _ => false
      let c := if f.hasInf && !toMax then f.infCode else f.maxCode
      (f.signed x.neg c, flOverflow ||| flInexact)
    else
      let (n', up', _) := roundAt rm r x (lead - f.mb)
      let tiny := decide (lead < f.emin) && !(decide (lead + 1 = f.emin) && up' && decide (n' + 1 = 2 ^ (f.mb + 1)))
      (f.signed x.neg code, (if inexact then flInexact else 0#5) ||| (if tiny && inexact then flUnderflow else 0#5))

/-- A finite value as a number to round. -/
def magOf (neg : Bool) (m : Nat) (e : Int) : Mag := ⟨neg, m, e, false⟩

/-- The bits of an infinity. -/
def Fmt.inf (f : Fmt) (neg : Bool) : Nat := f.signed neg f.infCode
/-- The bits of a zero. -/
def Fmt.zero (f : Fmt) (neg : Bool) : Nat := f.signed neg 0
/-- Invalid where one of the values is a signalling NaN (R147, R200). -/
def sigFlag (l : List Num) : BitVec 5 := if l.any Num.isSig then flInvalid else 0#5

/-! ### Exact sums (R201, R210) -/

/-- A finite addend: (-1)^neg * m * 2^e. -/
structure Dy where
  neg : Bool
  m   : Nat
  e   : Int
  deriving DecidableEq, Repr

/-- The smallest exponent of the nonzero addends. -/
def minExp (l : List Dy) : Int :=
  (l.filter (fun d => decide (d.m ≠ 0))).foldl (fun (acc : Option Int) d => match acc with
    | none => some d.e
    | some a => some (if d.e < a then d.e else a)) none |>.getD 0

/-- The exact sum of finite addends, with the sign of an exact zero by R201. -/
def sumDy (rm : BitVec 3) (l : List Dy) : Mag :=
  let e := minExp l
  let t : Int := l.foldl (fun acc d =>
    let v : Int := ((d.m <<< (d.e - e).toNat : Nat) : Int)
    if d.neg then acc - v else acc + v) 0
  if t = 0 then
    let allNeg := l.all (fun d => d.neg && decide (d.m = 0))
    ⟨!l.isEmpty && (allNeg || rm == 3#3), 0, 0, false⟩
  else ⟨decide (t < 0), t.natAbs, e, false⟩

/-- The sum of the magnitudes of addends, as m * 2^e. -/
def sumAbs (l : List Dy) : Nat × Int :=
  let e := minExp l
  (l.foldl (fun acc d => acc + (d.m <<< (d.e - e).toNat)) 0, e)

/-- The exponent of the lowest set bit of a nonzero number (fuel: its length). -/
def lowBit : Nat → Nat → Int → Int
  | 0, _, e => e
  | fuel + 1, m, e => if m % 2 = 1 then e else lowBit fuel (m / 2) (e + 1)

/-- No addend falls outside the fast adder (R210). -/
def adderHolds (l : List Dy) : Bool :=
  let nz := l.filter (fun d => decide (d.m ≠ 0))
  let top := nz.foldl (fun (acc : Option Int) d =>
    let h := d.e + (bitLen d.m : Int) - 1
    match acc with
    | none => some h
    | some a => some (if a < h then h else a)) none
  match top with
  | none => true
  | some t => nz.all (fun d => decide (t - 120 ≤ lowBit (bitLen d.m) d.m d.e))

/-! ### The mixing function (R158) -/

/-- Rotation to the left. -/
def rotl (x : DWord) (k : Nat) : DWord := x.rotateLeft k

/-- One round. -/
def mixRound (p : DWord × DWord) (k : Nat) : DWord × DWord :=
  let x := p.1 + p.2
  let y := rotl p.2 k ^^^ x
  (rotl x 32, y)

/-- mix(seed, key, ctr) (R158). -/
def mix (seed key ctr : DWord) : DWord :=
  let p := [13, 29, 41, 17].foldl mixRound (seed ^^^ key, ctr ^^^ 0x6A09E667F3BCC909#64)
  p.1 ^^^ p.2

/-- Bits [31:0] of a mixing value. -/
def mixLow (seed key ctr : DWord) : Word := (mix seed key ctr).setWidth 32

/-! ### Conversions (R159) -/

/-- Conversion of a value to a floating-point format (R159). -/
def convFloat (f : Fmt) (rm : BitVec 3) (r : Word) (x : Num) : Nat × BitVec 5 :=
  match x with
  | .nan sig =>
    if f.hasNan then (f.nan, if sig then flInvalid else 0#5) else (0, flInvalid)
  | .inf neg => if f.hasInf then (f.inf neg, 0#5) else (f.signed neg f.maxCode, flInvalid)
  | .fin neg m e => f.round rm r (magOf neg m e)

/-- The bounds of an integer format of w bits. -/
def intMin (signed : Bool) (w : Nat) : Int := if signed then -(2 ^ (w - 1) : Nat) else 0
def intMax (signed : Bool) (w : Nat) : Int := if signed then (2 ^ (w - 1) : Nat) - 1 else (2 ^ w : Nat) - 1

/-- Conversion of a value to an integer format (R159). -/
def convInt (signed : Bool) (w : Nat) (rm : BitVec 3) (r : Word) (x : Num) : Int × BitVec 5 :=
  match x with
  | .nan _ => (0, flInvalid)
  | .inf neg => (if neg then intMin signed w else intMax signed w, flInvalid)
  | .fin neg m e =>
    if m = 0 then (0, 0#5)
    else
      let (n, up, inexact) := roundAt rm r (magOf neg m e) 0
      let v : Int := if up then n + 1 else n
      let v := if neg then -v else v
      if v < intMin signed w then (intMin signed w, flInvalid)
      else if intMax signed w < v then (intMax signed w, flInvalid)
      else (v, if inexact then flInexact else 0#5)

/-- An integer value as a number. -/
def numOfInt (v : Int) : Num := .fin (decide (v < 0)) v.natAbs 0

end Sys2Proof.Machine
end

