-- ==== Sys2Proof/Machine/Real.lean ====
section
/-!
DEFINITION. The exact values of the functions of R205 to R208, as numbers to round: each is enclosed in fixed-point
arithmetic of growing precision until 200 significant bits are certain, which decides every rounding.  Every value that
is a dyadic number of few bits is found exactly first.
-/

namespace Sys2Proof.Machine

/-! ### Integer roots -/

/-- Newton's iteration from above for the square root, rounded down. -/
def newtonSqrt (n : Nat) : Nat → Nat → Nat
  | 0, x => x
  | fuel + 1, x => let y := (x + n / x) / 2; if y < x then newtonSqrt n fuel y else x

/-- The square root rounded down. -/
def isqrt (n : Nat) : Nat := if n = 0 then 0 else newtonSqrt n (bitLen n + 8) (2 ^ ((bitLen n + 1) / 2))

/-- Newton's iteration from above for the cube root, rounded down. -/
def newtonCbrt (n : Nat) : Nat → Nat → Nat
  | 0, x => x
  | fuel + 1, x => let y := (2 * x + n / (x * x)) / 3; if y < x then newtonCbrt n fuel y else x

/-- The cube root rounded down. -/
def icbrt (n : Nat) : Nat := if n = 0 then 0 else newtonCbrt n (bitLen n + 8) (2 ^ ((bitLen n + 2) / 3))

/-! ### Algebraic values -/

/-- a / b for positive a, b, with 260 bits of quotient. -/
def quotMag (neg : Bool) (ma : Nat) (ea : Int) (mb : Nat) (eb : Int) : Mag :=
  let k := 260 + bitLen mb - bitLen ma
  let n := ma <<< k
  ⟨neg, n / mb, ea - eb - k, decide (n % mb ≠ 0)⟩

/-- The square root of m * 2^e. -/
def sqrtMag (m : Nat) (e : Int) : Mag :=
  let k := 520 - bitLen m
  let k := if (e - k) % 2 = 0 then k else k + 1
  let n := m <<< k
  let r := isqrt n
  ⟨false, r, (e - k) / 2, decide (r * r ≠ n)⟩

/-- 1 / sqrt(m * 2^e). -/
def rsqrtMag (m : Nat) (e : Int) : Mag :=
  let m' := if e % 2 = 0 then m else 2 * m
  let e' := if e % 2 = 0 then e else e - 1
  let k := 260 + bitLen m'
  let n := 2 ^ (2 * k)
  let r := isqrt (n / m')
  ⟨false, r, -(e' / 2) - k, decide (r * r * m' ≠ n)⟩

/-- The cube root of (-1)^neg * m * 2^e. -/
def cbrtMag (neg : Bool) (m : Nat) (e : Int) : Mag :=
  let k := 780 - bitLen m
  let k := k + ((e - k) % 3).toNat
  let n := m <<< k
  let r := icbrt n
  ⟨neg, r, (e - k) / 3, decide (r * r * r ≠ n)⟩

/-! ### Series in fixed point of W fraction bits -/

/-- The sum of t / (n^(2j) * (2j + 1)) from j on, with alternating signs if `alt`: positive and negative parts. -/
def invSeries (n : Nat) (alt : Bool) : Nat → Nat → Nat → Nat × Nat → Nat × Nat
  | 0, _, _, acc => acc
  | fuel + 1, t, j, acc =>
    if t = 0 then acc
    else
      let v := t / (2 * j + 1)
      let acc := if alt && j % 2 == 1 then (acc.1, acc.2 + v) else (acc.1 + v, acc.2)
      invSeries n alt fuel (t / (n * n)) (j + 1) acc

/-- atanh(1/n) and atan(1/n). -/
def atanhInv (w n : Nat) : Nat := (invSeries n false w (2 ^ w / n) 0 (0, 0)).1
def atanInv (w n : Nat) : Nat := let p := invSeries n true w (2 ^ w / n) 0 (0, 0); p.1 - p.2

def ln2Fix (w : Nat) : Nat := 2 * atanhInv w 3
def ln10Fix (w : Nat) : Nat := 3 * ln2Fix w + 2 * atanhInv w 9
def piFix (w : Nat) : Nat := 16 * atanInv w 5 - 4 * atanInv w 239

/-- The sum of t * z2^j / (2j + 1), as `invSeries`. -/
def oddSeries (w z2 : Nat) (alt : Bool) : Nat → Nat → Nat → Nat × Nat → Nat × Nat
  | 0, _, _, acc => acc
  | fuel + 1, t, j, acc =>
    if t = 0 then acc
    else
      let v := t / (2 * j + 1)
      let acc := if alt && j % 2 == 1 then (acc.1, acc.2 + v) else (acc.1 + v, acc.2)
      oddSeries w z2 alt fuel ((t * z2) >>> w) (j + 1) acc

/-- atanh z and atan z for small z. -/
def atanhFix (w z : Nat) : Nat := (oddSeries w ((z * z) >>> w) false w z 0 (0, 0)).1
def atanSmall (w z : Nat) : Nat := let p := oddSeries w ((z * z) >>> w) true w z 0 (0, 0); p.1 - p.2

/-- The sum of r^j / j! from j on. -/
def expSeries (w r : Nat) : Nat → Nat → Nat → Nat → Nat
  | 0, _, _, acc => acc
  | fuel + 1, t, j, acc => if t = 0 then acc else expSeries w r fuel (((t * r) >>> w) / (j + 1)) (j + 1) (acc + t)

/-- Squares a fixed-point number k times. -/
def squareFix (w : Nat) : Nat → Nat → Nat
  | 0, v => v
  | k + 1, v => squareFix w k ((v * v) >>> w)

/-- e^r for 0 <= r < 1. -/
def expFrac (w r : Nat) : Nat := squareFix w 8 (expSeries w (r >>> 8) w (2 ^ w) 0 0)

/-- e^y as (k, v), for y in fixed point of u fraction bits: v * 2^(k - w) with v between 2^w and 2^(w + 1). -/
def expAt (w u : Nat) (y : Int) : Int × Nat :=
  let l : Int := (ln2Fix u : Nat)
  let k := Int.fdiv y l
  (k, expFrac w ((y - k * l) >>> (u - w)).toNat)

/-- e^y for y in fixed point of w fraction bits. -/
def expFix (w : Nat) (y : Int) : Int × Nat := expAt w w y

/-- The alternating sum of t * r2^j / ((first + 2j)!/first!), as `invSeries`. -/
def trigSeries (w r2 first : Nat) : Nat → Nat → Nat → Nat × Nat → Nat × Nat
  | 0, _, _, acc => acc
  | fuel + 1, t, j, acc =>
    if t = 0 then acc
    else
      let acc := if j % 2 == 1 then (acc.1, acc.2 + t) else (acc.1 + t, acc.2)
      let d := first + 2 * j
      trigSeries w r2 first fuel (((t * r2) >>> w) / ((d + 1) * (d + 2))) (j + 1) acc

def sinFix (w r : Nat) : Nat := let p := trigSeries w ((r * r) >>> w) 1 w r 0 (0, 0); p.1 - p.2
def cosFix (w r : Nat) : Nat := let p := trigSeries w ((r * r) >>> w) 0 w (2 ^ w) 0 (0, 0); p.1 - p.2

/-! ### Enclosures -/

/-- An enclosure: the value lies strictly between lo * 2^e and hi * 2^e. -/
structure Enc where
  lo : Int
  hi : Int
  e  : Int
  deriving DecidableEq, Repr

/-- v with an error below 2^48 units of 2^-w. -/
def encAt (w : Nat) (v : Int) : Enc := ⟨v - 2 ^ 48, v + 2 ^ 48, -(w : Int)⟩

/-- 200 bits that an enclosure makes certain. -/
def Enc.decide (x : Enc) : Option Mag :=
  let neg := Decidable.decide (x.hi ≤ 0)
  if x.lo < 0 ∧ 0 < x.hi then none
  else
    let a := if neg then x.hi.natAbs else x.lo.natAbs
    let b := if neg then x.lo.natAbs else x.hi.natAbs
    let n := bitLen a
    if n < 200 then none
    else
      let sh := n - 200
      let c := a >>> sh
      if b ≤ (c + 1) <<< sh then some ⟨neg, c, x.e + sh, true⟩ else none

/-- The only number of 200 bits, or zero, that lies inside an enclosure of less than two units of the 200th bit. -/
def Enc.point (x : Enc) : Mag :=
  if x.lo < 0 ∧ 0 < x.hi then ⟨false, 0, 0, false⟩
  else
    let neg := Decidable.decide (x.hi ≤ 0)
    let a := if neg then x.hi.natAbs else x.lo.natAbs
    let sh := bitLen a - 200
    ⟨neg, (a >>> sh) + 1, x.e + sh, false⟩

/-- The exact value of a function: known outright, or enclosed as closely as a precision asks. -/
inductive Value where
  | known (x : Mag)
  | enclosed (f : Nat → Option Enc)

/-- The precisions tried first. -/
def precisions : List Nat := [320, 640, 1280, 2560, 5120, 10240, 20480]

/-- The first precision of a list that decides. -/
def ziv (f : Nat → Option Enc) : List Nat → Option Mag
  | [] => none
  | w :: r => match (f w).bind Enc.decide with
    | some m => some m
    | none => ziv f r

/-- The first precision that decides, of w and all its doublings: a search without a last one (log entry 21). -/
def zivOn (f : Nat → Option Enc) (w : Nat) : Option Mag :=
  match (f w).bind Enc.decide with
  | some m => some m
  | none => zivOn f (2 * w)
partial_fixpoint

/-- The number to round (R1).  The enclosures of a number close in on it, so that one at which no precision decides is a
number of 200 bits, and every enclosure holds it (log entry 21). -/
def Value.mag : Value → Mag
  | .known x => x
  | .enclosed f =>
    match ziv f precisions with
    | some m => m
    | none =>
      match zivOn f 40960 with
      | some m => m
      | none => ((f 20480).getD ⟨0, 0, 0⟩).point

/-- A number strictly between 1 - 2^-200 and 1. -/
def nearOne (neg : Bool) : Mag := ⟨neg, 2 ^ 200 - 1, -200, true⟩
/-- m * 2^e in fixed point, rounded down. -/
def toFix (w m : Nat) (e : Int) : Nat :=
  let s := e + w
  if 0 ≤ s then m <<< s.toNat else m >>> min (-s).toNat (bitLen m)

/-- A signed number in fixed point. -/
def toFixS (w : Nat) (neg : Bool) (m : Nat) (e : Int) : Int :=
  if neg then -((toFix w m e : Nat) : Int) else (toFix w m e : Nat)

/-- The exponent of the leading bit of m * 2^e. -/
def leadOf (m : Nat) (e : Int) : Int := e + (bitLen m : Int) - 1

/-! ### Exponentials -/

/-- v * 2^k at w bits as an enclosure. -/
def encExp (w : Nat) (p : Int × Nat) : Enc := ⟨(p.2 : Int) - 2 ^ 48, (p.2 : Int) + 2 ^ 48, p.1 - w⟩

/-- e^(c x) for finite x ≠ 0, however large, and a constant c that is given to any precision. -/
def expOf (c : Nat → Nat) (neg : Bool) (m : Nat) (e : Int) : Value :=
  .enclosed (fun w =>
    let u := w + 24 + (leadOf m e).toNat
    some (encExp w (expAt w u ((toFixS u neg m e * (c u : Nat)) >>> u))))

/-- e^x, 2^x and 10^x for finite x ≠ 0 that give no dyadic result of few bits. -/
def expMag (neg : Bool) (m : Nat) (e : Int) : Value := expOf (fun u => 2 ^ u) neg m e
def exp2Mag (neg : Bool) (m : Nat) (e : Int) : Value := expOf ln2Fix neg m e
def exp10Mag (neg : Bool) (m : Nat) (e : Int) : Value := expOf ln10Fix neg m e

/-- e^x - 1; from x = 2^14 on it has the leading bits of e^x. -/
def expm1Mag (neg : Bool) (m : Nat) (e : Int) : Value :=
  if 14 ≤ leadOf m e then (if neg then .known (nearOne true) else expMag false m e)
  else if neg ∧ 8 ≤ leadOf m e then .known (nearOne true)
  else .enclosed (fun w =>
    let (k, v) := expFix w (toFixS w neg m e)
    let one : Int := (2 ^ w : Nat)
    if 0 ≤ k then
      let err : Int := (2 ^ (48 + k.toNat) : Nat)
      let x : Int := ((v <<< k.toNat : Nat) : Int) - one
      some ⟨x - err, x + err, -(w : Int)⟩
    else
      let x : Int := ((v >>> (-k).toNat : Nat) : Int) - one
      some (encAt w x))

/-! ### Logarithms -/

/-- ln(m * 2^e). -/
def lnFix (w m : Nat) (e : Int) : Int :=
  let b := bitLen m - 1
  let high := decide (3 * 2 ^ b ≤ 2 * m)
  let b := if high then b + 1 else b
  let k := e + b
  let d := 2 ^ b
  let z := ((if m < d then d - m else m - d) <<< w) / (m + d)
  let l : Int := (2 * atanhFix w z : Nat)
  k * (ln2Fix w : Nat) + (if m < d then -l else l)

def lnMag (m : Nat) (e : Int) : Value := .enclosed (fun w => some (encAt w (lnFix w m e)))
def log2Mag (m : Nat) (e : Int) : Value :=
  .enclosed (fun w => some (encAt w (Int.fdiv (lnFix w m e * (2 ^ w : Nat)) (ln2Fix w : Nat))))
def log10Mag (m : Nat) (e : Int) : Value :=
  .enclosed (fun w => some (encAt w (Int.fdiv (lnFix w m e * (2 ^ w : Nat)) (ln10Fix w : Nat))))

/-- 1 + x exactly, for x > -1. -/
def onePlus (neg : Bool) (m : Nat) (e : Int) : Nat × Int :=
  if 0 ≤ e then ((m <<< e.toNat) + 1, 0)
  else
    let d := 2 ^ (-e).toNat
    (if neg then d - m else d + m, e)

def log1pMag (neg : Bool) (m : Nat) (e : Int) : Value :=
  let (n, x) := onePlus neg m e
  lnMag n x

/-! ### Trigonometric functions -/

/-- The quadrant of a positive angle and the rest. -/
def reduceAngle (w m : Nat) (e : Int) : Nat × Nat :=
  let w' := w + 16 + (if 0 < leadOf m e then (leadOf m e).toNat else 0)
  let half := piFix w' / 2
  let x := toFix w' m e
  (x / half, (x % half) >>> (w' - w))

/-- Quadrant and rest of pi * x, for positive x below 2^60 in fraction. -/
def reducePi (w m : Nat) (e : Int) : Nat × Nat :=
  let x := toFix w m e
  let h := 2 ^ (w - 1)
  (x / h, ((x % h) * piFix w) >>> w)

def sinOf (w : Nat) (q : Nat × Nat) : Int :=
  match q.1 % 4 with
  | 0 => (sinFix w q.2 : Nat)
  | 1 => (cosFix w q.2 : Nat)
  | 2 => -((sinFix w q.2 : Nat) : Int)
  | _ => -((cosFix w q.2 : Nat) : Int)
def cosOf (w : Nat) (q : Nat × Nat) : Int := sinOf w (q.1 + 1, q.2)

def negIf (neg : Bool) (v : Int) : Int := if neg then -v else v

def sinMag (neg : Bool) (m : Nat) (e : Int) : Value :=
  .enclosed (fun w => some (encAt w (negIf neg (sinOf w (reduceAngle w m e)))))
def cosMag (m : Nat) (e : Int) : Value :=
  .enclosed (fun w => some (encAt w (cosOf w (reduceAngle w m e))))
def sinpiMag (neg : Bool) (m : Nat) (e : Int) : Value :=
  .enclosed (fun w => some (encAt w (negIf neg (sinOf w (reducePi w m e)))))
def cospiMag (m : Nat) (e : Int) : Value :=
  .enclosed (fun w => some (encAt w (cosOf w (reducePi w m e))))

/-- An enclosure of a quotient of two values of known error, the divisor away from zero. -/
def quotEnc (w : Nat) (neg : Bool) (a b : Nat) : Option Enc :=
  let er := 2 ^ 48
  if b ≤ er then none
  else
    let lo : Int := (((a - er) <<< w) / (b + er) : Nat)
    let hi : Int := (((a + er) <<< w) / (b - er) + 1 : Nat)
    some (if neg then ⟨-hi, -lo, -(w : Int)⟩ else ⟨lo, hi, -(w : Int)⟩)

def tanMag (neg : Bool) (m : Nat) (e : Int) : Value :=
  .enclosed (fun w =>
    let q := reduceAngle w m e
    let s := sinOf w q
    let c := cosOf w q
    quotEnc w (xor neg (xor (decide (s < 0)) (decide (c < 0)))) s.natAbs c.natAbs)

/-! ### Inverse tangents -/

/-- atan(num / den) for positive num, den. -/
def atanFix (w num den : Nat) : Int :=
  let core (n d : Nat) : Int :=
    let z := (n <<< w) / d
    let one := 2 ^ w
    if 4 * z < one then (atanSmall w z : Nat)
    else
      let t : Int := (2 * z : Nat) - (one : Nat)
      let x := (t.natAbs <<< w) / (2 * one + z)
      (atanInv w 2 : Nat) + negIf (decide (t < 0)) (atanSmall w x : Nat)
  if den < num then (piFix w / 2 : Nat) - core den num else core num den

/-- A ratio of two dyadic numbers as integers. -/
def ratio (ma : Nat) (ea : Int) (mb : Nat) (eb : Int) : Nat × Nat :=
  if eb ≤ ea then (ma <<< (ea - eb).toNat, mb) else (ma, mb <<< (eb - ea).toNat)

def atanMag (neg : Bool) (m : Nat) (e : Int) : Value :=
  let (n, d) := ratio m e 1 0
  .enclosed (fun w => some (encAt w (negIf neg (atanFix w n d))))

/-- arctan of y / x in the quadrant of (x, y), both nonzero. -/
def atan2Mag (ny : Bool) (my : Nat) (ey : Int) (nx : Bool) (mx : Nat) (ex : Int) : Value :=
  let (n, d) := ratio my ey mx ex
  .enclosed (fun w =>
    let t := atanFix w n d
    some (encAt w (negIf ny (if nx then (piFix w : Nat) - t else t))))

/-- k * pi / 4. -/
def piMag (neg : Bool) (k : Nat) : Value :=
  .enclosed (fun w => some (encAt w (negIf neg (k * piFix w / 4 : Nat))))

/-! ### Hyperbolic tangent and error function -/

def tanhMag (neg : Bool) (m : Nat) (e : Int) : Value :=
  if 7 ≤ leadOf m e then .known (nearOne neg)
  else .enclosed (fun w =>
    let (k, v) := expFix w (toFixS w false m (e + 1))
    let x := v <<< k.toNat
    let er := 2 ^ (48 + k.toNat)
    let one := 2 ^ w
    if x < er + one then none
    else
      let lo : Int := (((x - er - one) <<< w) / (x - er + one) : Nat)
      let hi : Int := (((x + er - one) <<< w) / (x + er + one) + 1 : Nat)
      some (if neg then ⟨-hi, -lo, -(w : Int)⟩ else ⟨lo, hi, -(w : Int)⟩))

/-- The sum of t * (2 x^2)^j / (1 * 3 * ... * (2j + 1)). -/
def erfSeries (w x2 : Nat) : Nat → Nat → Nat → Nat → Nat
  | 0, _, _, acc => acc
  | fuel + 1, t, j, acc =>
    if t = 0 then acc else erfSeries w x2 fuel (((2 * t * x2) >>> w) / (2 * j + 3)) (j + 1) (acc + t)

def erfMag (neg : Bool) (m : Nat) (e : Int) : Value :=
  if 4 ≤ leadOf m e then .known (nearOne neg)
  else .enclosed (fun w =>
    let g := if 0 ≤ leadOf m e then 900 else 64
    let w' := w + g
    let x := toFix w' m e
    let x2 := (x * x) >>> w'
    let s := erfSeries w' x2 (4 * w') x 0 0
    let (k, v) := expFix w' (-((x2 : Nat) : Int))
    let ex := v >>> (-k).toNat
    let rp := isqrt (piFix w' <<< w')
    let r := (2 * ((s * ex) >>> w') <<< w') / rp
    some (encAt w (negIf neg (r >>> g : Nat))))

/-! ### Powers -/

/-- |a|^b for a ≠ 1 and b ≠ 0, both of .s (R208): no dyadic number of few bits. -/
def powMag (neg : Bool) (ma : Nat) (ea : Int) (nb : Bool) (mb : Nat) (eb : Int) : Value :=
  .enclosed (fun w =>
    let u := w + 256
    let y := lnFix u ma ea * (mb : Nat)
    let y := if 0 ≤ eb then y * (2 ^ eb.toNat : Nat) else y >>> (-eb).toNat
    let x := encExp w (expAt w u (negIf nb y))
    some (if neg then ⟨-x.hi, -x.lo, x.e⟩ else x))

/-- An odd mantissa and its exponent (fuel: the length). -/
def oddPart : Nat → Nat → Int → Nat × Int
  | 0, m, e => (m, e)
  | fuel + 1, m, e => if m % 2 = 1 ∨ m = 0 then (m, e) else oddPart fuel (m / 2) (e + 1)

/-- The j-fold square root of m * 2^e where it is a dyadic number, for odd m. -/
def rootTower : Nat → Nat → Int → Option (Nat × Int)
  | 0, m, e => some (m, e)
  | j + 1, m, e =>
    let r := isqrt m
    if e % 2 = 0 ∧ r * r = m then rootTower j r (e / 2) else none

/-- |a|^b where it is a dyadic number of few bits: b is n / 2^j, a has a dyadic 2^j-th root, and that root is a power of
two or n is positive and at most 256.  A larger n gives an odd factor of more than 400 bits. -/
def powExact (neg : Bool) (ma : Nat) (ea : Int) (nb : Bool) (mb : Nat) (eb : Int) : Option Mag :=
  let (m, e) := oddPart (bitLen ma) ma ea
  let (n, x) := oddPart (bitLen mb) mb eb
  let root := if x < 0 then (if (-x) ≤ 40 then rootTower (-x).toNat m e else none) else some (m, e)
  match root with
  | none => none
  | some (m, e) =>
    let k : Nat := n <<< x.toNat
    if m = 1 then some ⟨neg, 1, negIf nb (e * (k : Nat)), false⟩
    else if !nb && decide (k ≤ 256) then some ⟨neg, m ^ k, e * (k : Nat), false⟩
    else none

end Sys2Proof.Machine
end

