-- ==== Sys2Proof/Machine/Operands.lean ====
section
/-!
DEFINITION. Operand forms: immediates and offsets with HINT.IMM (R30), effective addresses (R123), and the ways a vector
instruction reads its sources and writes its destination (R187).
-/

namespace Sys2Proof.Machine

/-- The 32-bit immediate of the I and UI formats: imm12 extended, or with HINT.IMM the payload above the low ten field
bits, whose upper two must be zero (R30). -/
def imm12 (h : Hints) (i : BitVec 12) (signed : Bool) : Res Word :=
  match h.imm with
  | none => .ok (if signed then i.signExtend 32 else i.setWidth 32)
  | some p => if i.extractLsb' 10 2 = 0#2 then .ok (p ++ i.extractLsb' 0 10) else invalid

/-- MOVI's immediate: imm14 sign-extended, or with HINT.IMM as R30 with ten field bits (R143). -/
def imm14 (h : Hints) (i : BitVec 14) : Res Word :=
  match h.imm with
  | none => .ok (i.signExtend 32)
  | some p => if i.extractLsb' 10 4 = 0#4 then .ok (p ++ i.extractLsb' 0 10) else invalid

/-- The M format's byte offset: off9, or 31 bits with HINT.IMM (R30). -/
def off9 (h : Hints) (o : BitVec 9) : DWord :=
  match h.imm with
  | none => o.signExtend 64
  | some p => (p ++ o).signExtend 64

/-- The byte offset of the S format and of ULD: zero, or 22 bits with HINT.IMM (R30). -/
def offS (h : Hints) : DWord :=
  match h.imm with
  | none => 0#64
  | some p => p.signExtend 64

/-- A HINT.IMM ahead of a shift by an immediate: the field bits [11:10] must be zero, which SHLI alone has, and the
payload must be zero (R190). -/
def shiftHint (h : Hints) (op : Nat) : Res Unit :=
  match h.imm with
  | none => .ok ()
  | some p => if op = 0 ∧ p = 0#22 then .ok () else invalid

/-- A vector instruction of 32-bit results: the value of every slot the active threads compute on (R187). -/
def vec1 (d : BitVec 7) (f : Crew → Nat → Word) (c : Ctx) : Res Crew :=
  .ok (c.crew.putV d (c.slots.map (fun t => (t, f c.crew t))))

/-- A vector instruction of 64-bit results. -/
def vec2 (d : BitVec 7) (f : Crew → Nat → DWord) (c : Ctx) : Res Crew :=
  .ok (c.crew.putV64 d (c.slots.map (fun t => (t, f c.crew t))))

/-- A predicate write: compared in a protected launch (R139), then written for the active threads (R20). -/
def vecP (p : BitVec 3) (f : Crew → Nat → Bool) (c : Ctx) : Res Crew := do
  c.agree 5 (f c.crew)
  .ok (c.crew.putP p.toNat (c.slots.map (fun t => (t, f c.crew t))))

/-- 32-bit sources a and b. -/
def bin (d a b : BitVec 7) (f : Word → Word → Word) : Ctx → Res Crew :=
  vec1 d (fun c t => f (c.src a t) (c.src b t))
/-- 64-bit sources a and b. -/
def bin64 (d a b : BitVec 7) (f : DWord → DWord → DWord) : Ctx → Res Crew :=
  vec2 d (fun c t => f (c.src64 a t) (c.src64 b t))
/-- One 32-bit source. -/
def un (d a : BitVec 7) (f : Word → Word) : Ctx → Res Crew := vec1 d (fun c t => f (c.src a t))
/-- A 32-bit source and an immediate of R30. -/
def binI (d a : BitVec 7) (i : BitVec 12) (signed : Bool) (f : Word → Word → Word) (c : Ctx) : Res Crew := do
  let v ← imm12 c.grp.hints i signed
  vec1 d (fun cr t => f (cr.src a t) v) c

/-! ### Integer values (R189, R192, R193, R195) -/

/-- Carry out of x + y, unsigned (IADDC). -/
def carryOut {w : Nat} (x y : BitVec w) : BitVec w := if 2 ^ w ≤ x.toNat + y.toNat then 1#w else 0#w
/-- Borrow out of x - y, unsigned (ISUBB). -/
def borrowOut {w : Nat} (x y : BitVec w) : BitVec w := if x.ult y then 1#w else 0#w
def minS {w : Nat} (x y : BitVec w) : BitVec w := if x.slt y then x else y
def maxS {w : Nat} (x y : BitVec w) : BitVec w := if x.slt y then y else x
def minU {w : Nat} (x y : BitVec w) : BitVec w := if x.ult y then x else y
def maxU {w : Nat} (x y : BitVec w) : BitVec w := if x.ult y then y else x
/-- |x| modulo 2^w; the most negative number stays (IABS). -/
def absW {w : Nat} (x : BitVec w) : BitVec w := if x.msb then -x else x
/-- Shifts by an unsigned 32-bit count; a count of w or more leaves 0, or the sign (R189). -/
def shl {w : Nat} (x : BitVec w) (c : Word) : BitVec w := if c.toNat < w then x <<< c.toNat else 0#w
def shr {w : Nat} (x : BitVec w) (c : Word) : BitVec w := if c.toNat < w then x >>> c.toNat else 0#w
def sar {w : Nat} (x : BitVec w) (c : Word) : BitVec w :=
  if c.toNat < w then x.sshiftRight c.toNat else if x.msb then BitVec.allOnes w else 0#w

/-- The high word of a product, of sign- or zero-extended operands (IMULH). -/
def mulHigh (signed : Bool) (x y : Word) : Word :=
  if signed then ((x.signExtend 64) * (y.signExtend 64)).extractLsb' 32 32
  else ((x.setWidth 64) * (y.setWidth 64)).extractLsb' 32 32
/-- The 64-bit product of extended operands, plus c (IMADW). -/
def mulWide (signed : Bool) (x y : Word) (c : DWord) : DWord :=
  if signed then (x.signExtend 64) * (y.signExtend 64) + c else (x.setWidth 64) * (y.setWidth 64) + c
/-- Division toward zero with the corners of R192. -/
def divW (signed : Bool) (x y : Word) : Word :=
  if y = 0#32 then BitVec.allOnes 32 else if signed then BitVec.sdiv x y else x / y
/-- The remainder with the corners of R192. -/
def remW (signed : Bool) (x y : Word) : Word :=
  if y = 0#32 then x else if signed then BitVec.srem x y else x % y

/-- Leading zero bits (CLZ). -/
def clz (x : Word) : Word :=
  match (List.range 32).find? (fun i => x.getLsbD (31 - i)) with
  | some n => BitVec.ofNat 32 n
  | none => 32#32
/-- Trailing zero bits (CTZ). -/
def ctz (x : Word) : Word :=
  match (List.range 32).find? (fun i => x.getLsbD i) with
  | some n => BitVec.ofNat 32 n
  | none => 32#32
/-- FUNNEL: bits [63:32] of (b ‖ a) << c[5:0]. -/
def funnel (a b c : Word) : Word := ((b ++ a) <<< (c.extractLsb' 0 6).toNat).extractLsb' 32 32
/-- The length of BFX and BFI fields: pos in [7:0], len in [15:8], cut at bit 31 (R193). -/
def fieldLen (ctl : Word) : Nat :=
  let pos := (ctl.extractLsb' 0 8).toNat
  let len := (ctl.extractLsb' 8 8).toNat
  if 32 ≤ pos then 0 else min len (32 - pos)
/-- BFX: the field zero- or sign-extended. -/
def bfx (signed : Bool) (x ctl : Word) : Word :=
  let l := fieldLen ctl
  let pos := (ctl.extractLsb' 0 8).toNat
  if l = 0 then 0#32 else
    let f := (x >>> pos) &&& (BitVec.ofNat 32 (2 ^ l - 1))
    if signed ∧ f.getLsbD (l - 1) then f ||| (BitVec.allOnes 32 <<< l) else f
/-- BFI: the field inserted into c. -/
def bfi (x ctl c : Word) : Word :=
  let l := fieldLen ctl
  let pos := (ctl.extractLsb' 0 8).toNat
  if l = 0 then c else
    let m := (BitVec.ofNat 32 (2 ^ l - 1)) <<< pos
    (c &&& ~~~m) ||| ((x <<< pos) &&& m)

/-- The integer conditions of R20: EQ, NE, LT, LE, GT, GE, signed or unsigned. -/
def intCond {w : Nat} (cond : BitVec 3) (unsigned : Bool) (x y : BitVec w) : Bool :=
  let lt := if unsigned then x.ult y else x.slt y
  let eq := decide (x = y)
  match cond.toNat with
  | 0 => eq
  | 1 => !eq
  | 2 => lt
  | 3 => lt || eq
  | 4 => !lt && !eq
  | _ => !lt

/-- LEA's scaled index (R195). -/
def leaPair (zero : Bool) (n : Nat) (a : DWord) (b : Word) : DWord :=
  a + ((if zero then b.setWidth 64 else b.signExtend 64) <<< n)

end Sys2Proof.Machine
end

