-- ==== Sys2Proof/Machine/Uniform.lean ====
section
/-!
DEFINITION. The uniform instructions (R196 to R198), and the moves and cross-lane instructions of major 0x16 (R143,
R144), key matches (R215), PACK and UNPACK (R165).
-/

namespace Sys2Proof.Machine

/-- A uniform result of one register, or of a pair where the width bit says so (R197). -/
def uni (d : BitVec 6) (w : BitVec 1) (f : Crew → Word) (g : Crew → DWord) (c : Ctx) : Res Crew :=
  if w = 1#1 then .ok (c.crew.putU64 d.toNat (g c.crew)) else .ok (c.crew.putU d.toNat (f c.crew))

/-- A uniform instruction over a and b in either width. -/
def uniBin (d a b : BitVec 6) (w : BitVec 1) (f : Word → Word → Word) (g : DWord → DWord → DWord) : Ctx → Res Crew :=
  uni d w (fun c => f (c.u a.toNat) (c.u b.toNat)) (fun c => g (c.u64 a.toNat) (c.u64 b.toNat))

/-- A uniform shift: the count is a single register in either width (R197). -/
def uniShift (d a b : BitVec 6) (w : BitVec 1) (f : Word → Word → Word) (g : DWord → Word → DWord) : Ctx → Res Crew :=
  uni d w (fun c => f (c.u a.toNat) (c.u b.toNat)) (fun c => g (c.u64 a.toNat) (c.u b.toNat))

/-- The slot that thread index x names for the member that computes slot t (R144). -/
def Ctx.peer (c : Ctx) (t x : Nat) : Nat := if c.launch.prot then x + 16 * (t / 16) else x
/-- The thread index of a slot. -/
def Ctx.threadOf (c : Ctx) (t : Nat) : Nat := if c.launch.prot then t % 16 else t
/-- The active slots of the member that computes slot t, ascending: the threads of a crew-wide operation. -/
def Ctx.mates (c : Ctx) (t : Nat) : List Nat := c.threads.map (c.peer t)

/-- A crew-wide predicate of a member (R144). -/
def crewPred (c : Ctx) (s0 : BitVec 1) (q : BitVec 3) (f : List Bool → Bool) (cr : Crew) (t : Nat) : Bool :=
  f ((c.mates t).map (fun u => xor (cr.p q.toNat u) (s0 = 1#1)))

/-- The mask of the active threads whose value satisfies p against the value of the thread of slot t. -/
def crewMask (c : Ctx) (t : Nat) (p : Nat → Bool) : Word :=
  maskOf ((c.mates t).filter p |>.map c.threadOf)

/-- The group and word count of PACK and UNPACK by code: element width, threads of a group, words of a group (R165). -/
def packGeom (w : BitVec 2) : Nat × Nat × Nat :=
  match w.toNat with
  | 0 => (4, 8, 1)
  | 1 => (6, 16, 3)
  | 2 => (8, 4, 1)
  | _ => (16, 2, 1)

/-- A bit stream of elements w bits wide, element 0 lowest (R150). -/
def packBits (w : Nat) (l : List Nat) : Nat := l.foldr (fun e acc => acc * 2 ^ w + e % 2 ^ w) 0

/-- UADD: uniform, 32 or 64 bits (R197). -/
def execUadd (d a b : BitVec 6) (w : BitVec 1) (s : State) : Host.Outcome State Fault Refusal :=
  issueCrew (.uadd d a b w) (uniBin d a b w (· + ·) (· + ·)) s

/-- USUB: uniform, 32 or 64 bits (R197). -/
def execUsub (d a b : BitVec 6) (w : BitVec 1) (s : State) : Host.Outcome State Fault Refusal :=
  issueCrew (.usub d a b w) (uniBin d a b w (· - ·) (· - ·)) s

/-- UAND: uniform, 32 or 64 bits (R197). -/
def execUand (d a b : BitVec 6) (w : BitVec 1) (s : State) : Host.Outcome State Fault Refusal :=
  issueCrew (.uand d a b w) (uniBin d a b w (· &&& ·) (· &&& ·)) s

/-- UOR: uniform, 32 or 64 bits (R197). -/
def execUor (d a b : BitVec 6) (w : BitVec 1) (s : State) : Host.Outcome State Fault Refusal :=
  issueCrew (.uor d a b w) (uniBin d a b w (· ||| ·) (· ||| ·)) s

/-- UXOR: uniform, 32 or 64 bits (R197). -/
def execUxor (d a b : BitVec 6) (w : BitVec 1) (s : State) : Host.Outcome State Fault Refusal :=
  issueCrew (.uxor d a b w) (uniBin d a b w (· ^^^ ·) (· ^^^ ·)) s

/-- USHL: uniform shift (R197). -/
def execUshl (d a b : BitVec 6) (w : BitVec 1) (s : State) : Host.Outcome State Fault Refusal :=
  issueCrew (.ushl d a b w) (uniShift d a b w shl shl) s

/-- USHR: uniform shift (R197). -/
def execUshr (d a b : BitVec 6) (w : BitVec 1) (s : State) : Host.Outcome State Fault Refusal :=
  issueCrew (.ushr d a b w) (uniShift d a b w shr shr) s

/-- USAR: uniform shift (R197). -/
def execUsar (d a b : BitVec 6) (w : BitVec 1) (s : State) : Host.Outcome State Fault Refusal :=
  issueCrew (.usar d a b w) (uniShift d a b w sar sar) s

/-- UMUL: low word of the product (R197). -/
def execUmul (d a b : BitVec 6) (s : State) : Host.Outcome State Fault Refusal :=
  issueCrew (.umul d a b) (fun c => .ok (c.crew.putU d.toNat (c.crew.u a.toNat * c.crew.u b.toNat))) s

/-- UMAD: d := a * b + d (R197). -/
def execUmad (d a b : BitVec 6) (s : State) : Host.Outcome State Fault Refusal :=
  issueCrew (.umad d a b) (fun c => .ok (c.crew.putU d.toNat (c.crew.u a.toNat * c.crew.u b.toNat + c.crew.u d.toNat))) s

/-- UCMP_I: 1 where the condition holds, else 0 (R197). -/
def execUcmpI (d a b : BitVec 6) (c : BitVec 3) (s : State) : Host.Outcome State Fault Refusal :=
  issueCrew (.ucmpI d a b c) (fun x => .ok (x.crew.putU d.toNat (if intCond c false (x.crew.u a.toNat) (x.crew.u b.toNat) then 1#32 else 0#32))) s

/-- UCMP_Z: 1 where the condition holds, else 0 (R197). -/
def execUcmpZ (d a b : BitVec 6) (c : BitVec 3) (s : State) : Host.Outcome State Fault Refusal :=
  issueCrew (.ucmpZ d a b c) (fun x => .ok (x.crew.putU d.toNat (if intCond c true (x.crew.u a.toNat) (x.crew.u b.toNat) then 1#32 else 0#32))) s

/-- USEL: a where the old d is not 0, else b (R197). -/
def execUsel (d a b : BitVec 6) (w : BitVec 1) (s : State) : Host.Outcome State Fault Refusal :=
  issueCrew (.usel d a b w) (uni d w (fun c => if c.u d.toNat ≠ 0#32 then c.u a.toNat else c.u b.toNat)
    (fun c => if c.u64 d.toNat ≠ 0#64 then c.u64 a.toNat else c.u64 b.toNat)) s

/-- UADDI: a + immediate (R198). -/
def execUaddi (d a : BitVec 6) (i : BitVec 12) (s : State) : Host.Outcome State Fault Refusal :=
  issueCrew (.uaddi d a i) (fun c => do
    let v ← imm12 c.grp.hints i true
    .ok (c.crew.putU d.toNat (c.crew.u a.toNat + v))) s

/-- UMOVI: the immediate (R198). -/
def execUmovi (d : BitVec 6) (i : BitVec 12) (s : State) : Host.Outcome State Fault Refusal :=
  issueCrew (.umovi d i) (fun c => do
    let v ← imm12 c.grp.hints i false
    .ok (c.crew.putU d.toNat v)) s

/-- MOV: bit for bit (R144). -/
def execMov (d a : BitVec 7) (s : State) : Host.Outcome State Fault Refusal :=
  issueCrew (.mov d a) (un d a id) s

/-- MOVI: the immediate (R144). -/
def execMovi (d : BitVec 7) (i : BitVec 14) (s : State) : Host.Outcome State Fault Refusal :=
  issueCrew (.movi d i) (fun c => do
    let v ← imm14 c.grp.hints i
    vec1 d (fun _ _ => v) c) s

/-- MOVU: uniform move (R144). -/
def execMovu (d a : BitVec 6) (w : BitVec 1) (s : State) : Host.Outcome State Fault Refusal :=
  issueCrew (.movu d a w) (uni d w (fun c => c.u a.toNat) (fun c => c.u64 a.toNat)) s

/-- MOVS: thread n of a vector register into a uniform one (R144). -/
def execMovs (w : BitVec 1) (d : BitVec 6) (a : BitVec 7) (n : BitVec 5) (s : State) : Host.Outcome State Fault Refusal :=
  issueCrew (.movs w d a n) (fun c => do
    ensure (decide (n.toNat < c.W)) invalid
    ensure (!c.launch.prot || decide (c.crew.src64 a n.toNat = c.crew.src64 a (n.toNat + 16)) ||
      (decide (w = 0#1) && decide (c.crew.src a n.toNat = c.crew.src a (n.toNat + 16)))) (silentError 7 (some n.toNat))
    uni d w (fun cr => cr.src a n.toNat) (fun cr => cr.src64 a n.toNat) c) s

/-- RFAL: the lowest active thread's value into a uniform register; nothing with none active (R144).  In a protected launch the
two members' values are compared as the results of a uniform instruction (R139; DEDUCED: log entry 118). -/
def execRfal (w : BitVec 1) (d : BitVec 6) (a : BitVec 7) (s : State) : Host.Outcome State Fault Refusal :=
  issueCrew (.rfal w d a) (fun c =>
    match c.threads with
    | [] => .ok c.crew
    | t :: _ => do
      ensure (!c.launch.prot || (if w = 1#1 then decide (c.crew.src64 a t = c.crew.src64 a (t + 16))
        else decide (c.crew.src a t = c.crew.src a (t + 16)))) (silentError 6 (some t))
      uni d w (fun cr => cr.src a t) (fun cr => cr.src64 a t) c) s

/-- SHFL: the value of the thread that b names, modulo W (R144). -/
def execShfl (d a b : BitVec 7) (s : State) : Host.Outcome State Fault Refusal :=
  issueCrew (.shfl d a b) (fun c => vec1 d (fun cr t => cr.src a (c.peer t ((cr.src b t).toNat % c.W))) c) s

/-- BFLY: the value of thread t xor m (R144). -/
def execBfly (d a : BitVec 7) (m : BitVec 5) (s : State) : Host.Outcome State Fault Refusal :=
  issueCrew (.bfly d a m) (fun c => do
    ensure (!(c.launch.prot && m.getLsbD 4)) invalid
    vec1 d (fun cr t => cr.src a (c.peer t (c.threadOf t ^^^ m.toNat))) c) s

/-- CREW_ALL: over the active threads (R144). -/
def execCrewAll (p : BitVec 3) (s0 : BitVec 1) (q : BitVec 3) (s : State) : Host.Outcome State Fault Refusal :=
  issueCrew (.crewAll p s0 q) (fun c => vecP p (crewPred c s0 q (fun l => l.all id)) c) s

/-- CREW_ANY: over the active threads (R144). -/
def execCrewAny (p : BitVec 3) (s0 : BitVec 1) (q : BitVec 3) (s : State) : Host.Outcome State Fault Refusal :=
  issueCrew (.crewAny p s0 q) (fun c => vecP p (crewPred c s0 q (fun l => l.any id)) c) s

/-- CREW_SAME: over the active threads (R144). -/
def execCrewSame (p : BitVec 3) (s0 : BitVec 1) (q : BitVec 3) (s : State) : Host.Outcome State Fault Refusal :=
  issueCrew (.crewSame p s0 q) (fun c => vecP p (crewPred c s0 q (fun l => l.all id || l.all (!·))) c) s

/-- CREW_MASK: the mask of the active threads where the predicate holds (R144). -/
def execCrewMask (d : BitVec 7) (s0 : BitVec 1) (q : BitVec 3) (s : State) : Host.Outcome State Fault Refusal :=
  issueCrew (.crewMask d s0 q) (fun c => do
    c.agree 5 (fun t => xor (c.crew.p q.toNat t) (s0 = 1#1))
    vec1 d (fun cr t => crewMask c t (fun u => xor (cr.p q.toNat u) (s0 = 1#1))) c) s

/-- MATCH_B: active threads with the same 32-bit pattern (R215). -/
def execMatchB (d a : BitVec 7) (s : State) : Host.Outcome State Fault Refusal :=
  issueCrew (.matchB d a) (fun c => do
    c.agree 5 (fun t => crewMask c t (fun u => decide (c.crew.src a u = c.crew.src a t)))
    vec1 d (fun cr t => crewMask c t (fun u => decide (cr.src a u = cr.src a t))) c) s

/-- MATCH_B_64: active threads with the same 64-bit pattern (R215). -/
def execMatchB64 (d a : BitVec 7) (s : State) : Host.Outcome State Fault Refusal :=
  issueCrew (.matchB64 d a) (fun c => do
    c.agree 5 (fun t => crewMask c t (fun u => decide (c.crew.src64 a u = c.crew.src64 a t)))
    vec1 d (fun cr t => crewMask c t (fun u => decide (cr.src64 a u = cr.src64 a t))) c) s

/-- PACK: packs the low bits of a group's threads into words (R165). -/
def execPack (d a : BitVec 7) (w : BitVec 2) (s : State) : Host.Outcome State Fault Refusal :=
  issueCrew (.pack d a w) (fun c =>
    let (wd, n, words) := packGeom w
    vec1 d (fun cr t =>
      let g := c.threadOf t / n
      let strm := packBits wd ((List.range n).map (fun i => (cr.src a (c.peer t (g * n + i))).toNat))
      BitVec.ofNat 32 (strm >>> (32 * ((c.threadOf t % n) % words)))) c) s

/-- UNPACK: the element of a group's words that the thread names (R165). -/
def execUnpack (d a : BitVec 7) (w : BitVec 2) (s : State) : Host.Outcome State Fault Refusal :=
  issueCrew (.unpack d a w) (fun c =>
    let (wd, n, words) := packGeom w
    vec1 d (fun cr t =>
      let g := c.threadOf t / n
      let strm := packBits 32 ((List.range words).map (fun i => (cr.src a (c.peer t (g * n + i))).toNat))
      BitVec.ofNat 32 ((strm >>> (wd * (c.threadOf t % n))) % 2 ^ wd)) c) s

end Sys2Proof.Machine
end

