-- ==== Sys2Proof/Machine/Float.lean ====
section
/-!
DEFINITION. Floating-point instructions that never park: arithmetic (R200 to R205), comparison and classification (R211,
R212), conversions, QUANT and DEQ (R151, R162 to R164), MATCH.F (R215).
-/

namespace Sys2Proof.Machine

/-! ### Operands and results (R200) -/

/-- The format that fmt selects. -/
def fmtOf (t : BitVec 2) : Fmt :=
  match t.toNat with
  | 0 => fp32
  | 1 => fp64
  | 2 => fp16
  | _ => bf16

/-- The bits of an operand of a format: a pair for .d. -/
def Crew.fbits (c : Crew) (t : BitVec 2) (f : BitVec 7) (slot : Nat) : Nat :=
  if t = 1#2 then (c.src64 f slot).toNat else (c.src f slot).toNat
/-- An operand's value. -/
def Crew.num (c : Crew) (t : BitVec 2) (f : BitVec 7) (slot : Nat) : Num := (fmtOf t).read (c.fbits t f slot)

/-- The results of a format for several slots. -/
def Crew.putF (c : Crew) (t : BitVec 2) (d : BitVec 7) (l : List (Nat × Nat)) : Crew :=
  if t = 1#2 then c.putV64 d (l.map (fun p => (p.1, BitVec.ofNat 64 p.2)))
  else c.putV d (l.map (fun p => (p.1, BitVec.ofNat 32 p.2)))

/-- A vector instruction of floating-point results: values and flags of every slot (R156, R200). -/
def fpVec (t : BitVec 2) (d : BitVec 7) (f : Crew → Nat → Nat × BitVec 5) (c : Ctx) : Res Crew :=
  let rs := c.slots.map (fun k => (k, f c.crew k))
  .ok ((c.crew.putF t d (rs.map (fun r => (r.1, r.2.1)))).orFlags (orAll (rs.map (fun r => r.2.2))))

/-- One operand. -/
def fp1 (t : BitVec 2) (d a : BitVec 7) (f : Num → Nat × BitVec 5) : Ctx → Res Crew :=
  fpVec t d (fun c k => f (c.num t a k))
/-- Two operands. -/
def fp2 (t : BitVec 2) (d a b : BitVec 7) (f : Num → Num → Nat × BitVec 5) : Ctx → Res Crew :=
  fpVec t d (fun c k => f (c.num t a k) (c.num t b k))

/-! ### Arithmetic (R203 to R205) -/

/-- A finite value as an addend. -/
def Num.dy : Num → Dy
  | .fin s m e => ⟨s, m, e⟩
  | _ => ⟨false, 0, 0⟩

/-- The canonical NaN with flags. -/
def nanRes (f : Fmt) (fl : BitVec 5) : Nat × BitVec 5 := (f.nan, fl)

/-- Infinities of both signs stand in a list. -/
def oppInf (l : List Num) : Bool := l.any (fun x => x.isInf && !x.neg) && l.any (fun x => x.isInf && x.neg)

/-- A sum of values, rounded once: NaNs, infinities of both signs, one infinity, or the exact sum (R203, R214). -/
def sumNums (f : Fmt) (rm : BitVec 3) (l : List Num) : Nat × BitVec 5 :=
  if l.any Num.isNan || oppInf l then nanRes f ((if oppInf l then flInvalid else 0#5) ||| sigFlag l)
  else
    match l.find? Num.isInf with
    | some x => (f.inf x.neg, 0#5)
    | none => f.round rm 0#32 (sumDy rm (l.map Num.dy))

def fpAdd (f : Fmt) (rm : BitVec 3) (a b : Num) : Nat × BitVec 5 := sumNums f rm [a, b]
def fpSub (f : Fmt) (rm : BitVec 3) (a b : Num) : Nat × BitVec 5 := sumNums f rm [a, b.withSign (!b.neg)]

/-- 0 * infinity. -/
def badProduct (a b : Num) : Bool := (a.isZero && b.isInf) || (a.isInf && b.isZero)

/-- The exact product of two values that are not NaN and not 0 * infinity. -/
def mulNum (a b : Num) : Num :=
  match a, b with
  | .fin s m e, .fin t n x => .fin (xor s t) (m * n) (e + x)
  | x, y => .inf (xor x.neg y.neg)

def fpMul (f : Fmt) (rm : BitVec 3) (a b : Num) : Nat × BitVec 5 :=
  if a.isNan || b.isNan then nanRes f (sigFlag [a, b])
  else if badProduct a b then nanRes f flInvalid
  else match mulNum a b with
    | .fin s m e => f.round rm 0#32 (magOf s m e)
    | x => (f.inf x.neg, 0#5)

/-- a * b + c, rounded once (R204). -/
def fpFma (f : Fmt) (rm : BitVec 3) (a b c : Num) : Nat × BitVec 5 :=
  let sg := sigFlag [a, b, c]
  if badProduct a b then nanRes f flInvalid
  else if a.isNan || b.isNan || c.isNan then nanRes f sg
  else sumNums f rm [mulNum a b, c]

/-- a < b for finite dyadic numbers. -/
def dyLt (a b : Dy) : Bool :=
  let e := if a.e < b.e then a.e else b.e
  let v (d : Dy) : Int := let x : Int := (d.m <<< (d.e - e).toNat : Nat); if d.neg then -x else x
  decide (v a < v b)

/-- a < b for values that are not NaN; the zeros are equal. -/
def numLt (a b : Num) : Bool :=
  match a, b with
  | .inf s, .inf t => s && !t
  | .inf s, _ => s
  | _, .inf t => !t
  | x, y => dyLt x.dy y.dy
/-- a = b for values that are not NaN. -/
def numEq (a b : Num) : Bool := !numLt a b && !numLt b a

/-- The bits of an operand's value, a NaN made canonical. -/
def Fmt.bitsOf (f : Fmt) (bits : Nat) : Nat := if (f.read bits).isNan then f.nan else bits % 2 ^ f.width

/-- FMIN and FMAX on bits (R203). -/
def fpMinMax (f : Fmt) (wantMax : Bool) (x y : Nat) : Nat × BitVec 5 :=
  let a := f.read x
  let b := f.read y
  let fl := sigFlag [a, b]
  if a.isNan then (f.bitsOf y, fl)
  else if b.isNan then (f.bitsOf x, fl)
  else
    let lt := numLt a b || (a.isZero && b.isZero && a.neg && !b.neg)
    (if lt == wantMax then f.bitsOf y else f.bitsOf x, fl)

/-- FABS and FNEG on bits (R203). -/
def fpAbs (f : Fmt) (x : Nat) : Nat := if (f.read x).isNan then f.nan else x % 2 ^ (f.width - 1)
def fpNeg (f : Fmt) (x : Nat) : Nat :=
  if (f.read x).isNan then f.nan else (x % 2 ^ f.width + 2 ^ (f.width - 1)) % 2 ^ f.width

/-- FSCALE (R203). -/
def fpScale (f : Fmt) (rm : BitVec 3) (x : Num) (n : Word) : Nat × BitVec 5 :=
  match x with
  | .nan s => nanRes f (if s then flInvalid else 0#5)
  | .inf s => (f.inf s, 0#5)
  | .fin s m e => f.round rm 0#32 (magOf s m (e + n.toInt))

/-- FDIV (R205). -/
def fpDiv (f : Fmt) (rm : BitVec 3) (a b : Num) : Nat × BitVec 5 :=
  let s := xor a.neg b.neg
  match a, b with
  | .nan _, _ => nanRes f (sigFlag [a, b])
  | _, .nan _ => nanRes f (sigFlag [a, b])
  | .inf _, .inf _ => nanRes f flInvalid
  | .inf _, .fin _ _ _ => (f.inf s, 0#5)
  | .fin _ _ _, .inf _ => (f.zero s, 0#5)
  | .fin _ m e, .fin _ n x =>
    if n = 0 then (if m = 0 then nanRes f flInvalid else (f.inf s, flDivzero))
    else if m = 0 then (f.zero s, 0#5)
    else f.round rm 0#32 (quotMag s m e n x)

/-- FSQRT (R205). -/
def fpSqrt (f : Fmt) (rm : BitVec 3) (a : Num) : Nat × BitVec 5 :=
  match a with
  | .nan s => nanRes f (if s then flInvalid else 0#5)
  | .inf s => if s then nanRes f flInvalid else (f.inf false, 0#5)
  | .fin s m e =>
    if m = 0 then (f.zero s, 0#5)
    else if s then nanRes f flInvalid
    else f.round rm 0#32 (sqrtMag m e)

/-- FRND: the value rounded to an integer, in the format (R212). -/
def fpRnd (f : Fmt) (rm : BitVec 3) (x : Nat) : Nat × BitVec 5 :=
  match f.read x with
  | .nan s => nanRes f (if s then flInvalid else 0#5)
  | .inf s => (f.inf s, 0#5)
  | .fin s m e =>
    if m = 0 then (f.zero s, 0#5)
    else
      let (n, up, inexact) := roundAt rm 0#32 (magOf s m e) 0
      let n := if up then n + 1 else n
      ((f.round 0#3 0#32 (magOf s n 0)).1, if inexact then flInexact else 0#5)

/-- FEXPO (R212). -/
def fpExpo (x : Num) : Word :=
  match x with
  | .fin _ m e => if m = 0 then 0x80000000#32 else BitVec.ofInt 32 (leadOf m e)
  | _ => 0x7FFFFFFF#32

/-- FCLASS (R212). -/
def fpClass (f : Fmt) (x : Num) : Word :=
  let k := match x with
    | .nan s => if s then 8 else 9
    | .inf s => if s then 0 else 7
    | .fin s m _ =>
      if m = 0 then (if s then 3 else 4)
      else if m < 2 ^ f.mb then (if s then 2 else 5)
      else (if s then 1 else 6)
  1#32 <<< k

/-- FCMP (R212). -/
def fpCmp (cond : BitVec 3) (a b : Num) : Bool × BitVec 5 :=
  let un := a.isNan || b.isNan
  let fl := if a.isSig || b.isSig || (un && decide (2 ≤ cond.toNat) && decide (cond.toNat ≤ 5)) then flInvalid else 0#5
  let r := match cond.toNat with
    | 0 => !un && numEq a b
    | 1 => un || !numEq a b
    | 2 => !un && numLt a b
    | 3 => !un && !numLt b a
    | 4 => !un && numLt b a
    | 5 => !un && !numLt a b
    | 6 => un
    | _ => !un
  (r, fl)

/-! ### The instructions -/

/-- FADD (R203). -/
def execFadd (d a b : BitVec 7) (t : BitVec 2) (s : State) : Host.Outcome State Fault Refusal :=
  issueCrew (.fadd d a b t) (fun c => fp2 t d a b (fpAdd (fmtOf t) c.rm) c) s
/-- FSUB (R203). -/
def execFsub (d a b : BitVec 7) (t : BitVec 2) (s : State) : Host.Outcome State Fault Refusal :=
  issueCrew (.fsub d a b t) (fun c => fp2 t d a b (fpSub (fmtOf t) c.rm) c) s
/-- FMUL (R203). -/
def execFmul (d a b : BitVec 7) (t : BitVec 2) (s : State) : Host.Outcome State Fault Refusal :=
  issueCrew (.fmul d a b t) (fun c => fp2 t d a b (fpMul (fmtOf t) c.rm) c) s
/-- FMIN (R203). -/
def execFmin (d a b : BitVec 7) (t : BitVec 2) (s : State) : Host.Outcome State Fault Refusal :=
  issueCrew (.fmin d a b t) (fpVec t d (fun c k => fpMinMax (fmtOf t) false (c.fbits t a k) (c.fbits t b k))) s
/-- FMAX (R203). -/
def execFmax (d a b : BitVec 7) (t : BitVec 2) (s : State) : Host.Outcome State Fault Refusal :=
  issueCrew (.fmax d a b t) (fpVec t d (fun c k => fpMinMax (fmtOf t) true (c.fbits t a k) (c.fbits t b k))) s
/-- FABS (R203). -/
def execFabs (d a : BitVec 7) (t : BitVec 2) (s : State) : Host.Outcome State Fault Refusal :=
  issueCrew (.fabs d a t) (fpVec t d (fun c k => (fpAbs (fmtOf t) (c.fbits t a k), 0#5))) s
/-- FNEG (R203). -/
def execFneg (d a : BitVec 7) (t : BitVec 2) (s : State) : Host.Outcome State Fault Refusal :=
  issueCrew (.fneg d a t) (fpVec t d (fun c k => (fpNeg (fmtOf t) (c.fbits t a k), 0#5))) s
/-- FSCALE: a times 2 to the signed integer b (R203). -/
def execFscale (d a b : BitVec 7) (t : BitVec 2) (s : State) : Host.Outcome State Fault Refusal :=
  issueCrew (.fscale d a b t) (fun c => fpVec t d (fun cr k => fpScale (fmtOf t) c.rm (cr.num t a k) (cr.src b k)) c) s
/-- FMA (R204). -/
def execFma (d a b : BitVec 7) (t : BitVec 2) (s : State) : Host.Outcome State Fault Refusal :=
  issueCrew (.fma d a b t) (fun c => fpVec t d (fun cr k =>
    fpFma (fmtOf t) c.rm (cr.num t a k) (cr.num t b k) (cr.num t (c.third d) k)) c) s
/-- FDIV (R205). -/
def execFdiv (d a b : BitVec 7) (t : BitVec 2) (s : State) : Host.Outcome State Fault Refusal :=
  issueCrew (.fdiv d a b t) (fun c => fp2 t d a b (fpDiv (fmtOf t) c.rm) c) s
/-- FSQRT (R205). -/
def execFsqrt (d a : BitVec 7) (t : BitVec 2) (s : State) : Host.Outcome State Fault Refusal :=
  issueCrew (.fsqrt d a t) (fun c => fp1 t d a (fpSqrt (fmtOf t) c.rm) c) s
/-- FCMP: the condition of every active thread (R212). -/
def execFcmp (c0 p : BitVec 3) (a b : BitVec 7) (t : BitVec 2) (s : State) : Host.Outcome State Fault Refusal :=
  issueCrew (.fcmp c0 p a b t) (fun c => do
    let r (k : Nat) := fpCmp c0 (c.crew.num t a k) (c.crew.num t b k)
    let cr ← vecP p (fun _ k => (r k).1) c
    .ok (cr.orFlags (orAll (c.slots.map (fun k => (r k).2))))) s
/-- FCLASS: the class of every operand; it raises no flag, of a signalling NaN either (R212; DESIGN CHOICE: log entry
137). -/
def execFclass (d a : BitVec 7) (t : BitVec 2) (s : State) : Host.Outcome State Fault Refusal :=
  issueCrew (.fclass d a t) (vec1 d (fun c k => fpClass (fmtOf t) (c.num t a k))) s
/-- FRND (R212). -/
def execFrnd (d a : BitVec 7) (t : BitVec 2) (s : State) : Host.Outcome State Fault Refusal :=
  issueCrew (.frnd d a t) (fun c => fpVec t d (fun cr k => fpRnd (fmtOf t) c.rm (cr.fbits t a k)) c) s
/-- FEXPO (R212). -/
def execFexpo (d a : BitVec 7) (t : BitVec 2) (s : State) : Host.Outcome State Fault Refusal :=
  issueCrew (.fexpo d a t) (vec1 d (fun c k => fpExpo (c.num t a k))) s

/-- The active threads whose keys equal the thread's key numerically (R215). -/
def matchMask (c : Ctx) (key : Nat → Num) (slot : Nat) : Word :=
  crewMask c slot (fun u => !(key slot).isNan && !(key u).isNan && numEq (key u) (key slot))

/-- MATCH.F (R215). -/
def execMatchF (d a : BitVec 7) (t : BitVec 2) (s : State) : Host.Outcome State Fault Refusal :=
  issueCrew (.matchF d a t) (fun c => do
    let key (k : Nat) : Num := c.crew.num t a k
    c.agree 5 (matchMask c key)
    let cr ← vec1 d (fun _ k => matchMask c key k) c
    .ok (cr.orFlags (orAll (c.slots.map (fun k => sigFlag [key k]))))) s

/-! ### Conversions (R25, R159, R163) -/

/-- The floating-point format of a code of the C format (R25). -/
def fmtCode (x : Nat) : Fmt :=
  match x with
  | 0 => fp32
  | 1 => fp64
  | 2 => fp16
  | 3 => bf16
  | 4 => e4m3
  | 5 => e5m2
  | 6 => e3m2
  | 7 => e2m3
  | _ => e2m1

/-- Signedness and width of an integer code of the C format (R25). -/
def intSigned (x : BitVec 4) : Bool := decide (x.toNat < 4)
def intWidth (x : BitVec 4) : Nat :=
  match x.toNat % 4 with
  | 0 => 8
  | 1 => 16
  | 2 => 32
  | _ => 64

/-- The mixing word a thread draws for a conversion (R158). -/
def Ctx.draw (c : Ctx) (slot : Nat) : Word :=
  let t := c.ownThread slot
  let key : DWord := BitVec.ofNat 64 ((c.team.lcore % 256) <<< 56 + (c.team.teamid % 8) <<< 53 +
    (c.crew.key.crew % 32) <<< 48 + t)
  mixLow c.launch.seed key ((Cells.get 0#32 c.crew.srctr t).setWidth 64)

/-- The counters of the active threads advance while SR is in force (R158). -/
def Ctx.bumpSr (c : Ctx) (cr : Crew) : Crew :=
  if c.rm = 5#3 then
    { cr with srctr := Cells.setAll 0#32 cr.srctr (c.threads.map (fun t => (t, Cells.get 0#32 cr.srctr t + 1#32))) }
  else cr

/-- The bits of a source of a width in bits. -/
def Crew.wide (c : Crew) (pair : Bool) (f : BitVec 7) (slot : Nat) : Nat :=
  if pair then (c.src64 f slot).toNat else (c.src f slot).toNat

/-- CVT (R163). -/
def execCvt (d a : BitVec 7) (x y : BitVec 4) (s : State) : Host.Outcome State Fault Refusal :=
  issueCrew (.cvt d a x y) (fun c => do
    let f := fmtCode x.toNat
    let g := fmtCode y.toNat
    let t : BitVec 2 := if x = 1#4 then 1#2 else 0#2
    let cr ← fpVec t d (fun cr k => convFloat f c.rm (c.draw k) (g.read (cr.wide (y = 1#4) a k))) c
    .ok (c.bumpSr cr)) s

/-- CVTI, float to integer (R163): narrow results are extended to 32 bits (R148). -/
def execCvtiF2i (d a : BitVec 7) (x y : BitVec 4) (s : State) : Host.Outcome State Fault Refusal :=
  issueCrew (.cvtiF2i d a x y) (fun c => do
    let g := fmtCode y.toNat
    let t : BitVec 2 := if intWidth x = 64 then 1#2 else 0#2
    let cr ← fpVec t d (fun cr k =>
      let r := convInt (intSigned x) (intWidth x) c.rm (c.draw k) (g.read (cr.wide (y = 1#4) a k))
      ((BitVec.ofInt 64 r.1).toNat, r.2)) c
    .ok (c.bumpSr cr)) s

/-- An integer source read from the low bits of a register or a pair (R148). -/
def intSrc (y : BitVec 4) (bits : Nat) : Int :=
  let w := intWidth y
  let v := bits % 2 ^ w
  if intSigned y ∧ 2 ^ (w - 1) ≤ v then (v : Int) - (2 ^ w : Nat) else v

/-- CVTI, integer to float (R163). -/
def execCvtiI2f (d a : BitVec 7) (x y : BitVec 4) (s : State) : Host.Outcome State Fault Refusal :=
  issueCrew (.cvtiI2f d a x y) (fun c => do
    let f := fmtCode x.toNat
    let t : BitVec 2 := if x = 1#4 then 1#2 else 0#2
    let cr ← fpVec t d (fun cr k =>
      convFloat f c.rm (c.draw k) (numOfInt (intSrc y (cr.wide (intWidth y = 64) a k)))) c
    .ok (c.bumpSr cr)) s

/-! ### The LQ2 codebook (R151) -/

/-- Twice the weight i of an LQ2 index. -/
def lq2Weight2 (x : Nat) (i : Nat) : Int :=
  let c := (x >>> 7) % 512
  let sg := x % 128
  let s7 := popCount (BitVec.ofNat 7 sg) % 2
  let neg := if i = 7 then s7 = 1 else (sg >>> i) % 2 = 1
  let bit := (c >>> i) % 2
  let m : Int := if c = 256 then 0 else if c < 256 then 1 + 2 * bit else 1 + 4 * bit
  if neg then -m else m

/-- Weight i of an LQ2 index as a number; +0 in the zero codeword. -/
def lq2Num (x i : Nat) : Num :=
  let v := lq2Weight2 x i
  .fin (decide (v < 0)) v.natAbs (-1)

/-- The candidates of the nearest index: for each of the 128 sign patterns, the best magnitudes of either shell, and the
zero codeword.  Values are in units of `unit`, the half weight. -/
def lq2Candidate (q : List Int) (unit : Int) (sg : Nat) (high : Bool) : Nat :=
  let big : Int := if high then 5 else 3
  let bits := q.zipIdx.map (fun p =>
    let neg := if p.2 = 7 then popCount (BitVec.ofNat 7 sg) % 2 = 1 else (sg >>> p.2) % 2 = 1
    let v := if neg then -p.1 else p.1
    let near := (v - unit) * (v - unit)
    let far := (v - big * unit) * (v - big * unit)
    if far < near then 2 ^ p.2 else 0)
  ((bits.foldl (· + ·) 0) + (if high then 256 else 0)) * 128 + sg

/-- The squared distance of an index from the values. -/
def lq2Dist (q : List Int) (unit : Int) (x : Nat) : Int :=
  (q.zipIdx.map (fun p => let d := p.1 - lq2Weight2 x p.2 * unit; d * d)).foldl (· + ·) 0

/-- The index of least distance, ties to the lowest index (R164), and whether it decodes exactly to the values. -/
def lq2Nearest (q : List Dy) : Nat × Bool :=
  let e := q.foldl (fun (acc : Int) d => if d.m ≠ 0 ∧ d.e < acc then d.e else acc) (-1)
  let v := q.map (fun d => negIf d.neg ((d.m <<< (d.e - e).toNat : Nat) : Int))
  let unit : Int := (2 ^ (-1 - e).toNat : Nat)
  let cands := 0x8000 :: ((List.range 128).flatMap (fun sg => [lq2Candidate v unit sg false, lq2Candidate v unit sg true]))
  let best := (cands.map (fun x => (lq2Dist v unit x, x))).foldl
    (fun acc p => if p.1 < acc.1 ∨ (p.1 = acc.1 ∧ p.2 < acc.2) then p else acc) (lq2Dist v unit 0x8000, 0x8000)
  (best.2, decide (best.1 = 0))

/-! ### QUANT and DEQ (R164) -/

/-- The code and the scale of a control word. -/
def quantCode (b : Word) : Nat := (b.extractLsb' 8 4).toNat
def quantScale (b : Word) : Nat := (b.extractLsb' 0 8).toNat

/-- A value times 2^k. -/
def Num.shift (x : Num) (k : Int) : Num :=
  match x with
  | .fin s m e => .fin s m (e + k)
  | y => y

/-- A value under a scale, divided or multiplied; scale 0xFF gives a NaN and sets invalid. -/
def scaled (x : Num) (sc : Nat) (mul : Bool) : Num × BitVec 5 :=
  if sc = 255 then (.nan false, flInvalid ||| sigFlag [x])
  else (x.shift (if mul then (sc : Int) - 127 else 127 - sc), 0#5)

/-- The slot of thread i of the group of eight that a slot lies in. -/
def groupSlot (slot i : Nat) : Nat := slot / 8 * 8 + i

/-- QUANT to LQ2 for the group of a slot. -/
def quantLq2 (c : Crew) (a b : BitVec 7) (slot : Nat) : Nat × BitVec 5 :=
  let sc := quantScale (c.src b (groupSlot slot 0))
  let xs := (List.range 8).map (fun i => scaled (fp32.read (c.src a (groupSlot slot i)).toNat) sc false)
  let qs := xs.map (fun p => match p.1 with
    | .nan _ => (⟨false, 0, 0⟩ : Dy)
    | .inf s => ⟨s, 5, -1⟩
    | .fin s m e => ⟨s, m, e⟩)
  let bad := xs.any (fun p => p.1.isNan || p.1.isInf || decide (p.2 ≠ 0#5))
  let (x, exact) := lq2Nearest qs
  (x, (if bad then flInvalid else 0#5) ||| (if exact then 0#5 else flInexact))

/-- An allowed format code of QUANT and DEQ (R164). -/
def quantCodeOk (code : Nat) : Bool := decide (2 ≤ code) && decide (code ≤ 9)

/-- QUANT (R164). -/
def execQuant (d a b : BitVec 7) (s : State) : Host.Outcome State Fault Refusal :=
  issueCrew (.quant d a b) (fun c => do
    let code (k : Nat) : Nat := quantCode (c.crew.src b k)
    c.each 1 (fun k => quantCodeOk (code k) && (decide (code k ≠ 9) || decide (c.rm = 0#3)))
    let cr ← fpVec 0#2 d (fun cr k =>
      if code k = 9 then quantLq2 cr a b k
      else
        let (x, fl) := scaled (fp32.read (cr.src a k).toNat) (quantScale (cr.src b k)) false
        let (v, g) := convFloat (fmtCode (code k)) c.rm (c.draw k) x
        (v, fl ||| g)) c
    .ok (c.bumpSr cr)) s

/-- DEQ (R164). -/
def execDeq (d a b : BitVec 7) (s : State) : Host.Outcome State Fault Refusal :=
  issueCrew (.deq d a b) (fun c => do
    let code (k : Nat) : Nat := quantCode (c.crew.src b k)
    c.each 1 (fun k => quantCodeOk (code k))
    fpVec 0#2 d (fun cr k =>
      let bits := (cr.src a k).toNat
      let v := if code k = 9 then lq2Num (bits % 65536) (k % 8) else (fmtCode (code k)).read bits
      let (x, fl) := scaled v (quantScale (cr.src b k)) true
      let (r, g) := convFloat fp32 0#3 0#32 x
      (r, fl ||| g)) c) s

end Sys2Proof.Machine
end

