-- ==== Sys2Proof/Machine/Memory.lean ====
section
/-!
DEFINITION. Main memory and vault memory: bytes in canonical form, lines with version and poison, what a home does when
it reads and writes a line (R41 to R49, R56 to R62), and notices (R347, R348).
-/

namespace Sys2Proof.Machine

/-! ### Bytes -/

/-- The byte at a physical address; an unlisted byte reads zero (R50). -/
def readByte (m : List Host.Cell) (a : Nat) : Byte := Cells.get 0#8 m a
/-- Writes a byte, keeping the canonical form. -/
def writeByte (m : List Host.Cell) (a : Nat) (b : Byte) : List Host.Cell := Cells.set 0#8 m a b
/-- The memory's canonical form: addresses strictly rising, no zero byte listed. -/
def memWf (m : List Host.Cell) : Bool := Cells.wf 0#8 m

/-- n bytes from an address, lowest first. -/
def State.bytesAt (s : State) (a n : Nat) : List Byte := (List.range n).map (fun i => readByte s.mem.bytes (a + i))
/-- A little-endian number of n bytes. -/
def State.numAt (s : State) (a n : Nat) : Nat :=
  (List.range n).foldr (fun i acc => acc * 256 + (readByte s.mem.bytes (a + i)).toNat) 0
/-- The 32-bit word at an address (R13). -/
def State.wordAt (s : State) (a : Nat) : Word := BitVec.ofNat 32 (s.numAt a 4)

/-- A little-endian list of bytes of a number. -/
def leBytes (n x : Nat) : List Byte := (List.range n).map (fun i => BitVec.ofNat 8 (x >>> (8 * i)))
/-- The number a little-endian list of bytes holds. -/
def leNum (l : List Byte) : Nat := l.foldr (fun b acc => acc * 256 + b.toNat) 0

/-- The 128 bytes of a line, byte i in bits [8i+7:8i]. -/
def State.lineAt (s : State) (line : Nat) : Line := BitVec.ofNat 1024 (s.numAt (128 * line) 128)
/-- Byte i of a line's contents. -/
def lineByte (l : Line) (i : Nat) : Byte := l.extractLsb' (8 * i) 8
/-- n bytes of a line from an offset, as a number. -/
def lineNum (l : Line) (off n : Nat) : Nat := (l.toNat >>> (8 * off)) % 2 ^ (8 * n)

/-! ### Addresses (R37, R38, R40, R44, R51) -/

def inMain (a : Nat) : Bool := decide (a < Config.mainBytes)
/-- A byte of vault memory, outside the slot's hole. -/
def inVault (a : Nat) : Bool :=
  decide (Config.vaultBase ≤ a) && decide (a < Config.vaultBase + Config.vaultSpan) &&
    decide ((a - Config.vaultBase) % Config.vaultSlot < Config.vaultBytes)
/-- An address that exists: main memory or vault memory (R38). -/
def paExists (a : Nat) : Bool := inMain a || inVault a
def lineExists (line : Nat) : Bool := paExists (128 * line)
/-- The vault of a line in the aperture. -/
def vaultOf (line : Nat) : Nat := (128 * line - Config.vaultBase) / Config.vaultSlot
/-- The stack of a main-memory line (R40). -/
def stackOf (line : Nat) : Nat := (128 * line / 1024) % 12
/-- The byte address of a main-memory byte within its stack (R40). -/
def stackLocal (a : Nat) : Nat := a / 1024 / 12 * 1024 + a % 1024
/-- Six bits of a line number, from bit k. -/
def lnBits (ln k : Nat) : Nat := (ln >>> k) % 64
/-- Bits h[5:0] of R44 for a line number. -/
def sliceLow (line : Nat) : Nat :=
  lnBits line 0 ^^^ lnBits line 6 ^^^ lnBits line 12 ^^^ lnBits line 18 ^^^ lnBits line 24 ^^^ lnBits line 30
/-- The home of a line: a slice 0 to 127 by R44, or 128 + v for vault v (R53). -/
def homeOf (line : Nat) : Nat :=
  if inMain (128 * line) then (if stackOf line ≤ 5 then 0 else 64) + sliceLow line else 128 + vaultOf line

/-! ### Notices -/

/-- The header of a privileged entry or completion entry, lost count zero (R348). -/
def noticeHead (kind : Nat) (launch : Word) : List Byte :=
  [BitVec.ofNat 8 kind, 0#8, 0#8, 0#8] ++ leBytes 4 launch.toNat
/-- 32 bytes, cut or filled with zeros. -/
def pad32 (l : List Byte) : List Byte := (l ++ List.replicate 32 0#8).take 32

/-- Posts a notice to a privileged queue: it is held until it is appended (NOTICE_APPEND); one that finds 4,096 held is
lost and counted (R347). -/
def State.post (s : State) (q : Nat) (bytes : List Byte) : State :=
  if (s.dev.held.filter (fun h => decide (h.1 = q))).length < 4096 then
    { s with dev := { s.dev with held := s.dev.held ++ [(q, pad32 bytes)] } }
  else
    { s with dev := { s.dev with lost := Cells.set 0 s.dev.lost q (min 65535 (Cells.get 0 s.dev.lost q + 1)) } }

/-- The poison-found notice (R62). -/
def State.postPoison (s : State) (line : Nat) (gmask : BitVec 4) (cause : Nat) (ver : BitVec 12) (launch : Word) : State :=
  s.post 0 (noticeHead 1 launch ++ leBytes 8 (128 * line) ++ [gmask.setWidth 8, BitVec.ofNat 8 cause] ++
    leBytes 2 ver.toNat ++ leBytes 2 (homeOf line))

/-! ### Lines -/

def LineMeta.clean : LineMeta where
  ver := 0#12
  poison := 0#4
  bad := 0#4
  soft := 0#4

def State.lineMeta (s : State) (line : Nat) : LineMeta := Cells.get LineMeta.clean s.mem.lines line
def State.setMeta (s : State) (line : Nat) (m : LineMeta) : State :=
  { s with mem := { s.mem with lines := Cells.set LineMeta.clean s.mem.lines line m } }

/-- Counts corrected errors of a stack or a vault in its monitor (R57, R381). -/
def State.countEcc (s : State) (line n : Nat) : State :=
  if n = 0 then s else
    let k := if inMain (128 * line) then 306 + stackOf line else 320 + vaultOf line
    { s with dev := { s.dev with monitors := Cells.set 0#32 s.dev.monitors k (Cells.get 0#32 s.dev.monitors k + BitVec.ofNat 32 n) } }

/-- Every L1 copy of a line leaves, and no fill of it in flight is installed (R61, R281). -/
def State.dropL1All (s : State) (line : Nat) : State :=
  let ops := s.fl.ops.map (fun o =>
    { o with reqs := o.reqs.map (fun r => if r.target = .home line then { r with install := false } else r) })
  { s with fl := { s.fl with
      l1 := s.fl.l1.filter (fun x => !decide (x.line = line))
      konst := s.fl.konst.filter (fun x => !decide (x.line = line))
      ops := ops } }

/-- All three version copies lie in uncorrectable granules (R43). -/
def LineMeta.lost (m : LineMeta) : Bool := decide (m.bad.extractLsb' 0 3 = 7#3)

/-- Version loss: every granule poisoned, every copy discarded, version 0, a notice of cause 4 (R61). -/
def State.loseVersion (s : State) (line : Nat) (launch : Word) : State :=
  let m := s.lineMeta line
  ((s.setMeta line { m with ver := 0#12, poison := 15#4, bad := 0#4, soft := 0#4 }).dropL1All line).postPoison line
    (15#4 &&& ~~~m.poison) 4 0#12 launch

/-- Any command, fill or scrub of a line first meets a lost version (R61).  DESIGN CHOICE (log entry 97): a line resident in
its slice can lose its version too, although its tag holds a copy of it (R43). -/
def State.checkVersion (s : State) (line : Nat) (launch : Word) : State :=
  if (s.lineMeta line).lost then s.loseVersion line launch else s

/-- A read at the home of the granules in a mask: correctable errors are corrected and counted; an uncorrectable granule
becomes poisoned, with one notice of the given cause for those that were not poisoned before (R57, R58, R62).  DESIGN CHOICE
(log entry 115): a granule found so counts no more as one that makes its version copy uncorrectable. -/
def State.homeTouch (s : State) (line : Nat) (gr : BitVec 4) (cause : Nat) (launch : Word) : State :=
  let s := s.checkVersion line launch
  let m := s.lineMeta line
  let hit := m.bad &&& gr
  let fresh := hit &&& ~~~m.poison
  let s := s.countEcc line (popCount (m.soft &&& ~~~m.bad &&& gr))
  let s := s.setMeta line { m with poison := m.poison ||| hit, bad := m.bad &&& ~~~hit, soft := m.soft &&& ~~~gr }
  if fresh = 0#4 then s else s.postPoison line fresh cause m.ver launch

/-- The granules that byte offsets fall in. -/
def granulesOf (offs : List Nat) : BitVec 4 := offs.foldl (fun m o => m ||| (1#4 <<< (o / 32))) 0#4

/-- Every granule of a line. -/
def allGranules : BitVec 4 := 15#4

/-- A granule is wholly written by the listed offsets. -/
def wholeGranule (offs : List Nat) (g : Nat) : Bool := (List.range 32).all (fun i => offs.contains (32 * g + i))

/-- The slice that holds a die's copy of a remote line (R302). -/
def copySlice (x : L2Copy) : Nat := 64 * x.die + sliceLow x.line

/-- A slice holds as many lines as it has room for (R5, R302). -/
def State.sliceFull (s : State) (h : Nat) : Bool :=
  decide (Config.sliceLines ≤ s.mem.resident.length + s.fl.l2.length) &&
    decide (Config.sliceLines ≤ (s.mem.resident.filter (fun x => decide (homeOf x = h))).length +
      (s.fl.l2.filter (fun x => decide (copySlice x = h))).length)

/-- A slice that is full gives up its oldest line, or its oldest copy of a remote line where it holds no other (R45; which
one leaves is log entry 14). -/
def State.makeRoom (s : State) (h : Nat) : State :=
  if s.sliceFull h then
    match s.mem.resident.find? (fun x => decide (homeOf x = h)) with
    | some x => { s with mem := { s.mem with resident := s.mem.resident.erase x } }
    | none => match s.fl.l2.find? (fun x => decide (copySlice x = h)) with
      | some x => { s with fl := { s.fl with l2 := s.fl.l2.erase x } }
      | none => s
  else s

/-- A main-memory line is in its home slice from now on (R45). -/
def State.reside (s : State) (line : Nat) : State :=
  if inMain (128 * line) ∧ !s.mem.resident.contains line then
    let s := s.makeRoom (homeOf line)
    { s with mem := { s.mem with resident := s.mem.resident ++ [line] } }
  else s

/-- A fill from the stack that serves no command's read of the granules in the mask: a line not resident is fetched, and
its granules are read with cause 3 (R45, R58). -/
def State.fillLine (s : State) (line : Nat) (gr : BitVec 4) (launch : Word) : State :=
  if inMain (128 * line) ∧ !s.mem.resident.contains line then (s.homeTouch line gr 3 launch).reside line else s

/-- A command's read of granules at the home (R58): the granules are touched with cause 0, the line is resident after. -/
def State.commandRead (s : State) (line : Nat) (gr : BitVec 4) (launch : Word) : State :=
  ((s.fillLine line (15#4 &&& ~~~gr) launch).homeTouch line gr 0 launch).reside line

/-- A home performs at most one command for a line in a cycle of the base-die clock: for a second one the clock moves on
(R46, log entry 58). -/
def State.takeCycle (s : State) (line : Nat) : State :=
  if s.mem.taken.contains line then
    { s with
      dev := { s.dev with bclk := s.dev.bclk + 1 }
      mem := { s.mem with taken := [line] } }
  else { s with mem := { s.mem with taken := s.mem.taken ++ [line] } }

/-- A command that reads its line, and writes nothing (R46, R58). -/
def State.homeRead (s : State) (line : Nat) (gr : BitVec 4) (launch : Word) : State :=
  (s.takeCycle line).commandRead line gr launch

/-- The words of a line that byte offsets touch, with their values after the write (R14). -/
def touchedWords (bytes : List Host.Cell) (line : Nat) (offs : List Nat) : List (Nat × Word) :=
  ((List.range 32).filter (fun w => offs.any (fun o => decide (o / 4 = w)))).map (fun w =>
    (128 * line + 4 * w, BitVec.ofNat 32 ((List.range 4).foldr
      (fun i acc => acc * 256 + (readByte bytes (128 * line + 4 * w + i)).toNat) 0)))

/-- A write at the home: the bytes land, granule states follow R56, the version advances by one (R46), and the words
stored enter the history that a code fetch may draw on (R14).  A byte named twice keeps the later value.  `poisonIn`
marks granules whose data arrive poisoned (R59).  The line's held CWRs are not examined here. -/
def State.lineWrite (s : State) (line : Nat) (bytes : List (Nat × Byte)) (poisonIn : BitVec 4) (launch : Word) : State :=
  let s := (s.checkVersion line launch).takeCycle line
  let offs := bytes.map (·.1)
  let gr := granulesOf offs
  let whole := (List.range 4).all (wholeGranule offs)
  let s := if whole then s.reside line else s.fillLine line (15#4 &&& ~~~gr) launch
  let m := s.lineMeta line
  let full := (List.range 4).foldl (fun a g => if wholeGranule offs g then a ||| (1#4 <<< g) else a) 0#4
  let part := gr &&& ~~~full
  let fresh := m.bad &&& part &&& ~~~m.poison
  let data := bytes.foldl (fun b p => writeByte b (128 * line + p.1) p.2) s.mem.bytes
  let m' : LineMeta := {
    ver := m.ver + 1#12
    poison := (((m.poison &&& ~~~full) ||| fresh) ||| (poisonIn &&& gr))
    bad := m.bad &&& ~~~gr
    soft := m.soft &&& ~~~gr }
  let s := s.countEcc line (popCount (m.soft &&& ~~~m.bad &&& part))
  let s := { s with mem := { s.mem with
      bytes := data
      lines := Cells.set LineMeta.clean s.mem.lines line m'
      history := s.mem.history ++ touchedWords data line offs } }
  if fresh = 0#4 then s else s.postPoison line fresh 1 m'.ver launch

/-- The bytes of a write as (offset, byte). -/
def atOffset (off : Nat) (l : List Byte) : List (Nat × Byte) := l.zipIdx.map (fun p => (off + p.2, p.1))

/-- x is later than y in the 12-bit serial order (R48). -/
def later (x y : BitVec 12) : Bool := let d := (x - y).toNat; decide (1 ≤ d) && decide (d ≤ 2047)

/-! ### Conditional versioned writes (R267) -/

/-- The accesses of line request i of an operation. -/
def MOp.accsOf (o : MOp) (i : Nat) : List Acc := o.accs.filter (fun a => decide (a.req = i))

/-- Replaces line request i of an operation. -/
def State.setReq (s : State) (op i : Nat) (f : LReq → LReq) : State :=
  s.mapOp op (fun o => { o with reqs := o.reqs.modify i f })

/-- The bytes that line request i of a store or a CWR writes, n bytes per access; of two threads that write one byte the
higher-indexed comes later and is kept (R112). -/
def MOp.storeBytes (o : MOp) (i n : Nat) : List (Nat × Byte) :=
  (o.accsOf i).flatMap (fun a => atOffset (a.va.toNat % 128) (leBytes n a.data.toNat))

/-- The version a CWR expects of line request i. -/
def MOp.expects (o : MOp) (i : Nat) : BitVec 12 :=
  match o.accsOf i with
  | a :: _ => a.aux.setWidth 12
  | [] => 0#12

/-- A CWR line meets its line's version: it writes, it is held (in the order `now`), or it fails (R267). -/
def State.cwrLine (s : State) (o : MOp) (i line now : Nat) : State :=
  let v := (s.lineMeta line).ver
  let e := o.expects i
  if v = e then
    let s := s.lineWrite line (o.storeBytes i 4) 0#4 o.crew.team.launch
    s.setReq o.id i (fun r => { r with st := .performed, wrote := true, ver := e + 1#12 })
  else if later e v then s.setReq o.id i (fun r => { r with st := .held, aged := some now })
  else (s.takeCycle line).setReq o.id i (fun r => { r with st := .performed, wrote := false, ver := v })

/-- What a home answers to a request of another device for a line, `old` being the line before it (R295, R297). -/
def State.farAnswer (s : State) (line : Nat) (old : Line) (done : Bool) (flags : BitVec 5) : RemoteResp :=
  .line (s.lineAt line) old (s.lineMeta line).ver (s.lineMeta line).poison done flags

/-- The answer to another device's request is sent, and kept for a request replayed under the same tag (R301). -/
def State.sendFar (s : State) (sender tag : Nat) (r : RemoteResp) : State :=
  { s with
    dev := { s.dev with out := s.dev.out ++ [OutMsg.fabric sender tag r] }
    fl := { s.fl with fabTags := s.fl.fabTags ++ [(sender, tag, r)] } }

/-- A CWR of another device meets its line's version, as `cwrLine` does (R267). -/
def State.farLine (s : State) (h : FarCwr) : State :=
  let v := (s.lineMeta h.line).ver
  let old := s.lineAt h.line
  let rest (s : State) : State := { s with fl := { s.fl with far := s.fl.far.filter (fun x => !decide (x.since = h.since)) } }
  if v = h.expect then
    let s := (rest s).lineWrite h.line h.bytes 0#4 0#32
    s.sendFar h.sender h.tag (s.farAnswer h.line old true 0#5)
  else if later h.expect v then { rest s with fl := { (rest s).fl with far := (rest s).fl.far ++ [h] } }
  else ((rest s).takeCycle h.line).sendFar h.sender h.tag (s.farAnswer h.line old false 0#5)

/-- The CWRs held for a line: operation, line request, arrival; operation 0 stands for another device's, by its
arrival. -/
def State.holdsOf (s : State) (line : Nat) : List (Nat × Nat × Nat) :=
  s.fl.ops.flatMap (fun o => o.reqs.zipIdx.filterMap (fun r =>
    if r.1.st = .held ∧ r.1.target = .home line then some (o.id, r.2, r.1.aged.getD 0) else none)) ++
  (s.fl.far.filter (fun h => decide (h.line = line))).map (fun h => (0, h.since, h.since))

/-- Inserts a hold in arrival order. -/
def insertHold (h : Nat × Nat × Nat) : List (Nat × Nat × Nat) → List (Nat × Nat × Nat)
  | [] => [h]
  | x :: r => if h.2.2 < x.2.2 then h :: x :: r else x :: insertHold h r

/-- The version that a hold waits for. -/
def State.holdExpects (s : State) (h : Nat × Nat × Nat) : Option (BitVec 12) :=
  if h.1 = 0 then (s.fl.far.find? (fun x => decide (x.since = h.2.1))).map (·.expect)
  else (s.opOf h.1).map (fun o => o.expects h.2.1)

/-- A hold performs or fails at the line's present version: what it waits for is not later (R267). -/
def State.holdEnds (s : State) (line : Nat) (h : Nat × Nat × Nat) : Bool :=
  (s.holdExpects h).any (fun e => !later e (s.lineMeta line).ver)

/-- One hold is examined. -/
def State.examineHold (s : State) (line : Nat) (h : Nat × Nat × Nat) : State :=
  if h.1 = 0 then match s.fl.far.find? (fun x => decide (x.since = h.2.1)) with
    | some x => s.farLine x
    | none => s
  else match s.opOf h.1 with
    | some o => s.cwrLine o h.2.1 line h.2.2
    | none => s

/-- The home examines the line's holds in arrival order, and again from the first each time one performs (R267): of those
that do not stay held the first in arrival order is next. -/
def examineHolds : Nat → State → Nat → State
  | 0, s, _ => s
  | fuel + 1, s, line =>
    match ((s.holdsOf line).foldr insertHold []).find? (s.holdEnds line) with
    | some h => examineHolds fuel (s.examineHold line h) line
    | none => s

/-- A write at the home, after which the home examines the line's held CWRs (R46, R267). -/
def State.homeWrite (s : State) (line : Nat) (bytes : List (Nat × Byte)) (poisonIn : BitVec 4) (launch : Word) : State :=
  let s := s.lineWrite line bytes poisonIn launch
  let n := (s.holdsOf line).length
  if n = 0 then s else examineHolds (n + 1) s line

/-- A physical range written line by line, one write per line (R46). -/
def State.writeRange (s : State) (a : Nat) (l : List Byte) (launch : Word) : State :=
  let lines := (List.range ((a % 128 + l.length + 127) / 128)).map (fun i => a / 128 + i)
  let all := l.zipIdx.map (fun p => (a + p.2, p.1))
  lines.foldl (fun s ln =>
    let mine := (all.filter (fun p => decide (p.1 / 128 = ln))).map (fun p => (p.1 % 128, p.2))
    if mine.isEmpty then s else s.homeWrite ln mine 0#4 launch) s

/-- A physical range read at its homes: the granules are touched (R58); the bytes and whether one is poisoned. -/
def State.readRange (s : State) (a n : Nat) (launch : Word) : State × List Byte × Bool :=
  let lines := (List.range ((a % 128 + n + 127) / 128)).map (fun i => a / 128 + i)
  let offs (ln : Nat) : List Nat :=
    ((List.range n).filter (fun i => decide ((a + i) / 128 = ln))).map (fun i => (a + i) % 128)
  let s := lines.foldl (fun s ln => s.homeRead ln (granulesOf (offs ln)) launch) s
  (s, s.bytesAt a n, lines.any (fun ln => decide ((s.lineMeta ln).poison &&& granulesOf (offs ln) ≠ 0#4)))

/-! ### Witnesses (R243 to R247) -/

/-- The broad witness of a scope (R244). -/
def broad (scope : BitVec 3) : DWord := 3#3 ++ scope ++ 0#58
/-- The line witness of a local line: virtual line number and version. -/
def witLocal (vline : Nat) (ver : BitVec 12) : DWord := 1#3 ++ BitVec.ofNat 49 vline ++ ver
/-- The line witness of a remote line. -/
def witRemote (dev line : Nat) (ver : BitVec 12) : DWord := 2#3 ++ BitVec.ofNat 11 dev ++ BitVec.ofNat 38 line ++ ver
/-- The form of a witness. -/
def witForm (w : DWord) : Nat := (w.extractLsb' 61 3).toNat
/-- The forms an instruction accepts as an operand (R245). -/
def witOk (w : DWord) : Bool :=
  match witForm w with
  | 0 => decide (w = 0#64)
  | 1 => true
  | 2 => true
  | 3 => decide ((w.extractLsb' 58 3).toNat ≤ 4) && decide (w.extractLsb' 0 58 = 0#58)
  | _ => false
/-- The scope a witness counts as for merging (R244). -/
def witScope (w : DWord) : Nat :=
  match witForm w with
  | 1 => 2
  | 2 => 3
  | _ => (w.extractLsb' 58 3).toNat
/-- The merge of two witnesses (R247). -/
def witMerge (a b : DWord) : DWord :=
  if a = 0#64 then b else if b = 0#64 then a else
    let wide := broad (BitVec.ofNat 3 (max (witScope a) (witScope b)))
    if (witForm a = 1 ∨ witForm a = 2) ∧ a.extractLsb' 12 52 = b.extractLsb' 12 52 then
      let va := a.extractLsb' 0 12
      let vb := b.extractLsb' 0 12
      if va = vb then a else if later va vb then a else if later vb va then b else wide
    else wide

end Sys2Proof.Machine
end

