-- ==== Sys2Proof/Machine/Translate.lean ====
section
/-!
DEFINITION. Address translation (R63 to R69), the TLBs (R70), rights (R68), dual-version frames (R79), the vault window
(R51, R52), what a code fetch reads (R14, R315), and the discards of TLBINV and FLIP (R76, R80).
-/

namespace Sys2Proof.Machine

/-! ### Table entries -/

/-- A leaf's fields (R66). -/
def leafX (e : DWord) : Bool := e.getLsbD 4
def leafW (e : DWord) : Bool := e.getLsbD 3
def leafR (e : DWord) : Bool := e.getLsbD 2
def leafRC (e : DWord) : Bool := e.getLsbD 5
def leafREM (e : DWord) : Bool := e.getLsbD 6
def leafDV (e : DWord) : Bool := e.getLsbD 7
def leafFrame (e : DWord) : Nat := (e.extractLsb' 16 29).toNat * 65536
def leafDev (e : DWord) : Nat := (e.extractLsb' 45 11).toNat
def leafRange (e : DWord) : Nat := (e.extractLsb' 56 6).toNat

/-- The base-2 logarithm of the page of a leaf at a level (R64). -/
def pageLg (level : Nat) : Nat := if level = 1 then 30 else if level = 2 then 21 else 16
/-- The alignment of the table a pointer at a level names (R64). -/
def tableAlign (level : Nat) : Nat := if level = 0 then 65536 else if level = 1 then 4096 else 256
/-- The index of a level (R64). -/
def levelIndex (va level : Nat) : Nat :=
  match level with
  | 0 => (va >>> 43) % 8192
  | 1 => (va >>> 30) % 8192
  | 2 => (va >>> 21) % 512
  | _ => (va >>> 16) % 32

/-- A leaf at a level is malformed (R67). -/
def leafBad (dev : Device) (l : Launch) (va level : Nat) (e : DWord) : Bool :=
  let size := 2 ^ pageLg level
  let page := va / size * size
  let rangeOk := match l.dvs[leafRange e]? with
    | some r => decide (r.base ≤ page) && decide (page + size ≤ r.base + r.len)
    | none => false
  decide (level = 0) || decide (e.extractLsb' 62 2 ≠ 0#2) || decide (e.extractLsb' 8 8 ≠ 0#8) ||
    decide (leafFrame e % (if leafDV e then 2 * size else size) ≠ 0) ||
    (!leafREM e && !(inMain (leafFrame e) && inMain (leafFrame e + (if leafDV e then 2 * size else size) - 1))) ||
    (leafX e && leafW e) || (leafRC e && !leafREM e) || (!leafDV e && decide (leafRange e ≠ 0)) ||
    (!leafREM e && decide (leafDev e ≠ 0)) || (leafREM e && leafDV e) ||
    (leafREM e && decide (leafDev e ≤ 2046) && decide (leafDev e = dev.devid.toNat % 2048)) ||
    (leafDV e && !rangeOk)

/-- A table pointer at a level is malformed (R65, R67). -/
def pointerBad (level : Nat) (e : DWord) : Bool :=
  let next := (e.extractLsb' 8 37).toNat * 256
  decide (level = 3) || decide (e.extractLsb' 45 19 ≠ 0#19) || decide (e.extractLsb' 2 6 ≠ 0#6) ||
    decide (next % tableAlign level ≠ 0) || !inMain next

/-- What a walk meets (R72, R67). -/
inductive WalkEnd where
  | invalid (level : Nat)
  | malformed (level : Nat)
  | leaf (entry : DWord) (level : Nat)
  deriving DecidableEq, Repr

/-- The walk of an address from a table at a level, with the physical addresses of the entries read. -/
def walkFrom (s : State) (l : Launch) (va : Nat) : Nat → Nat → Nat → List Nat → WalkEnd × List Nat
  | 0, level, _, rs => (.malformed level, rs)
  | fuel + 1, level, table, rs =>
    let pa := table + 8 * levelIndex va level
    let e := BitVec.ofNat 64 (s.numAt pa 8)
    let rs := rs ++ [pa]
    match (e.extractLsb' 0 2).toNat with
    | 0 => (.invalid level, rs)
    | 1 => if pointerBad level e then (.malformed level, rs)
      else walkFrom s l va fuel (level + 1) ((e.extractLsb' 8 37).toNat * 256) rs
    | 2 => if leafBad s.dev l va level e then (.malformed level, rs) else (.leaf e level, rs)
    | _ => (.malformed level, rs)

/-- The walk of an address through a launch's tables (R64). -/
def State.walk (s : State) (l : Launch) (va : Nat) : WalkEnd × List Nat := walkFrom s l va 4 0 l.pt0 []

/-! ### Where an access goes -/

/-- A translated address: a local byte of main memory, a byte of vault memory, or a byte of another device (host memory
is device 2,047). -/
inductive PAddr where
  | main (pa : Nat)
  | vault (pa : Nat)
  | remote (dev pa : Nat) (rc : Bool)
  deriving DecidableEq, Repr

/-- The line request's target of an address. -/
def PAddr.target : PAddr → Target
  | .main pa => .home (pa / 128)
  | .vault pa => .home (pa / 128)
  | .remote d pa _ => .remote d (pa / 128)
def PAddr.isRemote : PAddr → Bool
  | .remote _ _ _ => true
  | _ => false
def PAddr.isMain : PAddr → Bool
  | .main _ => true
  | _ => false
def PAddr.byte : PAddr → Nat
  | .main pa => pa
  | .vault pa => pa
  | .remote _ pa _ => pa
/-- A line of another device that the L2 may hold: of a page with RC = 1, and no vault line (R53, R302). -/
def PAddr.cacheable : PAddr → Bool
  | .remote _ pa rc => rc && decide (pa < Config.mainBytes)
  | _ => false

/-- The rights an access needs (R68). -/
structure Need where
  r : Bool := false
  w : Bool := false
  x : Bool := false
  deriving DecidableEq, Repr

def Need.load : Need := { r := true }
def Need.store : Need := { w := true }
def Need.both : Need := { r := true, w := true }
def Need.fetch : Need := { x := true }

def Need.ok (n : Need) (e : DWord) : Bool := (!n.r || leafR e) && (!n.w || leafW e) && (!n.x || leafX e)

/-- The address a leaf gives, in the frame of a selection bit (R79). -/
def leafAddr (e : DWord) (lg va : Nat) (sel : Bool) : PAddr :=
  let pa := leafFrame e + (if leafDV e && sel then 2 ^ lg else 0) + va % 2 ^ lg
  if leafREM e then .remote (leafDev e) pa (leafRC e) else .main pa

/-- A TLB entry covers an address of a launch. -/
def TlbEntry.covers (t : TlbEntry) (launch : Word) (va : Nat) : Bool :=
  decide (t.launch = launch) && decide (va / 2 ^ t.lg = t.va / 2 ^ t.lg)

/-- The TLB entry a core uses for an address: its own, else its cluster's (R70). -/
def State.tlbFind (s : State) (core : Nat) (launch : Word) (va : Nat) : Option TlbEntry :=
  match s.fl.tlb.find? (fun t => decide (t.loc = core) && t.covers launch va) with
  | some t => some t
  | none => s.fl.xtlb.find? (fun t => decide (t.loc = clusterOf core) && t.covers launch va)

/-- A vault-space address lies in its vault and in the launch's grants (R51, R52). -/
def granted (l : Launch) (x : Nat) : Bool :=
  let off := x % Config.vaultSlot
  let v := x / Config.vaultSlot
  decide (x < Config.vaultSpan) && decide (off < Config.vaultBytes) &&
    l.grants.any (fun g => decide (g.vault = v) && decide (g.unit ≤ off / 65536) && decide (off / 65536 < g.unit + g.count))

/-- A virtual address lies in the vault window (R63). -/
def inWindow (va : Nat) : Bool := decide (Config.windowBase ≤ va) && decide (va < 2 ^ 56)

/-- Translation of one access (R63, R68, R79).  `shadow` reaches the other frame of a dual-version page; an address
without a DV leaf then raises an access violation (R92). -/
def State.resolve (s : State) (core : Nat) (l : Launch) (va : DWord) (a : Access) (n : Need) (shadow : Bool)
    (thread : Option Nat) : Res PAddr :=
  let v := va.toNat
  if 2 ^ 56 ≤ v then violation va thread
  else if inWindow v then
    if n.x || shadow then violation va thread
    else if granted l (v - Config.windowBase) then .ok (.vault (Config.vaultBase + (v - Config.windowBase)))
    else violation va thread
  else match s.tlbFind core l.id v with
    | none => .error (.miss v a thread)
    | some t =>
      if !n.ok t.leaf then violation va thread
      else if shadow && !leafDV t.leaf then violation va thread
      else .ok (leafAddr t.leaf t.lg v (xor t.sel shadow))

/-! ### Discards (R76, R80) -/

/-- A page of size 2^lg at va overlaps a byte range. -/
def overlaps (va lg lo len : Nat) : Bool :=
  let p := va / 2 ^ lg * 2 ^ lg
  decide (p < lo + len) && decide (lo < p + 2 ^ lg)

/-- The pages through which a launch reaches a byte range, now or by an entry that its tables held before: its TLB entries
and the leaves its walks have read, over the range, and the leaves its tables hold now for each 64 KiB unit. -/
def State.pagesOf (s : State) (l : Launch) (lo len : Nat) : List (Nat × Nat × DWord) :=
  ((s.fl.tlb ++ s.fl.xtlb).filter (fun t => decide (t.launch = l.id) && overlaps t.va t.lg lo len)).map
    (fun t => (t.va, t.lg, t.leaf)) ++
  (s.fl.leaves.filter (fun x => decide (x.launch = l.id) && overlaps x.va x.lg lo len)).map
    (fun x => (x.va, x.lg, x.entry)) ++
  (List.range (len / 65536)).filterMap (fun i =>
    match (s.walk l (lo + 65536 * i)).1 with
    | .leaf e lv => some (lo + 65536 * i, pageLg lv, e)
    | _ => none)

/-- A physical line lies in a page, in either frame, at an offset inside the range. -/
def lineIn (p : Nat × Nat × DWord) (lo len : Nat) (rem : Option Nat) (line : Nat) : Bool :=
  let (va, lg, e) := p
  let base := va / 2 ^ lg * 2 ^ lg
  let ok := match rem with
    | some d => leafREM e && decide (leafDev e = d)
    | none => !leafREM e
  ok && (List.range (if leafDV e then 2 else 1)).any (fun k =>
    let f := leafFrame e + k * 2 ^ lg
    decide (f ≤ 128 * line) && decide (128 * line < f + 2 ^ lg) &&
      decide (lo ≤ base + (128 * line - f)) && decide (base + (128 * line - f) < lo + len))

/-- Steps 1 and 2 of R76 for one launch: its TLB entries over the range, the L1 copies and L2-held remote copies of lines
it reaches through the range, and the installation of fills of those lines in flight (R281). -/
def State.discardRange (s : State) (l : Launch) (lo len : Nat) : State :=
  let ps := s.pagesOf l lo len
  let hit (line : Nat) : Bool := ps.any (fun p => lineIn p lo len none line)
  let hitR (d line : Nat) : Bool := ps.any (fun p => lineIn p lo len (some d) line)
  let gone (t : TlbEntry) : Bool := decide (t.launch = l.id) && overlaps t.va t.lg lo len
  let past (x : Leaf) : Bool := decide (x.launch = l.id) && decide (lo ≤ x.va) && decide (x.va + 2 ^ x.lg ≤ lo + len)
  let ops := s.fl.ops.map (fun o => { o with reqs := o.reqs.map (fun r =>
    match r.target with
    | .home ln => if hit ln then { r with install := false } else r
    | .remote d ln => if hitR d ln then { r with install := false } else r
    | .scratch _ => r) })
  { s with fl := { s.fl with
      tlb := s.fl.tlb.filter (fun t => !gone t)
      xtlb := s.fl.xtlb.filter (fun t => !gone t)
      leaves := s.fl.leaves.filter (fun x => !past x)
      l1 := s.fl.l1.filter (fun x => !hit x.line)
      l2 := s.fl.l2.filter (fun x => !hitR x.dev x.line)
      copies := s.fl.copies.map (Copy.spoil (fun t => match t with
        | .remote d ln => hitR d ln
        | _ => false))
      ops := ops } }

/-- A line request has been performed. -/
def LReq.performed (r : LReq) : Bool := decide (r.st = .performed) || decide (r.st = .delivered)
/-- Every line of an operation has been performed. -/
def MOp.performed (o : MOp) : Bool := o.reqs.all LReq.performed

/-- A line of memory, not of a scratchpad. -/
def Target.memory : Target → Bool
  | .scratch _ => false
  | _ => true

/-- A virtual line meets a byte range. -/
def vlineIn (lo len vline : Nat) : Bool := decide (lo < 128 * vline + 128) && decide (128 * vline < lo + len)

/-- The operations of a launch in flight that touch a virtual range and are not performed (R76 step 3). -/
def State.flyingOver (s : State) (launch : Word) (lo len : Nat) : List Nat :=
  (s.fl.ops.filter (fun o => decide (o.crew.team.launch = launch) && !o.performed &&
    o.reqs.zipIdx.any (fun r => !r.1.performed && r.1.target.memory && (vlineIn lo len r.1.vline ||
      o.accs.any (fun a => decide (a.req = r.2) && vlineIn lo len (a.va.toNat / 128)))))).map (·.id)

/-- The lines in a virtual range of a launch's copies in flight that are translated and not done (R76 step 3), or with
`whole` the untranslated ones as well: a copy uses one selection for a range to its end (R80). -/
def State.linesOver (s : State) (whole : Bool) (launch : Word) (lo len : Nat) : List (Nat × Nat) :=
  (s.fl.copies.filter (fun c => decide (c.crew.team.launch = launch))).flatMap (fun c =>
    (c.lines.zipIdx.filter (fun r => !r.1.done && (whole || r.1.asked.isSome) && vlineIn lo len r.1.vline)).map
      (fun r => (c.id, r.2)))

/-- Starts the discards of TLBINV, or with `whole` of FLIP, over a byte range for the launch named, or for every running
launch when 0 is named; the number names the operation that completes when the accesses in flight are performed (R76, R80). -/
def State.startInv (s : State) (id : Nat) (whole host : Bool) (launch : Word) (lo len : Nat) : State :=
  let ls := s.launches.filter (fun l => decide (launch = 0#32) || decide (l.id = launch))
  let ops := ls.flatMap (fun l => s.flyingOver l.id lo len)
  let lines := ls.flatMap (fun l => s.linesOver whole l.id lo len)
  let s := ls.foldl (fun s l => s.discardRange l lo len) s
  { s with fl := { s.fl with invs := s.fl.invs ++ [⟨id, host, launch, lo, len, ops, lines⟩] } }

/-- No access that an invalidation waits for is unperformed (R76 step 3). -/
def State.invDone (s : State) (i : Inv) : Bool :=
  i.ops.all (fun id => match s.opOf id with
    | some o => o.performed
    | none => true) &&
  i.lines.all (fun x => match s.fl.copies.find? (fun c => decide (c.id = x.1)) with
    | some c => (c.lines[x.2]?).all (·.done)
    | none => true)

/-! ### Code (R14, R315) -/

/-- The virtual address of a pc (R314). -/
def codeVa (l : Launch) (pc : Word) : Nat := l.codebase + pc.toNat

/-- A pc lies inside the kernel's code: below codelen, or, with codelen 0, in a page with X = 1 (R315). -/
def State.inCode (s : State) (l : Launch) (pc : Word) : Bool :=
  if l.codelen ≠ 0 then decide (pc.toNat < l.codelen)
  else if 2 ^ 56 ≤ codeVa l pc ∨ inWindow (codeVa l pc) then false
  else match (s.walk l (codeVa l pc)).1 with
    | .leaf e _ => leafX e
    | _ => false

/-- The values a code fetch of an aligned word may return: the word now if no write reached it since the launch started,
else the value it had then and each value stored since (R14). -/
def State.codeValues (s : State) (l : Launch) (pa : Nat) : List Word :=
  let since := (s.mem.history.drop l.start).filter (fun h => decide (h.1 = pa))
  let before := (s.mem.history.take l.start).filter (fun h => decide (h.1 = pa))
  match since with
  | [] => [s.wordAt pa]
  | _ => (match before.getLast? with
      | some h => h.2
      | none => 0#32) :: since.map (·.2)

/-- A violation of a code fetch names no address: only a memory instruction has an effective address (R364). -/
def noAddress {α : Type} (r : Res α) : Res α :=
  match r with
  | .error (.trap t) => .error (.trap { t with info := 0#64 })
  | _ => r

/-- Where the word at a pc stands: inside the code, translated with right X, in main memory or in another device (R66, R68,
R315); host memory takes no fetch (R309). -/
def State.fetchAt (s : State) (core : Nat) (l : Launch) (pc : Word) : Res PAddr :=
  if !s.inCode l pc then violation
  else do
    let p ← noAddress (s.resolve core l (BitVec.ofNat 64 (codeVa l pc)) .fetch Need.fetch false none)
    match p with
    | .main _ => .ok p
    | .remote d _ _ => if d = 2047 then violation else .ok p
    | .vault _ => violation

/-- A line in its home slice in whose granules of a mask no error waits to be found: reading it there changes nothing. -/
def State.intact (s : State) (line : Nat) (gr : BitVec 4) : Bool :=
  let m := s.lineMeta line
  s.mem.resident.contains line && !m.lost && decide ((m.bad ||| m.soft) &&& gr = 0#4)

/-- What the fetch of the word at a pc does to its line: it is read at its home (R57, R58). -/
def State.fetchTouch (s : State) (core : Nat) (l : Launch) (pc : Word) : State :=
  match s.fetchAt core l pc with
  | .ok (.main pa) =>
    let gr := 1#4 <<< (pa % 128 / 32)
    if s.intact (pa / 128) gr then s else s.homeRead (pa / 128) gr l.id
  | _ => s

/-- Fetches the word at a pc: its granule is not poisoned (R60); `choice` picks among the values R14 allows.  A line of
another device is waited for. -/
def State.fetch (s : State) (core : Nat) (l : Launch) (pc : Word) (choice : Nat) : Res Word := do
  match ← s.fetchAt core l pc with
  | .remote d pa _ =>
    match s.fl.code.find? (fun x => decide (x.launch = l.id) && decide (x.dev = d) && decide (x.line = pa / 128)) with
    | none => .error (.codeMiss d (pa / 128) (codeVa l pc / 128))
    | some x =>
      if x.poison.getLsbD (pa % 128 / 32) then trapOf 8 (BitVec.ofNat 64 (128 * (pa / 128)))
      else .ok (BitVec.ofNat 32 (lineNum x.data (pa % 128) 4))
  | p =>
    let pa := p.byte
    if (s.lineMeta (pa / 128)).poison.getLsbD (pa % 128 / 32) then trapOf 8 (BitVec.ofNat 64 (128 * (pa / 128)))
    else
      let vs := s.codeValues l pa
      .ok ((vs[choice % vs.length]?).getD 0#32)

end Sys2Proof.Machine
end

