-- ==== Sys2Proof/Machine/Control.lean ====
section
/-!
DEFINITION. Hints (R27 to R31), control flow (R320 to R322), the synchronising instructions (R324 to R330), TRAP and ERET
(R370), and the steps ENTRY_RAISED, YIELD_EXPIRE, RVARR_COUNT and QUOTA_MOVE.
-/

namespace Sys2Proof.Machine

/-! ### Hints -/

/-- A hint word joins its group; it consumes an issue opportunity and changes nothing else (R28, R31). -/
def hintWord (f : Hints → Hints) (s : State) : Host.Outcome State Fault Refusal :=
  match s.context with
  | .ok (n, c, _, _, g, _) =>
    let h := f g.hints
    let c := { c with group := some { g with pc := g.pc + 4#32, hints := { h with count := h.count + 1 } } }
    .next { s.setCrew n c with waited := false }
  | .error _ => .fault .noCrew

/-- HINT.IMM (R27, R30). -/
def execHintImm (p : BitVec 22) (s : State) : Host.Outcome State Fault Refusal :=
  hintWord (fun h => { h with imm := some p, twice := h.twice || h.imm.isSome }) s
/-- HINT.G: sense and predicate (R27). -/
def execHintG (s0 : BitVec 1) (p : BitVec 3) (s : State) : Host.Outcome State Fault Refusal :=
  hintWord (fun h => { h with g := some (s0 ++ p), twice := h.twice || h.g.isSome }) s
/-- HINT.C with a source register (R27). -/
def execHintC (r : BitVec 7) (s : State) : Host.Outcome State Fault Refusal :=
  hintWord (fun h => { h with c := some (r.setWidth 22), twice := h.twice || h.c.isSome }) s
/-- HINT.C with the scale tiles of MMAS (R27). -/
def execHintCScale (a b : BitVec 5) (s : State) : Host.Outcome State Fault Refusal :=
  hintWord (fun h => { h with c := some ((a ++ b).setWidth 22), twice := h.twice || h.c.isSome }) s
/-- HINT.RM (R27). -/
def execHintRm (r : BitVec 3) (s : State) : Host.Outcome State Fault Refusal :=
  hintWord (fun h => { h with rm := some r, twice := h.twice || h.rm.isSome }) s
/-- HINT.SC (R27). -/
def execHintSc (r : BitVec 3) (s : State) : Host.Outcome State Fault Refusal :=
  hintWord (fun h => { h with sc := some r, twice := h.twice || h.sc.isSome }) s
/-- HINT.DEP: count, second and first identifier (R27). -/
def execHintDep (c : BitVec 2) (s0 f : BitVec 6) (s : State) : Host.Outcome State Fault Refusal :=
  hintWord (fun h => { h with dep := some (c ++ s0 ++ f), twice := h.twice || h.dep.isSome }) s

/-! ### What a barrier or an EXIT waits for -/

/-- An access of a thread that R282 names and that is not yet performed. -/
def MOp.unperformed (o : MOp) : Bool :=
  match o.kind with
  | .amaxPush _ _ _ _ => true
  | .fetch => false
  | .ordClose _ _ counted => !counted
  | .pref _ => false
  | .rvarr _ => false
  | .xprog _ => false
  | .accdrain _ _ _ _ _ _ => false
  | .accsave _ _ _ => false
  | .accload _ _ _ => false
  | .preempt => false
  | .pop => false
  | _ => !o.performed

/-- An access to a scratchpad, own or remote. -/
def MOp.scratch (o : MOp) : Bool :=
  match o.kind with
  | .scLoad _ _ _ => true
  | .scStore _ _ => true
  | _ => false

/-- Threads of a crew have accesses issued before operation `before` that are not performed (R282). -/
def State.outstanding (s : State) (k : CrewKey) (mask : BitVec 32) (before : Nat) (scratchOnly : Bool) : Bool :=
  s.fl.ops.any (fun o => decide (o.crew = k) && decide (o.mask &&& mask ≠ 0#32) && decide (o.id < before) &&
    (!scratchOnly || o.scratch) && o.unperformed)

/-- A lane of the crew is parked or may yet park (R176). -/
def State.mayPark (s : State) (k : CrewKey) : Bool :=
  s.fl.fasts.any (fun f => decide (f.crew = k)) || s.fl.parks.any (fun p => decide (p.crew = k))

/-- An operation in flight that raises flags when it writes its register result: of those that outlast their issue only
AMAX.PUSH, since R156 excepts the atomics, MSADD, the copies and ACCDRAIN. -/
def OpKind.raises : OpKind → Bool
  | .amaxPush _ _ _ _ => true
  | _ => false

/-- FLAGS may still be changed by an earlier instruction of the crew that writes a register result (R156, R176). -/
def State.mayFlag (s : State) (k : CrewKey) : Bool :=
  s.mayPark k || s.fl.ops.any (fun o => decide (o.crew = k) && o.kind.raises)

/-! ### Control flow -/

/-- NOP (R322). -/
def execNop (s : State) : Host.Outcome State Fault Refusal := issueCrew .nop (fun c => .ok c.crew) s

/-- The address of a word-relative target (R322). -/
def relTarget {w : Nat} (g : Group) (d : BitVec w) : Word := g.pc + (d.signExtend 32 <<< 2)

/-- BRA: the threads whose predicate matches go to the target at the given priority (R322, R318). -/
def execBra (g : BitVec 3) (s0 : BitVec 1) (p : BitVec 6) (d : BitVec 16) (s : State) :
    Host.Outcome State Fault Refusal :=
  issue (.bra g s0 p d) (fun c s => do
    let cond (t : Nat) : Bool := xor (c.crew.p g.toNat t) (decide (s0 = 1#1))
    c.agree 5 cond
    let taken := maskOf (c.threads.filter cond)
    let rest := c.ent.mask &&& ~~~taken
    let keep := decide (taken ≠ 0#32) && decide (rest ≠ 0#32)
    .ok (s.setCrew c.n (c.crew.split c.grp keep
      [(taken, relTarget c.grp d, p), (rest, c.next, c.ent.prio)]))) s

/-- JMP (R322). -/
def execJmp (p : BitVec 5) (d : BitVec 20) (s : State) : Host.Outcome State Fault Refusal :=
  issue (.jmp p d) (fun c s =>
    .ok (s.setCrew c.n (c.crew.split c.grp false [(c.ent.mask, relTarget c.grp d, p.setWidth 6)]))) s

/-- A thread's link stack, top first. -/
def Crew.links? (c : Crew) (t : Nat) : List Link := Cells.get [] c.links t

/-- CALL: every thread of the entry pushes the next pc and the entry's priority (R320, R322). -/
def execCall (p : BitVec 5) (d : BitVec 20) (s : State) : Host.Outcome State Fault Refusal :=
  issue (.call p d) (fun c s => do
    match c.threads.find? (fun t => decide (8 ≤ (c.crew.links? t).length)) with
    | some t => trapOf 1 0#64 (some t)
    | none => .ok ()
    let l := c.threads.map (fun t => (t, ({ pc := c.next, prio := c.ent.prio } : Link) :: c.crew.links? t))
    let cr := { c.crew with links := Cells.setAll [] c.crew.links l }
    .ok (s.setCrew c.n (cr.split c.grp false [(c.ent.mask, relTarget c.grp d, p.setWidth 6)]))) s

/-- The links that threads hold on top, each once, with the mask of its threads. -/
def topLinks (c : Crew) (ts : List Nat) : List (BitVec 32 × Word × BitVec 6) :=
  let tops := (ts.filterMap (fun t => (c.links? t).head?)).eraseDups
  tops.map (fun k => (maskOf (ts.filter (fun t => decide ((c.links? t).head? = some k))), k.pc, k.prio))

/-- RET: every active thread pops its top link; the others go on (R318, R320). -/
def execRet (s : State) : Host.Outcome State Fault Refusal :=
  issue .ret (fun c s => do
    match c.threads.find? (fun t => (c.crew.links? t).isEmpty) with
    | some t => trapOf 1 0#64 (some t)
    | none => .ok ()
    let cr := { c.crew with links := Cells.setAll [] c.crew.links (c.threads.map (fun t => (t, (c.crew.links? t).tail))) }
    .ok (s.setCrew c.n (cr.split c.grp false
      ((c.ent.mask &&& ~~~c.act, c.next, c.ent.prio) :: topLinks c.crew c.threads)))) s

/-- A pc is a multiple of 4 inside the kernel's code. -/
def State.goodPc (s : State) (l : Launch) (pc : Word) : Bool := decide (pc.toNat % 4 = 0) && s.inCode l pc

/-- BRX: the active threads go to the pc in s(a) (R322). -/
def execBrx (a b : BitVec 6) (s : State) : Host.Outcome State Fault Refusal :=
  issue (.brx a b) (fun c s => do
    let target := c.crew.u a.toNat
    ensure (s.goodPc c.launch target) violation
    .ok (s.setCrew c.n (c.crew.split c.grp false [(c.act, target, b), (c.ent.mask &&& ~~~c.act, c.next, c.ent.prio)]))) s

/-- The entry of the group goes on to the next word and gives away its crew's next n issue opportunities. -/
def Crew.yielded (c : Crew) (g : Group) (next : Word) (n : Nat) : Crew :=
  { c with
    entries := settle (c.entries.map (fun e =>
      if e.mask.getLsbD g.thread then { e.issued with pc := next, yield := n + 1 } else e))
    group := none
    started := true }

/-- YIELD: the entry gives away its crew's next 16 issue opportunities (R322). -/
def execYield (s : State) : Host.Outcome State Fault Refusal :=
  issue .yield (fun c s => .ok (s.setCrew c.n (c.crew.yielded c.grp c.next 16))) s

/-- SETPRIO (R322). -/
def execSetprio (b : BitVec 6) (s : State) : Host.Outcome State Fault Refusal :=
  issue (.setprio b) (fun c s => .ok (s.setCrew c.n (c.crew.split c.grp false [(c.ent.mask, c.next, b)]))) s

/-! ### Ends of crews and teams -/

/-- A crew has ended (R313). -/
def Crew.gone (c : Crew) : Bool := c.entries.isEmpty
/-- The crews of a team. -/
def State.crewsOf (s : State) (k : TeamKey) : List Crew := s.crews.filter (fun c => decide (c.key.team = k))
/-- The teams of a gang. -/
def State.teamsOf (s : State) (launch : Word) (g : Nat) : List Team :=
  s.teams.filter (fun t => decide (t.key.launch = launch) && decide (t.key.gang = g))

/-- The gang's open GBAR phase closes when every crew of every team has arrived or ended (R329). -/
def State.closeGbar (s : State) (launch : Word) (g : Nat) : State :=
  let ts := s.teamsOf launch g
  let all := ts.all (fun t => (s.crewsOf t.key).all (fun c => c.gone || t.garr.getLsbD c.key.crew))
  if all && ts.any (fun t => decide (t.garr ≠ 0#32)) then
    { s with
      teams := s.teams.map (fun t => if t.key.launch = launch ∧ t.key.gang = g then
        { t with garr := 0#32, gphase := t.gphase + 1#32 } else t)
      crews := s.crews.map (fun c => if c.key.team.launch = launch ∧ c.key.team.gang = g ∧ c.wait = .gbar then
        { c with wait := .free } else c) }
  else s

/-- The open BAR.T phase of a team closes when every crew of its mask has arrived (R327). -/
def State.closeBarT (s : State) (k : TeamKey) : State :=
  match s.teamOf k with
  | some t =>
    if t.bmask ≠ 0#32 ∧ t.barr = t.bmask then
      { s.mapTeam k (fun t => { t with bmask := 0#32, barr := 0#32 }) with
        crews := s.crews.map (fun c => if c.key.team = k ∧ c.wait = .barT then { c with wait := .free } else c) }
    else s
  | none => s

/-- A QUOTA of the team that waits for a crew that has ended issues afresh, and traps then (R330). -/
def State.wakeQuota (s : State) (k : CrewKey) : State :=
  { s with crews := s.crews.map (fun c =>
      match c.quotaW with
      | some q =>
        if c.key.team = k.team ∧ q.partner = k.crew then
          { c.mapEntry q.thread (fun e => { e with hold := .free }) with quotaW := none }
        else c
      | none => c) }

/-- What follows when threads of a crew have ended: the crew ends with its last thread, its team with its last crew, and
the gang is over when its last team is (R313). -/
def State.afterExit (s : State) (k : CrewKey) : State :=
  match s.crewOf k with
  | some c =>
    if c.gone then
      let s := (s.wakeQuota k).closeGbar k.team.launch k.team.gang
      if (s.crewsOf k.team).all Crew.gone then
        let s := s.mapTeam k.team (fun t => { t with st := .ended })
        if (s.teamsOf k.team.launch k.team.gang).all (fun t => decide (t.st = .ended)) then
          s.mapGang k.team.launch k.team.gang (fun g => if g.kill.isNone then { g with st := .ended } else g)
        else s
      else s
    else s
  | none => s

/-- EXIT: the active threads end (R322); it waits while a lane of the crew is parked or may park (R176). -/
def execExit (s : State) : Host.Outcome State Fault Refusal :=
  issue .exit (fun c s => do
    match c.threads.find? (fun t => c.crew.smask.getLsbD t) with
    | some t => trapOf 2 0#64 (some t)
    | none => .ok ()
    let last := decide (c.crew.live &&& ~~~c.act = 0#32)
    ensure (!(last && c.team.bmask.getLsbD c.crew.key.crew)) syncMismatch
    if s.mayPark c.crew.key then .error .wait
    else
      let cr := c.crew.split c.grp false [(c.ent.mask &&& ~~~c.act, c.next, c.ent.prio)]
      .ok ((s.setCrew c.n { cr with ended := cr.ended ||| c.act }).afterExit c.crew.key)) s

/-! ### Synchronising instructions -/

/-- A crew-level instruction waits until its entry holds every live thread of the crew (R325). -/
def Ctx.whole (c : Ctx) : Res Unit := if c.ent.mask = c.crew.live then .ok () else .error .wait

/-- A mask has a bit at or above W (R326, R332). -/
def aboveW (c : Ctx) (m : Word) : Bool := decide (2 ^ c.W ≤ m.toNat)

/-- The threads whose part in a phase of mask m mismatches it: of the entry those that are not of the mask or have arrived,
and those of the mask that have ended (R326). -/
def Ctx.syncFoul (c : Ctx) (m : Word) : BitVec 32 :=
  (c.ent.mask &&& (~~~m ||| c.crew.sarr)) ||| (m &&& c.crew.ended)

/-- SYNC.C (R326). -/
def execSyncC (a : BitVec 6) (s : State) : Host.Outcome State Fault Refusal :=
  issue (.syncC a) (fun c s => do
    let m := c.crew.u a.toNat
    ensure (decide (m ≠ 0#32) && !aboveW c m) syncMismatch
    ensure (decide (c.crew.smask = 0#32) || decide (m = c.crew.smask)) syncMismatch
    match threadsOf (c.syncFoul m) with
    | t :: _ => trapOf 2 0#64 (some t)
    | [] => .ok ()
    if s.outstanding c.crew.key c.ent.mask s.serial false then .error .wait
    else
      let arr := c.crew.sarr ||| c.ent.mask
      let es := c.crew.entries.map (fun e =>
        if e.mask.getLsbD c.grp.thread then { e.issued with pc := c.next, blocked := true } else e)
      let cr := { c.crew with group := none, started := true, entries := es, smask := m, sarr := arr }
      let cr := if arr = m then
          { cr with smask := 0#32, sarr := 0#32, entries := settle (es.map (fun e => { e with blocked := false })) }
        else cr
      .ok (s.setCrew c.n cr)) s

/-- BAR.T (R327). -/
def execBarT (a : BitVec 6) (s : State) : Host.Outcome State Fault Refusal :=
  issue (.barT a) (fun c s => do
    c.whole
    let m := c.crew.u a.toNat
    let me := c.crew.key.crew
    let cs := s.crewsOf c.team.key
    ensure (decide (m ≠ 0#32) && !aboveW c m) syncMismatch
    ensure ((threadsOf m).all (fun i => cs.any (fun x => decide (x.key.crew = i)))) syncMismatch
    ensure (decide (c.team.bmask = 0#32) || decide (m = c.team.bmask)) syncMismatch
    ensure (m.getLsbD me && !c.team.barr.getLsbD me) syncMismatch
    ensure (cs.all (fun x => !(x.gone && m.getLsbD x.key.crew))) syncMismatch
    if s.outstanding c.crew.key 0xFFFFFFFF#32 s.serial false then .error .wait
    else
      let s := c.go s (fun cr => { cr with wait := .barT })
      let s := s.mapTeam c.team.key (fun t => { t with bmask := m, barr := t.barr ||| (1#32 <<< me) })
      .ok (s.closeBarT c.team.key)) s

/-- GBAR (R329): it waits for scratchpad accesses, and for every access when the gang has one team and so runs on one core
(R282, R283). -/
def execGbar (s : State) : Host.Outcome State Fault Refusal :=
  issue .gbar (fun c s => do
    c.whole
    let k := c.team.key
    let one := decide ((s.teamsOf k.launch k.gang).length = 1)
    if s.outstanding c.crew.key 0xFFFFFFFF#32 s.serial (!one) then .error .wait
    else
      let s := c.go s (fun cr => { cr with wait := .gbar })
      let s := s.mapTeam k (fun t => { t with garr := t.garr ||| (1#32 <<< c.crew.key.crew) })
      .ok (s.closeGbar k.launch k.gang)) s

/-- A point that has not been initialised, in phase 0 (R328). -/
def Point.fresh : Point where
  init := false
  count := 0
  left := 0
  phase := 0#32

def Team.point (t : Team) (n : Nat) : Point := Cells.get Point.fresh t.points n
def Team.setPoint (t : Team) (n : Nat) (p : Point) : Team := { t with points := Cells.set Point.fresh t.points n p }

/-- RVINIT (R328). -/
def execRvinit (a b : BitVec 6) (s : State) : Host.Outcome State Fault Refusal :=
  issue (.rvinit a b) (fun c s => do
    let e := (c.crew.u a.toNat).toNat
    ensure (decide (1 ≤ e) && decide (e ≤ 65536)) violation
    ensure (!(c.team.point b.toNat).init) violation
    let s := s.mapTeam c.team.key (fun t =>
      t.setPoint b.toNat { t.point b.toNat with init := true, count := e, left := e })
    .ok (c.go s id)) s

/-- An operation of a crew with no memory lines. -/
def Ctx.plainOp (c : Ctx) (id : Nat) (kind : OpKind) (udest : Option RegDest) : MOp where
  id := id
  crew := c.crew.key
  core := c.team.core
  kind := kind
  mask := c.act
  vdest := none
  udest := udest
  rm := c.rm
  scope := c.scope
  pc := c.grp.first
  since := 0
  accs := []
  reqs := []

/-- An operation enters flight under the next number, which it also consumes. -/
def State.addOp (s : State) (o : MOp) : State :=
  { s with serial := s.serial + 1, fl := { s.fl with ops := s.fl.ops ++ [o] } }

/-- RVARR: the arrival is counted by RVARR_COUNT; s(d) is pending until then (R328). -/
def execRvarr (d b : BitVec 6) (s : State) : Host.Outcome State Fault Refusal :=
  issue (.rvarr d b) (fun c s => do
    ensure (c.team.point b.toNat).init violation
    let id := s.serial
    let s := s.addOp (c.plainOp id (.rvarr b.toNat) (some ⟨d.setWidth 7, 1⟩))
    .ok (c.go s (fun cr => cr.mark id [.u d.toNat]))) s

/-- RVWAIT (R328). -/
def execRvwait (a b : BitVec 6) (s : State) : Host.Outcome State Fault Refusal :=
  issue (.rvwait a b) (fun c s => do
    let p := c.team.point b.toNat
    ensure p.init violation
    let d := (p.phase - c.crew.u a.toNat).toNat
    if 1 ≤ d ∧ d ≤ 2 ^ 31 then .ok (c.go s id) else .error .wait) s

/-- RVARR_COUNT: the accesses R282 names are performed, so the arrival is counted; the phase may advance (R328). -/
def execRvarrCount (op : Nat) (s : State) : Host.Outcome State Fault Refusal :=
  event (fun s => do
    match s.opOf op with
    | some o =>
      match o.kind, s.teamOf o.crew.team, o.udest with
      | .rvarr n, some t, some d =>
        if s.outstanding o.crew 0xFFFFFFFF#32 o.id false then .error .disabled
        else
          let p := t.point n
          let q := if p.left ≤ 1 then { p with left := p.count, phase := p.phase + 1#32 } else { p with left := p.left - 1 }
          let s := s.mapTeam t.key (fun t => t.setPoint n q)
          let s := s.mapCrew o.crew (fun c => (c.putU d.field.toNat p.phase).unmark op)
          .ok (s.dropOp op)
      | _, _, _ => .error .disabled
    | none => .error .disabled) s

/-! ### Register quotas (R330, R130) -/

/-- The granules a giver would lose hold a pending register. -/
def Crew.topPending (c : Crew) (g : Nat) : Bool :=
  c.pend.any (fun p => match p.reg with
    | .v n => decide (8 * (c.quota - g) ≤ n) && decide (n < 8 * c.quota)
    | .u _ => false)

/-- The move of g granules at one instant: the giver's top registers are discarded, the receiver's new ones read zero. -/
def giveGranules (x : Crew) (g : Nat) : Crew :=
  { x with
    quota := x.quota - g
    vregs := Cells.keep (fun k => decide (k / 32 < 8 * (x.quota - g))) x.vregs
    vbad := x.vbad.filter (fun k => decide (k < 8 * (x.quota - g))) }
def takeGranules (x : Crew) (g : Nat) : Crew := { x with quota := x.quota + g }

/-- The group a waiting QUOTA would issue again from. -/
def QuotaWait.group (q : QuotaWait) : Group where
  thread := q.thread
  first := q.pc
  pc := q.pc
  hints := Hints.empty

/-- The waiting QUOTAs of a team's crews that name crew `me`, but for that of crew p (R330). -/
def State.quotaFoes (s : State) (k : TeamKey) (me p : Nat) : List (CrewKey × QuotaWait) :=
  s.crews.filterMap (fun x => match x.quotaW with
    | some q => if x.key.team = k ∧ q.partner = me ∧ x.key.crew ≠ p then some (x.key, q) else none
    | none => none)

/-- A trap strikes a crew that waits in a QUOTA: it waits no more. -/
def State.quotaTrap (s : State) (k : CrewKey) (q : QuotaWait) (cause : Nat) : State :=
  let s := s.mapCrew k (fun x => { x.mapEntry q.thread (fun e => { e with hold := .free }) with quotaW := none })
  match s.crewIx k with
  | some m => s.trapCrew m q.group { cause := cause }
  | none => s

/-- A QUOTA of a crew: the first of a pair waits; the second traps in both where R330 forbids the pair, and otherwise
waits with the first for QUOTA_MOVE.  A crew that waits in a QUOTA and names this one, while this one names another, is
trapped with it: its partner's QUOTA names a third crew.  The crew named is looked at as the QUOTA issues (DEDUCED: log entry
114). -/
def quota (give : Bool) (a b : BitVec 6) (c : Ctx) (s : State) : Res State := do
  c.whole
  let p := a.toNat
  let g := b.toNat
  let me := c.crew.key.crew
  ensure (decide (p ≠ me)) syncMismatch
  let pk : CrewKey := { team := c.team.key, crew := p }
  match s.crewOf pk with
  | some pc =>
    ensure (!pc.gone) syncMismatch
    let foes := s.quotaFoes c.team.key me p ++ (match pc.quotaW with
      | some q => if q.partner ≠ me ∨ q.give = give ∨ q.gran ≠ g then [(pk, q)] else []
      | none => [])
    let held := s.setCrew c.n { c.crew.mapEntry c.grp.thread (fun e => { e with hold := .quota }) with
      group := none
      quotaW := some ⟨give, p, g, c.grp.thread, c.grp.first⟩ }
    if !foes.isEmpty then
      .error (.struck ((foes.foldl (fun s x => s.quotaTrap x.1 x.2 2) s).trapCrew c.n c.grp { cause := 2 }))
    else match pc.quotaW with
      | none => .ok held
      | some q =>
        let giver := if give then c.crew else pc
        let taker := if give then pc else c.crew
        if giver.quota < g + 1 ∨ 12 < taker.quota + g then
          .error (.struck ((s.quotaTrap pk q 1).trapCrew c.n c.grp { cause := 1 }))
        else .ok held
  | none => syncMismatch

/-- QUOTA.GIVE (R330). -/
def execQuotaGive (a b : BitVec 6) (s : State) : Host.Outcome State Fault Refusal :=
  issue (.quotaGive a b) (quota true a b) s
/-- QUOTA.TAKE (R330). -/
def execQuotaTake (a b : BitVec 6) (s : State) : Host.Outcome State Fault Refusal :=
  issue (.quotaTake a b) (quota false a b) s

/-- A QUOTA that has moved retires: its entry is free and goes on. -/
def Crew.quotaDone (c : Crew) (q : QuotaWait) : Crew :=
  { ({ c.mapEntry q.thread (fun e => { e with hold := .free }) with quotaW := none }).advance q.group (q.pc + 4#32) with
    group := c.group }

/-- QUOTA_MOVE: the giver at this position and its partner have both issued, and the giver's top granules hold no pending
register (R330, R176). -/
def execQuotaMove (crew : Nat) (s : State) : Host.Outcome State Fault Refusal :=
  event (fun s =>
    match s.crews[crew]? with
    | some x =>
      match x.quotaW with
      | some q =>
        let pk : CrewKey := { team := x.key.team, crew := q.partner }
        match s.crewOf pk with
        | some y =>
          match y.quotaW with
          | some r =>
            if q.give ∧ !r.give ∧ r.partner = x.key.crew ∧ r.gran = q.gran ∧ !x.topPending q.gran then
              let s := s.setCrew crew ((giveGranules x q.gran).quotaDone q)
              .ok (s.mapCrew pk (fun y => (takeGranules y q.gran).quotaDone r))
            else .error .disabled
          | none => .error .disabled
        | none => .error .disabled
      | none => .error .disabled
    | none => .error .disabled) s

/-! ### The frontier's own steps -/

/-- ENTRY_RAISED: an entry whose age has reached 1,024 is raised; it takes the present raise position (R316, R318). -/
def execEntryRaised (crew thread : Nat) (s : State) : Host.Outcome State Fault Refusal :=
  event (fun s =>
    match s.crews[crew]? with
    | some c => match c.entryOf thread with
      | some e =>
        if 1024 ≤ e.age ∧ e.raised = none then
          .ok (s.setCrew crew (c.mapEntry thread (fun e => { e with raised := some c.raises })))
        else .error .disabled
      | none => .error .disabled
    | none => .error .disabled) s

/-- YIELD_EXPIRE: the 16 opportunities have passed and the entry is ready again (R322). -/
def execYieldExpire (crew thread : Nat) (s : State) : Host.Outcome State Fault Refusal :=
  event (fun s =>
    match s.crews[crew]? with
    | some c => match c.entryOf thread with
      | some e =>
        if e.yield = 1 then .ok (s.setCrew crew (c.mapEntry thread (fun e => { e with yield := 0 })).settled)
        else .error .disabled
      | none => .error .disabled
    | none => .error .disabled) s

/-! ### TRAP and ERET (R370) -/

/-- TRAP n: cause 7; the handler is entered if one is armed, and otherwise the gang is killed. -/
def execTrap (b : BitVec 6) (s : State) : Host.Outcome State Fault Refusal :=
  issue (.trap b) (fun _ _ => .error (.trap { cause := 7, info := b.setWidth 64, code := b })) s

/-- ERET: the entry moves whole to (EPC, EPRIO) (R367, R370). -/
def execEret (s : State) : Host.Outcome State Fault Refusal :=
  issue .eret (fun c s => do
    ensure c.launch.priv violation
    ensure (s.goodPc c.launch c.crew.epc) violation
    .ok (s.setCrew c.n (c.crew.split c.grp false [(c.ent.mask, c.crew.epc, c.crew.eprio.setWidth 6)]))) s

end Sys2Proof.Machine
end

