-- ==== Sys2Proof/Machine/Access.lean ====
section
/-!
DEFINITION. The accesses of an instruction to memory: their checks (R124, R75), the coalescing into line requests (R112),
the caches they may be served from (R109, R110, R115, R250, R302), miss-status entries (R113, R114), and which access must
wait for which (R111, R275, R281).
-/

namespace Sys2Proof.Machine

/-! ### Sizes (R21) -/

/-- Bytes of a size code. -/
def zBytes (z : BitVec 3) : Nat :=
  match z.toNat with
  | 0 => 1
  | 1 => 1
  | 2 => 2
  | 3 => 2
  | 4 => 4
  | 5 => 8
  | _ => 16
/-- A size code that sign-extends. -/
def zSigned (z : BitVec 3) : Bool := z == 1#3 || z == 3#3

/-- Bytes of one access of an operation at its address. -/
def OpKind.bytes : OpKind → Nat
  | .load n _ => n
  | .store n => n
  | .scLoad n _ _ => n
  | .scStore n _ => n
  | .atomic op _ _ => if op = 1 ∨ op = 10 ∨ op = 12 then 8 else 4
  | .atomf dbl _ => if dbl then 8 else 4
  | .msadd _ => 2
  | .cwr => 4
  | _ => 1

/-- An operation that writes memory or a scratchpad: those that WALL covers (R248). -/
def OpKind.writes : OpKind → Bool
  | .store _ => true
  | .scStore _ _ => true
  | .atomic _ _ _ => true
  | .atomf _ _ => true
  | .msadd _ => true
  | .cwr => true
  | .flip _ _ => true
  | .amaxPush _ _ _ _ => true
  | .ordAtom _ => true
  | _ => false

/-- A store, an atomic or a memory-side command: what PFENCE.C waits for (R118). -/
def OpKind.fenced (k : OpKind) : Bool := k.writes || decide (k = .vers)

/-- A load, or a prefetch, that fetches lines from their homes. -/
def OpKind.fetches : OpKind → Bool
  | .load _ _ => true
  | .pref _ => true
  | _ => false

/-! ### Checks -/

/-- One thread's access: slot, effective address, data and second operand. -/
structure Want where
  slot : Nat
  ea   : DWord
  data : BitVec 128
  aux  : BitVec 128
  deriving DecidableEq, Repr

/-- How a translation ends (R75): at a line, where the instruction does not accept it `refused`; without the right; outside
the address space; at an invalid entry of a page and a level; at a malformed entry. -/
inductive Fate where
  | to (target : Target)
  | refused
  | rights
  | range
  | fault (page level : Nat)
  | malformed
  deriving DecidableEq, Repr

/-- A translation that ends in an access violation (R63, R67, R68, R124). -/
def Fate.violates : Fate → Bool
  | .refused => true
  | .rights => true
  | .range => true
  | .malformed => true
  | _ => false

/-- The selection bit of a leaf's range (R79). -/
def leafSel (l : Launch) (e : DWord) : Bool :=
  leafDV e && (match l.dvs[leafRange e]? with
    | some r => r.sel
    | none => false)

/-- A launch has read the leaf of a page of size 2^lg: it is kept with the lines the launch reaches through it (R76). -/
def State.noteLeaf (s : State) (l : Launch) (va lg : Nat) (leaf : DWord) : State :=
  let x : Leaf := ⟨l.id, va / 2 ^ lg * 2 ^ lg, lg, leaf⟩
  if s.fl.leaves.contains x then s else { s with fl := { s.fl with leaves := s.fl.leaves ++ [x] } }

/-- The launch has read the leaf that its tables hold for an address, if they hold one. -/
def State.seeLeaf (s : State) (l : Launch) (va : DWord) : State :=
  match (s.walk l va.toNat).1 with
  | .leaf e lv => s.noteLeaf l va.toNat (pageLg lv) e
  | _ => s

/-- How the translation of an address ends, from the TLBs or from the tables, for an instruction that accepts some places. -/
def State.fateOf (s : State) (core : Nat) (l : Launch) (va : DWord) (n : Need) (accept : PAddr → Bool) : Fate :=
  let v := va.toNat
  let at' (p : PAddr) : Fate := if accept p then .to p.target else .refused
  if 2 ^ 56 ≤ v then .range
  else if inWindow v then
    if granted l (v - Config.windowBase) then at' (.vault (Config.vaultBase + (v - Config.windowBase))) else .range
  else
    let go (e : DWord) (lg : Nat) (sel : Bool) : Fate := if n.ok e then at' (leafAddr e lg v sel) else .rights
    match s.tlbFind core l.id v with
    | some t => go t.leaf t.lg t.sel
    | none => match (s.walk l v).1 with
      | .leaf e lv => go e (pageLg lv) (leafSel l e)
      | .invalid lv => .fault (v / 65536) lv
      | .malformed _ => .malformed

/-- How the translation of an address ends. -/
def State.fate (s : State) (core : Nat) (l : Launch) (va : DWord) (n : Need) : Fate := s.fateOf core l va n (fun _ => true)

/-- The reads of table entries, in order, up to the first whose granule is poisoned: the machine, and that entry's line
(R58, R60). -/
def State.readEntries (s : State) (launch : Word) : List Nat → State × Option Nat
  | [] => (s, none)
  | pa :: rest =>
    let gr := granulesOf [pa % 128]
    let s := s.homeRead (pa / 128) gr launch
    if (s.lineMeta (pa / 128)).poison &&& gr ≠ 0#4 then (s, some (pa / 128)) else s.readEntries launch rest

/-- The line that an address translates to with some rights.  A translation that no TLB holds is read from the tables, its
entries at their homes, and is kept; through a poisoned entry it gives none (R58, R60). -/
def State.probe (s : State) (core : Nat) (l : Launch) (va : DWord) (n : Need) : State × Option Target :=
  let v := va.toNat
  let stop (s : State) : Option Target := match s.fate core l va n with
    | .to t => some t
    | _ => none
  if 2 ^ 56 ≤ v ∨ inWindow v ∨ (s.tlbFind core l.id v).isSome then (s, stop s)
  else
    let (s, foul) := s.readEntries l.id (s.walk l v).2
    if foul.isSome then (s, none) else (s.seeLeaf l va, stop s)

/-- In a protected launch the translations of the two members of each thread in ts end alike, or a silent error is detected,
unless an access violation that both meet has the lower cause code (R75, R361). -/
def Ctx.membersAgree (c : Ctx) (s : State) (size : Nat) (n : Need) (accept : PAddr → Bool) (ts : List Nat)
    (ea : Nat → DWord) : Res Unit :=
  if c.launch.prot then
    let fate (k : Nat) : Fate := s.fateOf c.team.core c.launch (ea k) n accept
    let odd (k : Nat) : Bool := decide ((ea k).toNat % size ≠ 0)
    let bad (t : Nat) : Bool := odd t || odd (t + 16) || (decide (fate t = fate (t + 16)) && (fate t).violates)
    match ts.find? bad with
    | some t => violation (ea t) (some t)
    | none => match ts.find? (fun t => !decide (fate t = fate (t + 16))) with
      | some t => silentError 2 (some t)
      | none => .ok ()
  else .ok ()

/-- The slots that make accesses of their own: every slot for a load; a thread's primary slot for a store, whose members
have been compared (R124). -/
def wants (slots : List Nat) (ea : Nat → DWord) (data aux : Nat → BitVec 128) : List Want :=
  slots.map (fun k => ⟨k, ea k, data k, aux k⟩)

/-- No data. -/
def noData (_ : Nat) : BitVec 128 := 0#128

/-- The checks of the accesses of the slots, thread by thread: alignment, range, translation, rights, and what the
instruction accepts (R124).  In a protected launch both members' translations are compared first, and then what else
`agrees` compares, so that no walk starts for members that differ (R75, R139). -/
def Ctx.place (c : Ctx) (s : State) (size : Nat) (a : Access) (n : Need) (accept : PAddr → Bool) (slots : List Nat)
    (ea : Nat → DWord) (data aux : Nat → BitVec 128) (agrees : Res Unit) : Res (List (Want × PAddr)) := do
  c.membersAgree s size n accept c.threads ea
  agrees
  (wants slots ea data aux).mapM (fun w => do
    let t := some (c.ownThread w.slot)
    ensure (decide (w.ea.toNat % size = 0)) (violation w.ea t)
    let p ← s.resolve c.team.core c.launch w.ea a n false t
    ensure (accept p) (violation w.ea t)
    .ok (w, p))

/-- Host memory accepts LD, ST, ULD and copies only (R309). -/
def notHost : PAddr → Bool
  | .remote d _ _ => decide (d ≠ 2047)
  | _ => true
/-- The scope of an atomic or a memory-side command reaches its target (R254); host memory refuses it (R309). -/
def inScope (sc : BitVec 3) (p : PAddr) : Bool := notHost p && (!p.isRemote || (3#3).ule sc)

/-! ### Coalescing (R112) -/

/-- The access of a slot within request i. -/
def Want.acc (w : Want) (i : Nat) : Acc := ⟨w.slot, w.ea, i, w.data, w.aux, 0#128, false⟩

/-- The accesses and their line requests, one per distinct line, in the order in which the threads first name it; a fill is
installed where every access of the line allows it (R112).  A line that two virtual lines name is one line. -/
def coalesce (mk : Want → PAddr → LReq) (ps : List (Want × PAddr)) : List Acc × List LReq :=
  ps.foldl (fun acc p =>
    let r := mk p.1 p.2
    match findIx (fun x => decide (x.target = r.target)) acc.2 with
    | some i => (acc.1 ++ [p.1.acc i], acc.2.modify i (fun x => { x with install := x.install && r.install }))
    | none => (acc.1 ++ [p.1.acc acc.2.length], acc.2 ++ [r])) ([], [])

/-- The request of an access that a home or another device serves. -/
def homeReq (install : Bool) (w : Want) (p : PAddr) : LReq :=
  LReq.new p.target (w.ea.toNat / 128) .home install

/-! ### Which access waits for which -/

/-- Two accesses, of n and of m bytes, are of one thread and share a byte.  A ULD, whose slot is 32 or 33, counts as an
access of every thread (R199). -/
def shareByte (prot : Bool) (n m : Nat) (a b : Acc) : Bool :=
  let th (x : Nat) : Nat := if prot then x % 16 else x
  let x := a.va.toNat % 2 ^ 18
  let y := b.va.toNat % 2 ^ 18
  (decide (th a.slot = th b.slot) || decide (32 ≤ a.slot) || decide (32 ≤ b.slot)) && decide (x < y + m) && decide (y < x + n)

/-- Request i of one operation and request j of another hold accesses of one thread to one byte of a line or of a
scratchpad. -/
def MOp.conflict (prot : Bool) (o : MOp) (i : Nat) (p : MOp) (j : Nat) : Bool :=
  let cut (x : Acc) : Acc := match (o.reqs[i]?).map (·.target) with
    | some (Target.scratch _) => x
    | _ => { x with va := BitVec.ofNat 64 (x.va.toNat % 128) }
  (o.accsOf i).any (fun a => (p.accsOf j).any (fun b =>
    shareByte prot o.kind.bytes p.kind.bytes (cut a) (cut b)))

/-- Request i of an operation must wait: an earlier access of the same thread to a byte of it is not performed (R275), or
it fetches a line to which an earlier write of the core has not been performed, on the constant path too (R111, R281).  A
CWR that its home holds does not hold up loads of other bytes or threads (R290); their answers are not installed. -/
def State.blocked (s : State) (o : MOp) (i : Nat) (r : LReq) : Bool :=
  let prot := (s.launchOf o.crew.team.launch).any (·.prot)
  s.fl.ops.any (fun p => decide (p.id < o.id) && p.reqs.zipIdx.any (fun q =>
    !q.1.performed && decide (q.1.target = r.target) &&
      ((o.kind.fetches && p.kind.writes && decide (p.core = o.core) && decide (q.1.st ≠ .held)) ||
       (decide (p.crew = o.crew) && o.conflict prot i p q.2))))

/-- An earlier access of a thread to a byte of the accesses has not been delivered, so that a cached copy may be too old
for it (R275). -/
def State.undelivered (s : State) (o : MOp) (i : Nat) (t : Target) : Bool :=
  let prot := (s.launchOf o.crew.team.launch).any (·.prot)
  s.fl.ops.any (fun p => decide (p.crew = o.crew) && decide (p.id ≠ o.id) && p.reqs.zipIdx.any (fun q =>
    decide (q.1.st ≠ .delivered) && decide (q.1.target = t) && o.conflict prot i p q.2))

/-- A core has a write to a line that is not performed. -/
def State.writeAhead (s : State) (core : Nat) (t : Target) : Bool :=
  s.fl.ops.any (fun o => decide (o.core = core) && o.kind.writes && o.reqs.any (fun r => !r.performed && decide (r.target = t)))

/-! ### Discards of copies -/

/-- Fills in flight of lines that satisfy p are not installed (R281). -/
def State.spoilFills (s : State) (p : MOp → LReq → Bool) : State :=
  { s with fl := { s.fl with ops := s.fl.ops.map (fun o =>
      { o with reqs := o.reqs.map (fun r => if p o r then { r with install := false } else r) }) } }

/-- A core's L1 copy of a line leaves (R109, R281). -/
def State.dropL1 (s : State) (core line : Nat) : State :=
  let s := s.spoilFills (fun o r =>
    decide (o.core = core) && decide (r.target = .home line) && decide (r.path ≠ .konst))
  { s with fl := { s.fl with l1 := s.fl.l1.filter (fun x => !(decide (x.core = core) && decide (x.line = line))) } }

/-- No read of a remote line that a copy has under way is installed (R281, R302). -/
def State.spoilCopies (s : State) (t : Target) : State :=
  { s with fl := { s.fl with copies := s.fl.copies.map (Copy.spoil (fun x => decide (x = t))) } }

/-- Both copies of a remote line leave the L2, and no read of it in flight is installed (R281, R302). -/
def State.dropRemote (s : State) (dev line : Nat) : State :=
  let s := (s.spoilFills (fun _ r => decide (r.target = .remote dev line))).spoilCopies (.remote dev line)
  { s with fl := { s.fl with
      l2 := s.fl.l2.filter (fun x => !(decide (x.dev = dev) && decide (x.line = line))) } }

/-- What the issue of a store, an atomic or a memory-side command discards (R109, R302). -/
def State.dropOwn (s : State) (core : Nat) (rs : List LReq) : State :=
  rs.foldl (fun s r => match r.target with
    | .home ln => s.dropL1 core ln
    | .remote d ln => s.dropRemote d ln
    | .scratch _ => s) s

/-! ### Miss-status entries (R113, R114) -/

/-- A request that needs a miss-status entry as it leaves the core: for a home, or for a copy in the L2 (R113). -/
def LReq.asks (r : LReq) : Bool :=
  (decide (r.path = .home) && decide (r.st = .sent)) || (decide (r.path = .l2copy) && decide (r.st = .performed))

/-- An operation whose line requests each return their own witness. -/
def OpKind.lineWise : OpKind → Bool
  | .store _ => true
  | .atomic _ false _ => true
  | .cwr => true
  | _ => false

/-- A request that holds a miss-status entry: it is on its way or held, or its witness is not back (R113, R267).  DESIGN CHOICE
(log entry 133): the answer of a request of any other operation is back when its home has performed it. -/
def MOp.busy (o : MOp) (r : LReq) : Bool :=
  decide (r.path = .home) && (decide (r.st = .sent) || decide (r.st = .held) || (decide (r.st = .performed) && o.kind.lineWise))

/-- An operation whose requests take miss-status entries. -/
def OpKind.takesEntry : OpKind → Bool
  | .load _ _ => true
  | .store _ => true
  | .atomic _ _ _ => true
  | .atomf _ _ => true
  | .msadd _ => true
  | .cwr => true
  | .vers => true
  | .pref _ => true
  | .ordAtom _ => true
  | _ => false

/-- The requests of a core that fetch lines and hold an entry. -/
def State.fetchReqs (s : State) (core : Nat) : List LReq :=
  (s.fl.ops.filter (fun o => decide (o.core = core) && o.kind.takesEntry && o.kind.fetches)).flatMap (fun o => o.reqs.filter o.busy)
/-- The other requests of a core that hold an entry. -/
def State.otherReqs (s : State) (core : Nat) : List LReq :=
  (s.fl.ops.filter (fun o => decide (o.core = core) && o.kind.takesEntry && !o.kind.fetches)).flatMap
    (fun o => o.reqs.filter o.busy)

/-- The lines a core is fetching; requests to one of them share its entry. -/
def State.fetching (s : State) (core : Nat) : List Target := ((s.fetchReqs core).map (·.target)).eraseDups

/-- The miss-status entries in use on a core, and those of them that are reserved ones. -/
def State.entriesUsed (s : State) (core : Nat) : Nat := (s.fetching core).length + (s.otherReqs core).length
def State.reservedUsed (s : State) (core : Nat) : Nat :=
  (((s.fetchReqs core).filter (·.kept)).map (·.target)).eraseDups.length + ((s.otherReqs core).filter (·.kept)).length
/-- The entries in use that are not reserved. -/
def State.commonUsed (s : State) (core : Nat) : Nat := s.entriesUsed core - s.reservedUsed core

/-- The requests of an operation as they leave: one that finds no entry but a reserved one is rejected. -/
def State.intake (s : State) (core : Nat) (kind : OpKind) (rs : List LReq) : List LReq :=
  if !kind.takesEntry then rs
  else (rs.foldl (fun (acc : List LReq × Nat × List Target) r =>
    let (out, used, fs) := acc
    if !r.asks then (out ++ [r], used, fs)
    else if kind.fetches && fs.contains r.target then (out ++ [r], used, fs)
    else if used < Config.mshrs - Config.mshrReserved then
      (out ++ [r], used + 1, if kind.fetches then fs ++ [r.target] else fs)
    else (out ++ [{ r with st := .rejected, path := .home, tries := 1 }], used, fs))
      ([], s.commonUsed core, s.fetching core)).1

/-- A request has been rejected. -/
def LReq.rejected (r : LReq) : Bool := decide (r.st = .rejected)

/-! ### Issue -/

/-- The entry of the group goes on to the next word, held there while requests of the operation are rejected (R114). -/
def Crew.advanceHeld (c : Crew) (g : Group) (next : Word) (h : List Nat) : Crew :=
  { c with
    entries := settle (c.entries.map (fun e =>
      if e.mask.getLsbD g.thread then { e.issued with pc := next, waits := h } else e))
    group := none
    started := true }

/-- An operation of the context's crew. -/
def Ctx.op (c : Ctx) (s : State) (kind : OpKind) (vdest udest : Option RegDest) (accs : List Acc) (reqs : List LReq) : MOp :=
  { c.plainOp s.serial kind udest with vdest := vdest, accs := accs, reqs := reqs }

/-- An operation leaves the core: its destination is pending, and its requests take miss-status entries or are rejected. -/
def Ctx.launchOp (c : Ctx) (s : State) (o : MOp) (regs : List PReg) : State :=
  let o := { o with reqs := s.intake o.core o.kind o.reqs }
  let h := if o.reqs.any LReq.rejected then [o.id] else []
  (s.addOp o).mapCrew c.crew.key (fun cr => (cr.mark o.id regs).advanceHeld c.grp c.next h)

/-- The registers of a vector destination. -/
def destRegs (d : BitVec 7) (n : Nat) : List PReg := fieldRegs d n

end Sys2Proof.Machine
end

