-- ==== Sys2Proof/Machine/Loads.lean ====
section
/-!
DEFINITION. Loads, stores, witnessed loads and stores, path fences, prefetch and discard (R108 to R126, R199, R247 to
R252): what they do when they issue.  The steps that perform and deliver them are in Homes.
-/

namespace Sys2Proof.Machine

/-! ### Addresses and data (R123) -/

/-- A 64-bit effective address: an address pair plus an offset. -/
def Crew.ea64 (c : Crew) (a : BitVec 7) (off : DWord) (slot : Nat) : DWord := c.src64 a slot + off
/-- A 32-bit effective address. -/
def Crew.ea32 (c : Crew) (a : BitVec 7) (off : DWord) (slot : Nat) : Word := c.src a slot + off.setWidth 32

/-- Store data of a number of bytes, from a single register, a pair or a quad. -/
def Crew.dataOf (c : Crew) (f : BitVec 7) (bytes slot : Nat) : BitVec 128 :=
  if bytes ≤ 4 then (c.src f slot).setWidth 128
  else if bytes = 8 then (c.src64 f slot).setWidth 128
  else c.src128 f slot

/-- The address of LDV and STV: its own checks, then the address of the vault window (R51, R52, R124). -/
def Ctx.placeVault (c : Ctx) (size : Nat) (ws : List Want) : Res (List (Want × PAddr)) :=
  ws.mapM (fun w => do
    let t := some (c.ownThread w.slot)
    let x := w.ea.toNat
    ensure (decide (x % size = 0)) (violation w.ea t)
    ensure (granted c.launch x) (violation w.ea t)
    .ok ({ w with ea := BitVec.ofNat 64 (Config.windowBase + x) }, PAddr.vault (Config.vaultBase + x)))

/-! ### Which copy serves a load -/

/-- The L1 copy of a line. -/
def State.l1At (s : State) (core line : Nat) : Option L1Line :=
  s.fl.l1.find? (fun x => decide (x.core = core) && decide (x.line = line))
/-- A line of a constant cache. -/
def State.konstAt (s : State) (core line : Nat) : Option KLine :=
  s.fl.konst.find? (fun x => decide (x.core = core) && decide (x.line = line))
/-- The copy of a remote line on a die. -/
def State.l2At (s : State) (die dev line : Nat) : Option L2Copy :=
  s.fl.l2.find? (fun x => decide (x.die = die) && decide (x.dev = dev) && decide (x.line = line))

/-- R250: an L1 copy serves an access that holds witness w. -/
def l1Serves (s : State) (x : L1Line) (w ea : DWord) : Bool :=
  decide (witForm w = 1) && decide (w.extractLsb' 12 49 = ea.extractLsb' 7 49) &&
    decide ((x.ver - w.setWidth 12).toNat ≤ 2047) && decide (s.dev.bclk < x.since + 2048)

/-- A request is served by a copy. -/
def LReq.served (r : LReq) (path : ReqPath) (data : Line) (poison : BitVec 4) (ver : BitVec 12) : LReq :=
  { r with path := path, st := .performed, data := data, poison := poison, ver := ver }

/-- A thread has loaded a byte of the access, on its line, from an answer later than a number: a slot of the whole crew counts
for every thread (R199, R275). -/
def State.seenLater (s : State) (o : MOp) (prot : Bool) (t : Target) (a : Acc) (point : Nat) : Bool :=
  s.fl.seen.any (fun x => decide (x.crew = o.crew) && decide (x.target = t) && decide (point < x.point) &&
    shareByte prot x.n o.kind.bytes ⟨x.slot, BitVec.ofNat 64 x.off, 0, 0#128, 0#128, 0#128, false⟩
      { a with va := BitVec.ofNat 64 (a.va.toNat % 128) })

/-- A copy filled by an answer of a number may serve request i of an operation: no thread of it has loaded a byte of the
request from a later answer (R275). -/
def State.fresh (s : State) (o : MOp) (i : Nat) (t : Target) (point : Nat) : Bool :=
  let prot := (s.launchOf o.crew.team.launch).any (·.prot)
  (o.accsOf i).all (fun a => !s.seenLater o prot t a point)

/-- The threads of request i of a load have loaded its bytes from the answer of a number (R275). -/
def State.noteSeen (s : State) (o : MOp) (i : Nat) (t : Target) (point : Nat) : State :=
  let l := (o.accsOf i).map (fun a => (⟨o.crew, a.slot, t, a.va.toNat % 128, o.kind.bytes, point⟩ : Seen))
  let old (x : Seen) : Bool := l.any (fun y => decide (x.crew = y.crew) && decide (x.slot = y.slot) && decide (x.target = y.target) &&
    decide (x.off = y.off) && decide (x.n = y.n) && decide (x.point ≤ y.point))
  { s with fl := { s.fl with seen := s.fl.seen.filter (fun x => !old x) ++ l } }

/-- Request i of a load at issue: served by an L1 copy, by an L2-held copy of a remote line, or sent.  `wit` gives each
slot's witness, null for every slot of a plain load; an L2-held copy serves null witnesses alone (R110, R249, R250, R302).
Behind a write of the core to the line that is not performed the request goes to the line's home (R111). -/
def State.serve (s : State) (o : MOp) (wit : Nat → DWord) (plain : Bool) (i : Nat) (r : LReq) : LReq :=
  if !r.install || s.undelivered o i r.target || s.writeAhead o.core r.target then r
  else match r.target with
    | .home ln =>
      match s.l1At o.core ln with
      | some x =>
        if s.fresh o i r.target x.point && (plain || (o.accsOf i).all (fun a => l1Serves s x (wit a.slot) a.va)) then
          r.served .l1 x.data x.poison x.ver
        else r
      | none => r
    | .remote d ln =>
      match s.l2At (dieOf o.core) d ln with
      | some x =>
        if s.fresh o i r.target x.point && (plain || (o.accsOf i).all (fun a => decide (wit a.slot = 0#64))) then
          { r.served .l2copy x.data x.poison x.ver with point := x.point }
        else r
      | none => r
    | .scratch _ => r

/-- What the threads of a load that copies in the L2 serve have now seen (R275, R302). -/
def State.noteServed (s : State) (o : MOp) : State :=
  o.reqs.zipIdx.foldl (fun s r =>
    if r.1.path = .l2copy ∧ r.1.performed then s.noteSeen o r.2 r.1.target r.1.point else s) s

/-- Whether a fill of an access may be installed: in the L1 for main memory, in the L2 for a remote cacheable page
(R108, R302). -/
def PAddr.fills (p : PAddr) : Bool := p.isMain || p.cacheable

/-! ### Loads -/

/-- A load leaves the core. -/
def Ctx.sendLoad (c : Ctx) (s : State) (d : BitVec 7) (regs size : Nat) (sgn : Bool) (accs : List Acc) (reqs : List LReq)
    (wit : Nat → DWord) (plain : Bool) : State :=
  let o := c.op s (.load size sgn) (some ⟨d, regs⟩) none accs reqs
  let o := { o with reqs := reqs.zipIdx.map (fun p => s.serve o wit plain p.2 p.1) }
  c.launchOp (s.noteServed o) o (fieldRegs d regs)

/-- LD.sz (R109, R110, R123, R124). -/
def execLd (d a : BitVec 7) (z : BitVec 3) (o : BitVec 9) (s : State) : Host.Outcome State Fault Refusal :=
  issue (.ld d a z o) (fun c s => do
    if c.act = 0#32 then .ok (c.go s id) else
    let ps ← c.place s (zBytes z) .load Need.load (fun _ => true) c.slots (c.crew.ea64 a (off9 c.grp.hints o)) noData noData
      (.ok ())
    let (accs, reqs) := coalesce (fun w p => homeReq p.fills w p) ps
    .ok (c.sendLoad s d (regNum (zW z)) (zBytes z) (zSigned z) accs reqs (fun _ => 0#64) true)) s

/-- LDV.sz: always performed at the vault (R53, R123). -/
def execLdv (d a : BitVec 7) (z : BitVec 3) (s : State) : Host.Outcome State Fault Refusal :=
  issue (.ldv d a z) (fun c s => do
    if c.act = 0#32 then .ok (c.go s id) else
    let ws := wants c.slots (fun k => (c.crew.ea32 a (offS c.grp.hints) k).setWidth 64) noData noData
    let ps ← c.placeVault (zBytes z) ws
    let (accs, reqs) := coalesce (homeReq false) ps
    .ok (c.sendLoad s d (regNum (zW z)) (zBytes z) (zSigned z) accs reqs (fun _ => 0#64) true)) s

/-- LDC.sz: the constant path, main memory only (R115, R116). -/
def execLdc (d a : BitVec 7) (z : BitVec 3) (o : BitVec 9) (s : State) : Host.Outcome State Fault Refusal :=
  issue (.ldc d a z o) (fun c s => do
    if c.act = 0#32 then .ok (c.go s id) else
    let ps ← c.place s (zBytes z) .load Need.load PAddr.isMain c.slots (c.crew.ea64 a (off9 c.grp.hints o)) noData noData
      (.ok ())
    let (accs, reqs) := coalesce (fun w p => LReq.new p.target (w.ea.toNat / 128) .konst true) ps
    let reqs := reqs.map (fun r => match r.target with
      | .home ln => match s.konstAt c.team.core ln with
        | some x => r.served .konst x.data x.poison 0#12
        | none => r
      | _ => r)
    let op := c.op s (.load (zBytes z) (zSigned z)) (some ⟨d, regNum (zW z)⟩) none accs reqs
    .ok (c.launchOp s op (fieldRegs d (regNum (zW z))))) s

/-- The given witnesses of the active threads are of a valid form (R245). -/
def Ctx.witValid (c : Ctx) (w : Nat → DWord) : Res Unit :=
  match c.threads.find? (fun t => !witOk (w t)) with
  | some t => badWitness (some t)
  | none => .ok ()

/-- The given witnesses of the active threads are of a valid form, and in a protected launch the members agree (R139). -/
def Ctx.witnesses (c : Ctx) (row : Nat) (w : Nat → DWord) : Res Unit := do
  c.witValid w
  c.agree row w

/-- LDW.sz: a load that observes at least what its witness names (R249 to R251). -/
def execLdw (d w a : BitVec 7) (z : BitVec 3) (s : State) : Host.Outcome State Fault Refusal :=
  issue (.ldw d w a z) (fun c s => do
    if c.act = 0#32 then .ok (c.go s id) else
    let wit (k : Nat) : DWord := c.crew.src64 w k
    c.witValid wit
    let plain := c.slots.all (fun k => decide (wit k = 0#64))
    let ps ← c.place s (zBytes z) .load Need.load notHost c.slots (c.crew.ea64 a (offS c.grp.hints)) noData noData
      (c.agree 3 wit)
    let (accs, reqs) := coalesce (fun w p => homeReq p.fills w p) ps
    let bare (i : Nat) : Bool := accs.all (fun x => decide (x.req ≠ i) || decide (wit x.slot = 0#64))
    let reqs := reqs.zipIdx.map (fun p => match p.1.target with
      | .remote _ _ => { p.1 with install := p.1.install && bare p.2 }
      | _ => p.1)
    .ok (c.sendLoad s d (regNum (zW z)) (zBytes z) (zSigned z) accs reqs wit plain)) s

/-- ULD: one load for the crew; in a protected launch each uniform computation makes its own access (R199). -/
def execUld (d a : BitVec 6) (w : BitVec 1) (s : State) : Host.Outcome State Fault Refusal :=
  issue (.uld d a w) (fun c s => do
    let size := if w = 1#1 then 8 else 4
    let ea := c.crew.u64 a.toNat + offS c.grp.hints
    ensure (decide (ea.toNat % size = 0)) (violation ea)
    let p ← s.resolve c.team.core c.launch ea .load Need.load false none
    let r := LReq.new p.target (ea.toNat / 128) .home p.fills
    let acc (slot i : Nat) : Acc := ⟨slot, ea, i, 0#128, 0#128, 0#128, false⟩
    let n := regNum (bW w)
    let accs := if c.launch.prot then [acc 32 0, acc 33 1] else [acc 32 0]
    let op := c.op s (.load size false) none (some ⟨d.setWidth 7, n⟩) accs (accs.map (fun _ => r))
    let op := { op with
      mask := c.ent.mask
      reqs := op.reqs.zipIdx.map (fun p => s.serve op (fun _ => 0#64) true p.2 p.1) }
    .ok (c.launchOp (s.noteServed op) op ((List.range n).map (fun k => .u (d.toNat + k))))) s

/-! ### Stores -/

/-- A store of an access: its members agree on address and data in a protected launch (R124), its lines leave with their
bytes, and the core's copies of them are discarded (R109). -/
def Ctx.sendStore (c : Ctx) (s : State) (d : BitVec 7) (size : Nat) (ps : List (Want × PAddr)) : State :=
  let (accs, reqs) := coalesce (homeReq false) ps
  let s := s.dropOwn c.team.core reqs
  c.launchOp s (c.op s (.store size) (some ⟨d, 2⟩) none accs reqs) (fieldRegs d 2)

/-- The members of each thread agree on a store's address and data (R139). -/
def Ctx.storeAgrees {α : Type} [DecidableEq α] (c : Ctx) (ea : Nat → α) (data : Nat → BitVec 128) : Res Unit :=
  c.agree 1 (fun k => (ea k, data k))

/-- ST.sz (R112, R123). -/
def execSt (d s1 a : BitVec 7) (z : BitVec 3) (s : State) : Host.Outcome State Fault Refusal :=
  issue (.st d s1 a z) (fun c s => do
    if c.act = 0#32 then .ok (c.go s id) else
    let ea := c.crew.ea64 a (offS c.grp.hints)
    let data := c.crew.dataOf s1 (zBytes z)
    let ps ← c.place s (zBytes z) .store Need.store (fun _ => true) c.threads ea data noData (c.storeAgrees ea data)
    .ok (c.sendStore s d (zBytes z) ps)) s

/-- STV.sz (R53, R123). -/
def execStv (d s1 a : BitVec 7) (z : BitVec 3) (s : State) : Host.Outcome State Fault Refusal :=
  issue (.stv d s1 a z) (fun c s => do
    if c.act = 0#32 then .ok (c.go s id) else
    let ea (k : Nat) : DWord := (c.crew.ea32 a (offS c.grp.hints) k).setWidth 64
    let data := c.crew.dataOf s1 (zBytes z)
    let ps ← c.placeVault (zBytes z) (wants c.threads ea data noData)
    c.storeAgrees ea data
    .ok (c.sendStore s d (zBytes z) ps)) s

/-- STW.sz: a store that leaves the core once its given witness is delivered and checked (R252). -/
def execStw (d s1 a : BitVec 7) (z : BitVec 3) (s : State) : Host.Outcome State Fault Refusal :=
  issue (.stw d s1 a z) (fun c s => do
    if c.act = 0#32 then .ok (c.go s id) else
    let wit (k : Nat) : DWord := c.crew.src64 (c.grp.hints.cField.getD 127#7) k
    let ea := c.crew.ea64 a (offS c.grp.hints)
    let data := c.crew.dataOf s1 (zBytes z)
    c.witValid wit
    let ps ← c.place s (zBytes z) .store Need.store notHost c.threads ea data noData
      (c.storeAgrees (fun k => (ea k, wit k)) data)
    .ok (c.sendStore s d (zBytes z) ps)) s

/-! ### Scratchpad (R103 to R107) -/

/-- Bytes of a team's scratchpad allocation (R104). -/
def Team.scratchBytes (t : Team) : Nat := 4096 * t.spu

/-- The scratchpad accesses of LDS and STS: alignment, then the allocation's bound (R124). -/
def Ctx.placeScratch (c : Ctx) (size : Nat) (ws : List Want) : Res (List (Want × TeamKey)) :=
  ws.mapM (fun w => do
    let t := some (c.ownThread w.slot)
    ensure (decide (w.ea.toNat % size = 0)) (violation w.ea t)
    ensure (decide (w.ea.toNat < c.team.scratchBytes)) (violation w.ea t)
    .ok (w, c.team.key))

/-- The accesses of LD.RS and ST.RS: position, allocation and alignment (R119). -/
def Ctx.placeRemote (c : Ctx) (s : State) (size : Nat) (ws : List Want) : Res (List (Want × TeamKey)) :=
  ws.mapM (fun w => do
    let t := some (c.ownThread w.slot)
    let off := w.ea.toNat % 2 ^ 18
    let k : TeamKey := { c.team.key with pos := w.ea.toNat / 2 ^ 18 % 8 }
    ensure (decide (w.ea.toNat < 2 ^ 21)) (violation w.ea t)
    ensure (match s.teamOf k with
      | some x => decide (off < x.scratchBytes)
      | none => false) (violation w.ea t)
    ensure (decide (off % size = 0)) (violation w.ea t)
    .ok ({ w with ea := BitVec.ofNat 64 off }, k))

/-- The requests of scratchpad accesses, one per target allocation. -/
def scratchReqs (ps : List (Want × TeamKey)) : List Acc × List LReq :=
  ps.foldl (fun acc p =>
    match findIx (fun (x : LReq) => decide (x.target = .scratch p.2)) acc.2 with
    | some i => (acc.1 ++ [p.1.acc i], acc.2)
    | none => (acc.1 ++ [p.1.acc acc.2.length], acc.2 ++ [LReq.new (.scratch p.2) 0 .home false])) ([], [])

/-- A scratchpad load leaves. -/
def Ctx.sendScLoad (c : Ctx) (s : State) (d : BitVec 7) (z : BitVec 3) (gang : Bool) (ps : List (Want × TeamKey)) : State :=
  let (accs, reqs) := scratchReqs ps
  c.launchOp s (c.op s (.scLoad (zBytes z) (zSigned z) gang) (some ⟨d, regNum (zW z)⟩) none accs reqs)
    (fieldRegs d (regNum (zW z)))

/-- A scratchpad store leaves. -/
def Ctx.sendScStore (c : Ctx) (s : State) (d : BitVec 7) (size : Nat) (gang : Bool) (ps : List (Want × TeamKey)) : State :=
  let (accs, reqs) := scratchReqs ps
  c.launchOp s (c.op s (.scStore size gang) (some ⟨d, 2⟩) none accs reqs) (fieldRegs d 2)

/-- LDS.sz (R107, R123). -/
def execLds (d a : BitVec 7) (z : BitVec 3) (s : State) : Host.Outcome State Fault Refusal :=
  issue (.lds d a z) (fun c s => do
    if c.act = 0#32 then .ok (c.go s id) else
    let ws := wants c.slots (fun k => (c.crew.ea32 a (offS c.grp.hints) k).setWidth 64) noData noData
    let ps ← c.placeScratch (zBytes z) ws
    .ok (c.sendScLoad s d z false ps)) s

/-- STS.sz (R107, R123). -/
def execSts (d s1 a : BitVec 7) (z : BitVec 3) (s : State) : Host.Outcome State Fault Refusal :=
  issue (.sts d s1 a z) (fun c s => do
    if c.act = 0#32 then .ok (c.go s id) else
    let ea (k : Nat) : DWord := (c.crew.ea32 a (offS c.grp.hints) k).setWidth 64
    let data := c.crew.dataOf s1 (zBytes z)
    let ps ← c.placeScratch (zBytes z) (wants c.threads ea data noData)
    c.storeAgrees ea data
    .ok (c.sendScStore s d (zBytes z) false ps)) s

/-- LD.RS.sz (R119, R120). -/
def execLdRs (d a : BitVec 7) (z : BitVec 3) (s : State) : Host.Outcome State Fault Refusal :=
  issue (.ldRs d a z) (fun c s => do
    if c.act = 0#32 then .ok (c.go s id) else
    let ws := wants c.slots (fun k => (c.crew.src a k).setWidth 64) noData noData
    let ps ← c.placeRemote s (zBytes z) ws
    .ok (c.sendScLoad s d z true ps)) s

/-- A store to the scratchpad of a team of the gang. -/
def stRs (size : Nat) (d a b : BitVec 7) (c : Ctx) (s : State) : Res State := do
  if c.act = 0#32 then .ok (c.go s id) else
  let ea (k : Nat) : DWord := (c.crew.src a k).setWidth 64
  let data := c.crew.dataOf b size
  let ps ← c.placeRemote s size (wants c.threads ea data noData)
  c.storeAgrees ea data
  .ok (c.sendScStore s d size true ps)

/-- The form of ST.RS of a width. -/
def stRsForm (w : RegWidth) (d a b : BitVec 7) : Form :=
  { shape := [.vd .pair d, .vs .one a, .vs w b], takes := { g := true }, later := true }

/-- ST.RS.8 (R119, R120). -/
def execStRs8 (d a b : BitVec 7) (s : State) : Host.Outcome State Fault Refusal :=
  issueF (stRsForm .one d a b) (stRs 1 d a b) s
/-- ST.RS.16 (R119, R120). -/
def execStRs16 (d a b : BitVec 7) (s : State) : Host.Outcome State Fault Refusal :=
  issueF (stRsForm .one d a b) (stRs 2 d a b) s
/-- ST.RS.32 (R119, R120). -/
def execStRs32 (d a b : BitVec 7) (s : State) : Host.Outcome State Fault Refusal :=
  issue (.stRs32 d a b) (stRs 4 d a b) s
/-- ST.RS.64 (R119, R120). -/
def execStRs64 (d a b : BitVec 7) (s : State) : Host.Outcome State Fault Refusal :=
  issue (.stRs64 d a b) (stRs 8 d a b) s
/-- ST.RS.128 (R119, R120). -/
def execStRs128 (d a b : BitVec 7) (s : State) : Host.Outcome State Fault Refusal :=
  issueF (stRsForm .quad d a b) (stRs 16 d a b) s

/-! ### Path fences, prefetch, discard (R117, R118, R125, R126) -/

/-- Every active thread's pair receives a value. -/
def Ctx.giveAll (c : Ctx) (d : BitVec 7) (w : DWord) (cr : Crew) : Crew := cr.putV64 d (c.slots.map (fun k => (k, w)))

/-- The crew's scratchpad stores that are not performed. -/
def State.storesOut (s : State) (k : CrewKey) : Bool :=
  s.fl.ops.any (fun o => decide (o.crew = k) && (match o.kind with
    | .scStore _ _ => !o.performed
    | _ => false))

/-- PFENCE.S (R117). -/
def execPfenceS (d : BitVec 7) (s : State) : Host.Outcome State Fault Refusal :=
  issue (.pfenceS d) (fun c s =>
    if s.storesOut c.crew.key then .error .wait else .ok (c.go s (c.giveAll d (broad 0#3)))) s

/-- A thread of the mask has an access of the operation that is not performed; an operation without accesses of its own, as
FLIP or AMAX.PUSH, is each active thread's. -/
def MOp.openFor (o : MOp) (mask : BitVec 32) : Bool :=
  if o.accs.isEmpty then decide (o.mask &&& mask ≠ 0#32) && o.unperformed
  else o.accs.any (fun a => mask.getLsbD a.slot && !a.fin && (o.reqs[a.req]?).any (fun r => !r.performed))

/-- A crew's writes, those of threads in the mask, that are not performed (R248). -/
def State.writesOut (s : State) (k : CrewKey) (mask : BitVec 32) : Bool :=
  s.fl.ops.any (fun o => decide (o.crew = k) && o.kind.writes && o.openFor mask)

/-- The crew's stores, atomics and memory-side commands that are not performed (R118). -/
def State.fencedOut (s : State) (k : CrewKey) : Bool :=
  s.fl.ops.any (fun o => decide (o.crew = k) && o.kind.fenced && o.unperformed)

/-- Every line of a core's constant cache leaves, and its fills in flight are not installed (R281). -/
def State.dropKonst (s : State) (core : Nat) : State :=
  let s := s.spoilFills (fun o r => decide (o.core = core) && decide (r.path = .konst))
  { s with fl := { s.fl with konst := s.fl.konst.filter (fun x => !decide (x.core = core)) } }

/-- Every line of a core's L1 leaves, and its fills in flight are not installed (R126, R281, R287). -/
def State.dropL1Core (s : State) (core : Nat) : State :=
  let s := s.spoilFills (fun o r => decide (o.core = core) && decide (r.path ≠ .konst))
  { s with fl := { s.fl with l1 := s.fl.l1.filter (fun x => !decide (x.core = core)) } }

/-- PFENCE.C (R118): it waits for the crew's stores, atomics and memory-side commands. -/
def execPfenceC (s : State) : Host.Outcome State Fault Refusal :=
  issue .pfenceC (fun c s =>
    if s.fencedOut c.crew.key then .error .wait else .ok (c.go (s.dropKonst c.team.core) id)) s

/-- PREF.l1 (0) and PREF.l2 (1): a request that cannot be made is dropped silently, without a trap, also where its own walk
meets a poisoned entry (R125; DEDUCED: log entry 129).  A translation read from the tables is kept, so that a TLBINV of its
page finds the line (R76, R77). -/
def execPref (a : BitVec 7) (l : BitVec 1) (s : State) : Host.Outcome State Fault Refusal :=
  issue (.pref a l) (fun c s =>
    let one := decide (l = 0#1)
    let ws := wants c.slots (fun k => c.crew.src64 a k) noData noData
    let (s, ps) := ws.foldl (fun (acc : State × List (Want × PAddr)) w =>
      match acc.1.probe c.team.core c.launch w.ea Need.load with
      | (s, some (.home ln)) => (s, if inMain (128 * ln) then acc.2 ++ [(w, PAddr.main (128 * ln))] else acc.2)
      | (s, _) => (s, acc.2)) (s, [])
    let (accs, reqs) := coalesce (homeReq one) ps
    let there (r : LReq) : Bool := one && (match r.target with
      | .home ln => (s.l1At c.team.core ln).isSome
      | _ => false)
    let o := c.op s (.pref one) none none accs reqs
    let sent := (s.intake o.core o.kind (reqs.filter (fun r => !there r))).filter (fun r => !r.rejected)
    let s := c.go s id
    .ok (if sent.isEmpty then s else s.addOp { o with reqs := sent, accs := [] })) s

/-- DISC.LINE; a walk that meets a poisoned entry gives it no line, without a trap (R126; DEDUCED: log entry 129). -/
def execDiscLine (a : BitVec 7) (s : State) : Host.Outcome State Fault Refusal :=
  issue (.discLine a) (fun c s =>
    let s := c.slots.foldl (fun s k => match s.probe c.team.core c.launch (c.crew.src64 a k) {} with
      | (s, some (.home ln)) => s.dropL1 c.team.core ln
      | (s, _) => s) s
    .ok (c.go s id)) s
/-- DISC.L1 (R126). -/
def execDiscL1 (s : State) : Host.Outcome State Fault Refusal :=
  issue .discL1 (fun c s => .ok (c.go (s.dropL1Core c.team.core) id)) s
/-- DISC.K (R126). -/
def execDiscK (s : State) : Host.Outcome State Fault Refusal :=
  issue .discK (fun c s => .ok (c.go (s.dropKonst c.team.core) id)) s

/-! ### Witnesses (R247, R248) -/

/-- WMERGE (R245, R247). -/
def execWmerge (d a b : BitVec 7) (s : State) : Host.Outcome State Fault Refusal :=
  issueCrew (.wmerge d a b) (fun c => do
    c.each 4 (fun k => witOk (c.crew.src64 a k) && witOk (c.crew.src64 b k))
    bin64 d a b witMerge c) s

/-- WALL (R248). -/
def execWall (d : BitVec 7) (s : State) : Host.Outcome State Fault Refusal :=
  issue (.wall d) (fun c s =>
    if s.writesOut c.crew.key c.act then .error .wait else .ok (c.go s (c.giveAll d (broad c.scope)))) s

end Sys2Proof.Machine
end

