-- ==== Sys2Proof/Machine/Atomics.lean ====
section
/-!
DEFINITION. Atomics, reservations, stochastic adds, conditional versioned writes, version reads and FLIP (R24, R80, R254
to R258, R266 to R269), and the absmax rings (R160, R161, R166): what they do when they issue, and what a memory-side
command computes at its home.
-/

namespace Sys2Proof.Machine

/-! ### What a command computes at its home -/

/-- The value an integer atomic of R24 leaves, from the old value, b and c; `none` where a compare fails (R255). -/
def atomicNew (op old b c : Nat) : Option Nat :=
  let w32 := 2 ^ 32
  let x : Word := BitVec.ofNat 32 old
  let y : Word := BitVec.ofNat 32 b
  match op with
  | 0 => some ((old + b) % w32)
  | 1 => some ((old + b) % 2 ^ 64)
  | 2 => some (minS x y).toNat
  | 3 => some (minU x y).toNat
  | 4 => some (maxS x y).toNat
  | 5 => some (maxU x y).toNat
  | 6 => some (x &&& y).toNat
  | 7 => some (x ||| y).toNat
  | 8 => some (x ^^^ y).toNat
  | 9 => some (b % w32)
  | 10 => some (b % 2 ^ 64)
  | 11 => if old = c % w32 then some (b % w32) else none
  | _ => if old = c % 2 ^ 64 then some (b % 2 ^ 64) else none

/-- The bytes of a line as a command's threads leave them one after another: offset and byte. -/
def lineRead (l : Line) (done : List (Nat × Byte)) (off n : Nat) : Nat :=
  leNum ((List.range n).map (fun i =>
    (done.foldl (fun acc p => if p.1 = off + i then some p.2 else acc) none).getD (lineByte l (off + i))))

/-- What a command has done so far: the bytes written, the old values in order, the flags. -/
structure CmdOut where
  bytes : List (Nat × Byte)
  olds  : List Nat
  flags : BitVec 5
  deriving DecidableEq, Repr

/-- The steps of an integer atomic, (offset, b, c), in order (R255). -/
def atomicSteps (l : Line) (op : Nat) (steps : List (Nat × Nat × Nat)) : CmdOut :=
  let n := (OpKind.atomic op false false).bytes
  steps.foldl (fun acc p =>
    let old := lineRead l acc.bytes p.1 n
    match atomicNew op old p.2.1 p.2.2 with
    | some v => { acc with bytes := acc.bytes ++ atOffset p.1 (leBytes n v), olds := acc.olds ++ [old] }
    | none => { acc with olds := acc.olds ++ [old] }) ⟨[], [], 0#5⟩

/-- The steps of ATOMF, (offset, b): each add is rounded on its own (R256). -/
def fpSteps (l : Line) (dbl : Bool) (rm : BitVec 3) (steps : List (Nat × Nat)) : CmdOut :=
  let f := if dbl then fp64 else fp32
  let n := if dbl then 8 else 4
  steps.foldl (fun acc p =>
    let old := lineRead l acc.bytes p.1 n
    let r := fpAdd f rm (f.read old) (f.read p.2)
    ⟨acc.bytes ++ atOffset p.1 (leBytes n r.1), acc.olds ++ [old], acc.flags ||| r.2⟩) ⟨[], [], 0#5⟩

/-- One element of MSADD (R266): a sum beyond the largest finite value stays there. -/
def msaddElem (f : Fmt) (rm : BitVec 3) (r : Word) (w v : Num) : Nat × BitVec 5 :=
  if w.isNan || v.isNan then nanRes f (sigFlag [w, v])
  else if w.isInf && v.isInf && w.neg != v.neg then nanRes f flInvalid
  else if w.isInf then (f.inf w.neg, 0#5)
  else if v.isInf then (f.inf v.neg, 0#5)
  else
    let m := sumDy rm [w.dy, v.dy]
    let x := f.round rm r m
    if x.2 &&& flOverflow ≠ 0#5 then (f.signed m.neg f.maxCode, flOverflow ||| flInexact) else x

/-- The steps of MSADD, (virtual line, offset, b), in order; `ver` is the version before the command (R158, R266). -/
def msaddSteps (l : Line) (half : Bool) (rm : BitVec 3) (seed : DWord) (ver : BitVec 12) (steps : List (Nat × Nat × Nat)) :
    CmdOut :=
  let f := if half then fp16 else bf16
  steps.foldl (fun acc p =>
    let old := lineRead l acc.bytes p.2.1 2
    let key := BitVec.ofNat 64 (p.1 % 2 ^ 49 * 128 + p.2.1 / 2)
    let r := mixLow seed key (BitVec.ofNat 64 (2 <<< 62) ||| ver.setWidth 64)
    let x := msaddElem f rm r (f.read old) (f.read p.2.2)
    ⟨acc.bytes ++ atOffset p.2.1 (leBytes 2 x.1), acc.olds ++ [old], acc.flags ||| x.2⟩) ⟨[], [], 0#5⟩

/-! ### Reservations (R258) -/

/-- The values a deterministic ATOM.ADD returns, by thread, and the running count after it. -/
def reserve (c : Ctx) (vals : Nat → Nat) : List (Nat × Nat) × Nat :=
  c.threads.foldl (fun acc t =>
    (acc.1 ++ [(t, c.crew.resvBase.toNat + acc.2)], acc.2 + vals t)) ([], c.crew.running.toNat)

/-- RESV: base, count or running count (R258). -/
def execResv (d b : BitVec 7) (s : State) : Host.Outcome State Fault Refusal :=
  issueCrew (.resv d b) (vec1 d (fun c _ =>
    if b = 0#7 then c.resvBase else if b = 1#7 then c.resvCount else c.running)) s

/-! ### Issue of memory-side commands -/

/-- A memory-side command leaves the core: its members agree on translations, addresses and operands (R75, R139), every access
passes the checks of R254, and the core's own copies of its lines are discarded. -/
def Ctx.command (c : Ctx) (s : State) (kind : OpKind) (d : BitVec 7) (regs : Nat) (need : Need) (accept : PAddr → Bool)
    (align : Nat) (ea : Nat → DWord) (data aux : Nat → BitVec 128) : Res (State × MOp) := do
  let ps ← c.place s align .memside need accept c.threads ea data aux (c.agree 3 (fun k => (ea k, data k, aux k)))
  let (accs, reqs) := coalesce (homeReq false) ps
  .ok (s.dropOwn c.team.core reqs, c.op s kind (some ⟨d, regs⟩) none accs reqs)

/-- An integer atomic: ATOM (`ret`) or RED (R254 to R258). -/
def atomic (op : Nat) (ret : Bool) (d a b : BitVec 7) (c : Ctx) (s : State) : Res State := do
  let det := c.launch.det
  ensure (!(det && ret) || decide (op ≤ 1)) nondet
  if c.act = 0#32 then .ok (c.go s id) else
  let kind : OpKind := .atomic op ret (ret && det)
  let n := kind.bytes
  let data := c.crew.dataOf b n
  let aux (k : Nat) : BitVec 128 := if op = 11 ∨ op = 12 then c.crew.dataOf (c.grp.hints.cField.getD 127#7) n k else 0#128
  let (vals, running) := reserve c (fun t => (data t).toNat)
  ensure (!(det && ret) || decide (running ≤ c.crew.resvCount.toNat)) nondet
  let regs := if ret then (if n = 8 then 2 else 1) else 2
  let (s, o) ← c.command s kind d regs Need.both (inScope c.scope) n (c.crew.ea64 a 0#64) data aux
  if ret && det then
    let o := { o with accs := o.accs.map (fun x => match vals.find? (fun v => decide (v.1 = x.slot)) with
      | some v => { x with out := BitVec.ofNat 128 (v.2 % 2 ^ (8 * n)) }
      | none => x) }
    let s := c.launchOp s o (fieldRegs d regs)
    .ok (s.mapCrew c.crew.key (fun cr => { cr with running := BitVec.ofNat 32 running }))
  else .ok (c.launchOp s o (fieldRegs d regs))

/-- ATOM.ADD (R255, R258). -/
def execAtomAdd (d a b : BitVec 7) (w : BitVec 1) (s : State) : Host.Outcome State Fault Refusal :=
  issue (.atomAdd d a b w) (atomic w.toNat true d a b) s
/-- RED.ADD (R255). -/
def execRedAdd (d a b : BitVec 7) (w : BitVec 1) (s : State) : Host.Outcome State Fault Refusal :=
  issue (.redAdd d a b w) (atomic w.toNat false d a b) s
/-- ATOM.MIN, signed or unsigned (R255). -/
def execAtomMin (d a b : BitVec 7) (z : BitVec 1) (s : State) : Host.Outcome State Fault Refusal :=
  issue (.atomMin d a b z) (atomic (2 + z.toNat) true d a b) s
/-- RED.MIN (R255). -/
def execRedMin (d a b : BitVec 7) (z : BitVec 1) (s : State) : Host.Outcome State Fault Refusal :=
  issue (.redMin d a b z) (atomic (2 + z.toNat) false d a b) s
/-- ATOM.MAX, signed or unsigned (R255). -/
def execAtomMax (d a b : BitVec 7) (z : BitVec 1) (s : State) : Host.Outcome State Fault Refusal :=
  issue (.atomMax d a b z) (atomic (4 + z.toNat) true d a b) s
/-- RED.MAX (R255). -/
def execRedMax (d a b : BitVec 7) (z : BitVec 1) (s : State) : Host.Outcome State Fault Refusal :=
  issue (.redMax d a b z) (atomic (4 + z.toNat) false d a b) s
/-- ATOM.AND (R255). -/
def execAtomAnd (d a b : BitVec 7) (s : State) : Host.Outcome State Fault Refusal :=
  issue (.atomAnd d a b) (atomic 6 true d a b) s
/-- RED.AND (R255). -/
def execRedAnd (d a b : BitVec 7) (s : State) : Host.Outcome State Fault Refusal :=
  issue (.redAnd d a b) (atomic 6 false d a b) s
/-- ATOM.OR (R255). -/
def execAtomOr (d a b : BitVec 7) (s : State) : Host.Outcome State Fault Refusal :=
  issue (.atomOr d a b) (atomic 7 true d a b) s
/-- RED.OR (R255). -/
def execRedOr (d a b : BitVec 7) (s : State) : Host.Outcome State Fault Refusal :=
  issue (.redOr d a b) (atomic 7 false d a b) s
/-- ATOM.XOR (R255). -/
def execAtomXor (d a b : BitVec 7) (s : State) : Host.Outcome State Fault Refusal :=
  issue (.atomXor d a b) (atomic 8 true d a b) s
/-- RED.XOR (R255). -/
def execRedXor (d a b : BitVec 7) (s : State) : Host.Outcome State Fault Refusal :=
  issue (.redXor d a b) (atomic 8 false d a b) s
/-- ATOM.EXCH.32 (R255). -/
def execAtomExch32 (d a b : BitVec 7) (s : State) : Host.Outcome State Fault Refusal :=
  issue (.atomExch32 d a b) (atomic 9 true d a b) s
/-- ATOM.EXCH.64 (R255). -/
def execAtomExch64 (d a b : BitVec 7) (s : State) : Host.Outcome State Fault Refusal :=
  issue (.atomExch64 d a b) (atomic 10 true d a b) s
/-- ATOM.CAS.32 (R255). -/
def execAtomCas32 (d a b : BitVec 7) (s : State) : Host.Outcome State Fault Refusal :=
  issue (.atomCas32 d a b) (atomic 11 true d a b) s
/-- ATOM.CAS.64 (R255). -/
def execAtomCas64 (d a b : BitVec 7) (s : State) : Host.Outcome State Fault Refusal :=
  issue (.atomCas64 d a b) (atomic 12 true d a b) s

/-- ATOMF.ADD (`ret`) or ATOMF.RED (R256, R257). -/
def atomf (dbl ret : Bool) (d a b : BitVec 7) (c : Ctx) (s : State) : Res State := do
  ensure (!c.launch.det) nondet
  if c.act = 0#32 then .ok (c.go s id) else
  let n := if dbl then 8 else 4
  let regs := if ret && !dbl then 1 else 2
  let (s, o) ← c.command s (.atomf dbl ret) d regs Need.both (inScope c.scope) n (c.crew.ea64 a 0#64) (c.crew.dataOf b n) noData
  .ok (c.launchOp s o (fieldRegs d regs))

/-- ATOMF.ADD.s (R256). -/
def execAtomfAddS (d a b : BitVec 7) (s : State) : Host.Outcome State Fault Refusal :=
  issue (.atomfAddS d a b) (atomf false true d a b) s
/-- ATOMF.ADD.d (R256). -/
def execAtomfAddD (d a b : BitVec 7) (s : State) : Host.Outcome State Fault Refusal :=
  issue (.atomfAddD d a b) (atomf true true d a b) s
/-- ATOMF.RED.s (R256). -/
def execAtomfRedS (d a b : BitVec 7) (s : State) : Host.Outcome State Fault Refusal :=
  issue (.atomfRedS d a b) (atomf false false d a b) s
/-- ATOMF.RED.d (R256). -/
def execAtomfRedD (d a b : BitVec 7) (s : State) : Host.Outcome State Fault Refusal :=
  issue (.atomfRedD d a b) (atomf true false d a b) s

/-- MSADD (R266). -/
def msadd (half : Bool) (d a b : BitVec 7) (c : Ctx) (s : State) : Res State := do
  if c.act = 0#32 then .ok (c.go s id) else
  let (s, o) ← c.command s (.msadd half) d 2 Need.both (inScope c.scope) 2 (c.crew.ea64 a 0#64) (c.crew.dataOf b 2) noData
  .ok (c.launchOp s o (fieldRegs d 2))

/-- MSADD.bf (R266). -/
def execMsaddBf (d a b : BitVec 7) (s : State) : Host.Outcome State Fault Refusal :=
  issue (.msaddBf d a b) (msadd false d a b) s
/-- MSADD.h (R266). -/
def execMsaddH (d a b : BitVec 7) (s : State) : Host.Outcome State Fault Refusal :=
  issue (.msaddH d a b) (msadd true d a b) s

/-- CWR: the control words hold one expected version per line (R267). -/
def execCwr (d a b : BitVec 7) (s : State) : Host.Outcome State Fault Refusal :=
  issue (.cwr d a b) (fun c s => do
    if c.act = 0#32 then .ok (c.go s id) else
    let aux (k : Nat) : BitVec 128 := (c.crew.srcK b 1 k).setWidth 128
    let data (k : Nat) : BitVec 128 := (c.crew.srcK b 0 k).setWidth 128
    let ea := c.crew.ea64 a 0#64
    let fate (k : Nat) : Fate := s.fate c.team.core c.launch (ea k) Need.both
    let same (t u : Nat) : Bool := decide ((ea u).toNat / 128 = (ea t).toNat / 128) || (match fate t with
      | .to x => decide (fate u = .to x)
      | _ => false)
    match c.threads.find? (fun t => decide (4096 ≤ (aux t).toNat) ||
        c.threads.any (fun u => decide (u < t) && same t u && decide (aux u ≠ aux t))) with
    | some t => violation (ea t) (some t)
    | none => .ok ()
    let (s, o) ← c.command s .cwr d 2 Need.both (inScope c.scope) 4 ea data aux
    .ok (c.launchOp s o (fieldRegs d 2))) s

/-- VERS (R268). -/
def execVers (d a : BitVec 7) (s : State) : Host.Outcome State Fault Refusal :=
  issue (.vers d a) (fun c s => do
    if c.act = 0#32 then .ok (c.go s id) else
    let (s, o) ← c.command s .vers d 1 Need.load notHost 1 (c.crew.ea64 a 0#64) noData noData
    .ok (c.launchOp s o (fieldRegs d 1))) s

/-- FLIP: the selection bit of the range that the lowest active thread's address lies in is toggled, and the discards
over the range begin; the witness follows when the accesses in flight are performed (R80, R269). -/
def execFlip (d a : BitVec 7) (s : State) : Host.Outcome State Fault Refusal :=
  issue (.flip d a) (fun c s => do
    match c.threads with
    | [] => .ok (c.go s id)
    | t :: _ =>
      let ea := c.crew.src64 a t
      let v := ea.toNat
      ensure (decide (v < 2 ^ 56) && !inWindow v) (violation ea (some t))
      c.membersAgree s 1 Need.both (fun _ => true) [t] (fun k => c.crew.src64 a k)
      let ranged (x : TlbEntry) : Bool := leafDV x.leaf && (c.launch.dvs[leafRange x.leaf]?).isSome
      ensure ((s.tlbFind c.team.core c.launch.id v).all ranged) (violation ea (some t))
      ensure (!(c.launch.prot && decide (ea ≠ c.crew.src64 a (t + 16)))) (silentError 3 (some t))
      let _ ← s.resolve c.team.core c.launch ea .flip Need.both false (some t)
      match s.tlbFind c.team.core c.launch.id v with
      | none => .error (.miss v .flip (some t))
      | some x =>
        let r := leafRange x.leaf
        match c.launch.dvs[r]? with
        | none => violation ea (some t)
        | some rg =>
          let busy := s.fl.ops.any (fun o => decide (o.crew.team.launch = c.launch.id) && (match o.kind with
            | .flip q _ => decide (q = r) && !o.performed
            | _ => false))
          if busy then .error .wait else
          let id := s.serial
          let s := { s with serial := id + 1 }
          let s := s.mapLaunch c.launch.id (fun l =>
            { l with dvs := l.dvs.modify r (fun g => { g with sel := !g.sel }) })
          let s := s.startInv id true false c.launch.id rg.base rg.len
          let o := c.op s (.flip r id) (some ⟨d, 2⟩) none [] [LReq.new (.scratch c.team.key) 0 .home false]
          .ok (c.launchOp s o (fieldRegs d 2))) s

/-! ### Absmax rings (R160, R161, R166) -/

/-- The checks of registers that an operand names only when a control word is known: the field, the quota, and none pending
(R19, R128, R134). -/
def Ctx.reads (c : Ctx) (f : BitVec 7) (n : Nat) : Res Unit := do
  ensure (if n = 2 then vsOk .pair f else true) invalid
  let rs := fieldRegs f n
  ensure (inQuota c.crew.quota rs) invalid
  if rs.any c.crew.pending then .error .wait else .ok ()

/-- The trap of those registers' words, of which one is uncorrectable (R132). -/
def Ctx.badWord (c : Ctx) (f : BitVec 7) (n : Nat) : Option Trap :=
  ((vNums (fieldRegs f n)).find? (fun k => c.crew.vbad.contains k)).map (fun k =>
    { cause := 8, info := BitVec.ofNat 64 (2 <<< 60 + k) })

/-- Those registers' words are not uncorrectable (R132). -/
def Ctx.readsGood (c : Ctx) (f : BitVec 7) (n : Nat) : Res Unit := settleLate (c.badWord f n) (.ok ())

/-- A push of (step, m) to a ring's entries (R160). -/
def ringPush (es : List (Word × DWord)) (k : Word) (v : DWord) : List (Word × DWord) :=
  if es.any (fun e => decide (e.1 = k)) then es.map (fun e => if e.1 = k then (k, maxU e.2 v) else e)
  else if es.length < 16 then es ++ [(k, v)]
  else
    let low := es.foldl (fun m e => if e.1.ult m then e.1 else m) (0xFFFFFFFF#32)
    if low.ult k then es.map (fun e => if e.1 = low then (k, v) else e) else es

/-- The absolute value of a number, as FP64 bits; every narrower format converts exactly. -/
def absBits (x : Num) : DWord := BitVec.ofNat 64 (convFloat fp64 0#3 0#32 (x.withSign false)).1

/-- AMAX.PUSH (R166). -/
def execAmaxPush (d a b : BitVec 7) (s : State) : Host.Outcome State Fault Refusal :=
  issue (.amaxPush d a b) (fun c s => do
    let ctl := c.crew.src b 0
    let step := c.crew.srcK b 1 0
    let t := ctl.extractLsb' 8 2
    let ring := (ctl.extractLsb' 0 6).toNat
    ensure (decide (ctl.extractLsb' 10 22 = 0#22) && decide (ctl.extractLsb' 6 2 = 0#2)) invalid
    c.reads a (if t = 1#2 then 2 else 1)
    ensure (c.launch.rings.getLsbD ring) violation
    c.readsGood a (if t = 1#2 then 2 else 1)
    if c.act = 0#32 then .ok (c.go s id) else
    let val (k : Nat) : Num := c.crew.num t a k
    let top (l : List Nat) : DWord := (l.filter (fun k => !(val k).isNan)).foldl (fun m k => maxU m (absBits (val k))) 0#64
    ensure (!c.launch.prot || decide (top c.threads = top (c.threads.map (· + 16)))) (silentError 3 none)
    let fl := if c.slots.any (fun k => (val k).isNan) then flInvalid else 0#5
    .ok (c.launchOp s (c.op s (.amaxPush ring step (top c.threads) fl) (some ⟨d, 2⟩) none [] []) (fieldRegs d 2))) s

/-- AMAX_RING_PUSH: the push is performed, its flag enters FLAGS, and each active thread receives the device witness (R156,
R166). -/
def execAmaxRingPush (op : Nat) (s : State) : Host.Outcome State Fault Refusal :=
  event (fun s => do
    match s.opOf op with
    | some o =>
      match o.kind, o.vdest with
      | .amaxPush ring step m fl, some d =>
        let es := Cells.get [] s.dev.rings ring
        let dev := { s.dev with rings := Cells.set [] s.dev.rings ring (ringPush es step m) }
        let prot := (s.launchOf o.crew.team.launch).any (·.prot)
        let ts := threadsOf o.mask
        let slots := if prot then ts ++ ts.map (· + 16) else ts
        let s := ({ s with dev := dev }).mapCrew o.crew (fun c => c.orFlags fl)
        let s := s.writeLate o.core o.crew o.pc d.field 2 (slots.map (fun k => (k, (broad 2#3).setWidth 128)))
        .ok ((s.mapCrew o.crew (fun c => c.unmark op)).dropOp op)
      | _, _ => .error .disabled
    | none => .error .disabled) s

/-- The largest finite value of a destination code, as m * 2^e (R161). -/
def maxFinite (code : Nat) : Nat × Int :=
  if code = 9 then (5, -1)
  else
    let f := fmtCode code
    match f.read f.maxCode with
    | .fin _ m e => (m, e)
    | _ => (1, 0)

/-- The scale of a ring's largest value for a destination code, and its flag (R161). -/
def ringScale (m : Num) (code : Nat) : Nat × BitVec 5 :=
  match m with
  | .fin _ n x =>
    if n = 0 then (127, 0#5)
    else
      let (fm, fe) := maxFinite code
      let e0 := (x + (bitLen n : Int)) - (fe + (bitLen fm : Int))
      let e := if dyLt ⟨false, fm, fe + e0⟩ ⟨false, n, x⟩ then e0 + 1 else e0
      if 127 < e then (254, flOverflow) else if e < -127 then (0, 0#5) else ((e + 127).toNat, 0#5)
  | _ => (254, flOverflow)

/-- AMAX.SCALE (R166). -/
def execAmaxScale (d a b : BitVec 7) (s : State) : Host.Outcome State Fault Refusal :=
  issue (.amaxScale d a b) (fun c s => do
    let ctl := c.crew.src a 0
    let ring := (ctl.extractLsb' 0 6).toNat
    let code := (ctl.extractLsb' 8 4).toNat
    ensure (decide (ctl.extractLsb' 12 20 = 0#20) && decide (ctl.extractLsb' 6 2 = 0#2) && decide (2 ≤ code) &&
      decide (code ≤ 9)) invalid
    c.witValid (fun k => c.crew.src64 b k)
    ensure (c.launch.rings.getLsbD ring) violation
    c.agree 3 (fun k => c.crew.src64 b k)
    let es := Cells.get [] s.dev.rings ring
    let m := fp64.read (es.foldl (fun m e => maxU m e.2) 0#64).toNat
    let (v, fl) := ringScale m code
    let fl := if c.act = 0#32 then 0#5 else fl
    .ok (c.go s (fun cr => (cr.putV d (c.slots.map (fun k => (k, BitVec.ofNat 32 v)))).orFlags fl))) s

end Sys2Proof.Machine
end

