-- ==== Sys2Proof/Machine/Heats.lean ====
section
/-!
DEFINITION. Ordered atomic regions, called heats (R259 to R265): ORD.ATOM, ORD.CLOSE, the acceptance of an update at its
home with its holding buffer and spill area, the counting of a close, and the merge.
-/

namespace Sys2Proof.Machine

/-- Inserts by a strict order. -/
def insertBy {α : Type} (lt : α → α → Bool) (x : α) : List α → List α
  | [] => [x]
  | y :: r => if lt y x then y :: insertBy lt x r else x :: y :: r
/-- A list in ascending order; of equals the earlier stays earlier. -/
def sortBy {α : Type} (lt : α → α → Bool) (l : List α) : List α := l.foldr (insertBy lt) []

/-! ### Descriptors (R259) -/

/-- Bytes of an element of a heat's operation. -/
def heatSize (op : Nat) : Nat := if op = 1 ∨ op = 4 then 8 else if op = 2 then 2 else 4

def State.heatOf (s : State) (launch : Word) (h : Nat) : Option Heat := (s.launchOf launch).bind (fun l => l.heats[h]?)
def State.mapHeat (s : State) (launch : Word) (h : Nat) (f : Heat → Heat) : State :=
  s.mapLaunch launch (fun l => { l with heats := l.heats.modify h f })

/-- Every participant's close is counted. -/
def Heat.allClosed (h : Heat) : Bool := decide (h.np < h.closed.length)

/-- The control word of ORD.ATOM and ORD.CLOSE: participant and heat; a nonzero zero bit, an undefined heat or a
participant above np is an access violation (R260). -/
def ordControl (c : Ctx) (w : Word) : Res (Nat × Nat × Heat) := do
  ensure (decide (w.extractLsb' 24 8 = 0#8) && decide (w.extractLsb' 4 4 = 0#4)) violation
  let p := (w.extractLsb' 8 16).toNat
  let n := (w.extractLsb' 0 4).toNat
  match c.launch.heats[n]? with
  | some h => if p ≤ h.np then .ok (p, n, h) else violation
  | none => violation

/-- The launch's ORD.CLOSE of a participant has issued, counted or not. -/
def State.closing (s : State) (launch : Word) (n p : Nat) (h : Heat) : Bool :=
  h.closed.contains p || s.fl.ops.any (fun o => decide (o.crew.team.launch = launch) && (match o.kind with
    | .ordClose m q _ => decide (m = n) && decide (q = p)
    | _ => false))

/-- ORD.ATOM: one update per active thread leaves, with its tag; the updates of a participant that has closed are
discarded (R260, R264). -/
def execOrdAtom (c0 a b : BitVec 7) (s : State) : Host.Outcome State Fault Refusal :=
  issue (.ordAtom c0 a b) (fun c s => do
    let w := c.crew.src c0 0
    let size := heatSize ((c.launch.heats[(w.extractLsb' 0 4).toNat]?.map (·.op)).getD 0)
    c.reads b (if size = 8 then 2 else 1)
    let (p, n, h) ← ordControl c w
    ensure (!h.failed) violation
    let ea := c.crew.ea64 a 0#64
    match c.threads.find? (fun t => !(decide (h.ext ≤ (ea t).toNat) && decide ((ea t).toNat + size ≤ h.ext + h.len) &&
        decide ((ea t).toNat % size = 0))) with
    | some t => violation (ea t) (some t)
    | none => .ok ()
    let k := (Cells.get 0#32 c.crew.ordk n).toNat
    let data (t : Nat) : BitVec 128 := c.crew.dataOf b size t &&& (BitVec.ofNat 128 (2 ^ (8 * size) - 1))
    let tag (t : Nat) : BitVec 128 := BitVec.ofNat 128 (p * 2 ^ 37 + k * 2 ^ 5 + c.ownThread t)
    let (s1, o) ← settleLate (c.badWord b (if size = 8 then 2 else 1)) (c.command s (.ordAtom n) 127#7 0 Need.both (fun p => !p.isRemote) size ea data tag)
    let count (cr : Crew) : Crew := { cr with ordk := Cells.set 0#32 cr.ordk n (BitVec.ofNat 32 (k + 1)) }
    if c.act = 0#32 || s.closing c.launch.id n p h then .ok (c.go s1 count)
    else .ok ((c.launchOp s1 o []).mapCrew c.crew.key count)) s

/-! ### Completion of closes -/

/-- The threads' slots of an operation: in a protected launch the shadow slots too. -/
def State.slotsOf (s : State) (o : MOp) : List Nat :=
  let ts := threadsOf o.mask
  if (s.launchOf o.crew.team.launch).any (·.prot) then ts ++ ts.map (· + 16) else ts

/-- The counted closes of a heat. -/
def State.closesOf (s : State) (launch : Word) (n : Nat) : List MOp :=
  s.fl.ops.filter (fun o => decide (o.crew.team.launch = launch) && (match o.kind with
    | .ordClose m _ counted => decide (m = n) && counted
    | _ => false))

/-- A close completes: flags, then the device witness for each active thread (R263). -/
def State.closeDone (s : State) (flags : BitVec 5) (o : MOp) : State :=
  match o.vdest with
  | some d =>
    let s := (s.mapCrew o.crew (fun c => c.orFlags flags)).writeLate o.core o.crew o.pc d.field 2
      ((s.slotsOf o).map (fun k => (k, (broad 2#3).setWidth 128)))
    (s.mapCrew o.crew (fun c => c.unmark o.id)).dropOp o.id
  | none => s.dropOp o.id

/-- A close raises a trap against its gang (R265, R361). -/
def State.closeTrap (s : State) (t : Trap) (o : MOp) : State :=
  (s.trapAfter o.core o.crew o.pc t).dropOp o.id

/-! ### The merge (R263) -/

/-- One update as the merge sees it: element, tag, value, acceptance number. -/
structure MUpd where
  pa    : Nat
  tag   : Nat
  value : Nat
  acc   : Nat
  deriving DecidableEq, Repr

/-- The physical address of byte i of a heat's spill area (R259, R262). -/
def Heat.spillAt (h : Heat) (i : Nat) : Nat :=
  let va := h.spill + i
  ((h.spillPa[va / 65536 - h.spill / 65536]?).getD 0) + va % 65536

/-- Record n of a spill area (R262). -/
def State.spillRecord (s : State) (h : Heat) (n : Nat) : MUpd :=
  let a := h.spillAt (64 + 32 * n)
  ⟨s.numAt a 8, s.numAt (a + 8) 8, s.numAt (a + 16) 8, s.numAt (a + 24) 4⟩

/-- Of updates with equal tag the one with the highest acceptance number, in ascending tag (R263). -/
def keptUpdates (l : List MUpd) : List MUpd :=
  sortBy (fun x y => decide (x.tag < y.tag))
    (l.filter (fun u => l.all (fun v => decide (v.tag ≠ u.tag) || decide (v.acc ≤ u.acc)))).eraseDups

/-- An element's value after its updates, and the flags. -/
def heatFold (h : Heat) (x : Nat) (us : List MUpd) : Nat × BitVec 5 :=
  us.foldl (fun acc u =>
    match h.op with
    | 3 => ((acc.1 + u.value) % 2 ^ 32, acc.2)
    | 4 => ((acc.1 + u.value) % 2 ^ 64, acc.2)
    | k =>
      let f := if k = 0 then fp32 else if k = 1 then fp64 else bf16
      let r := fpAdd f h.rm (f.read acc.1) (f.read u.value)
      (r.1, acc.2 ||| r.2)) (x, 0#5)

/-- What the merge has done: the machine, its flags, and the first line whose poison it consumed. -/
structure MergeOut where
  s    : State
  fl   : BitVec 5
  bad  : Option Nat

/-- The merge of one line's updates: the operands are read at one point, and the line takes one write (R263); poison of an
operand granule is consumed and the line not written (R60). -/
def mergeLine (h : Heat) (launch : Word) (us : List MUpd) (out : MergeOut) (line : Nat) : MergeOut :=
  let size := heatSize h.op
  let mine := us.filter (fun u => decide (u.pa / 128 = line))
  let els := (mine.map (·.pa)).eraseDups
  let gr := granulesOf (els.map (· % 128))
  let s := out.s.commandRead line gr launch
  if (s.lineMeta line).poison &&& gr ≠ 0#4 then { out with s := s.takeCycle line, bad := some (out.bad.getD line) }
  else
    let r := els.map (fun a => (a, heatFold h (s.numAt a size) (keptUpdates (mine.filter (fun u => decide (u.pa = a))))))
    let bytes := r.flatMap (fun e => atOffset (e.1 % 128) (leBytes size e.2.1))
    { out with s := s.homeWrite line bytes 0#4 launch, fl := out.fl ||| orAll (r.map (fun e => e.2.2)) }

/-- The updates of a heat leave the holding buffers. -/
def State.freeUpdates (s : State) (launch : Word) (n : Nat) : State :=
  let keep := s.mem.updates.filter (fun u => !(decide (u.launch = launch) && decide (u.heat = n)))
  { s with mem := { s.mem with updates := keep } }

/-- The merge of a heat: spill records and held updates together, home by home; then every close completes, or, where
poison was consumed, traps (R263, R361). -/
def State.merge (s : State) (launch : Word) (n : Nat) (h : Heat) : State :=
  let a := List.range h.count
  let recLine (i : Nat) : Nat := h.spillAt (64 + 32 * i) / 128
  let recGr (i : Nat) : BitVec 4 := 1#4 <<< (h.spillAt (64 + 32 * i) % 128 / 32)
  let s := a.foldl (fun s i => s.homeRead (recLine i) (recGr i) launch) s
  let foul (i : Nat) : Bool := decide ((s.lineMeta (recLine i)).poison &&& recGr i ≠ 0#4)
  let held := (s.mem.updates.filter (fun u => decide (u.launch = launch) && decide (u.heat = n))).map
    (fun u => (⟨u.pa, u.tag, u.value.toNat, u.acc.toNat⟩ : MUpd))
  let us := ((a.filter (fun i => !foul i)).map (s.spillRecord h) ++ held).filter (fun u => paExists u.pa)
  let s := s.freeUpdates launch n
  let lines := sortBy (fun x y => decide (x < y)) (us.map (fun u => u.pa / 128)).eraseDups
  let out := lines.foldl (mergeLine h launch us) ⟨s, 0#5, (a.find? foul).map recLine⟩
  let s := out.s.mapHeat launch n (fun h => { h with merged := true, flags := out.fl })
  let closes := s.closesOf launch n
  match out.bad with
  | some ln => closes.foldl (fun s o => s.closeTrap { cause := 8, info := BitVec.ofNat 64 (128 * ln) } o) s
  | none => closes.foldl (fun s o => s.closeDone out.fl o) s

/-- What follows when a close is counted: the heat merges when every participant has closed; a failed heat traps its
closes then (R263, R265). -/
def State.afterClose (s : State) (launch : Word) (n : Nat) : State :=
  match s.heatOf launch n with
  | some h =>
    if h.allClosed then
      if h.failed then (s.closesOf launch n).foldl (fun s o => s.closeTrap { cause := 6 } o) s
      else if h.merged then (s.closesOf launch n).foldl (fun s o => s.closeDone h.flags o) s
      else s.merge launch n h
    else s
  | none => s

/-- HEAT_CLOSE_COUNT: every ORD.ATOM that the crew issued to the heat before the close has been accepted, and the close is
counted; a second close of a participant is not counted again (R263, R264). -/
def execHeatCloseCount (op : Nat) (s : State) : Host.Outcome State Fault Refusal :=
  event (fun s =>
    match s.opOf op with
    | some o =>
      match o.kind with
      | .ordClose n p false =>
        let open1 := s.fl.ops.any (fun x => decide (x.crew = o.crew) && decide (x.id < op) && (match x.kind with
          | .ordAtom m => decide (m = n)
          | _ => false))
        if open1 then .error .disabled
        else
          let l := o.crew.team.launch
          let s := s.mapOp op (fun o => { o with kind := .ordClose n p true })
          let s := s.mapHeat l n (fun h => { h with closed := if h.closed.contains p then h.closed else h.closed ++ [p] })
          .ok (s.afterClose l n)
      | _ => .error .disabled
    | none => .error .disabled) s

/-- ORD.CLOSE: its pair is pending until the merge is performed; after completion the witness is given at once (R263,
R264). -/
def execOrdClose (d a : BitVec 7) (s : State) : Host.Outcome State Fault Refusal :=
  issue (.ordClose d a) (fun c s => do
    if c.act = 0#32 then .ok (c.go s id) else
    let (p, n, h) ← ordControl c (c.crew.src a 0)
    if h.merged then do
      let own ← c.writeNow (fieldRegs d 2)
      .ok (c.go (s.setCrew c.n own) (fun cr => c.giveAll d (broad 2#3) (cr.orFlags h.flags)))
    else .ok (c.launchOp s (c.op s (.ordClose n p false) (some ⟨d, 2⟩) none [] []) (fieldRegs d 2))) s

/-! ### Updates at their homes (R261, R265) -/

/-- The acceptance numbers of a home for a heat of a launch. -/
def accKey (launch : Word) (heat home : Nat) : Nat := (launch.toNat * 16 + heat) * 256 + home

/-- The heat fails: its held updates are freed and discarded (R265). -/
def State.failHeat (s : State) (launch : Word) (n : Nat) : State :=
  (s.mapHeat launch n (fun h => { h with failed := true })).freeUpdates launch n

/-- An update is appended to its heat's spill area, with the new count; an area that is full fails the heat (R261, R262,
R265). -/
def State.spillAppend (s : State) (u : Upd) : State :=
  match s.heatOf u.launch u.heat with
  | some h =>
    if (h.spillb - 64) / 32 ≤ h.count then s.failHeat u.launch u.heat
    else
      let at0 := 64 + 32 * h.count
      let bytes := leBytes 8 u.pa ++ leBytes 8 u.tag ++ leBytes 8 u.value.toNat ++ leBytes 4 u.acc.toNat ++
        leBytes 4 u.heat
      let count := leBytes 8 (h.count + 1)
      let s := if at0 < 128 then
          s.homeWrite (h.spillAt 0 / 128) (atOffset 0 count ++ atOffset at0 bytes) 0#4 u.launch
        else
          (s.homeWrite (h.spillAt at0 / 128) (atOffset (at0 % 128) bytes) 0#4 u.launch).homeWrite (h.spillAt 0 / 128)
            (atOffset 0 count) 0#4 u.launch
      s.mapHeat u.launch u.heat (fun h => { h with count := h.count + 1 })
  | none => s

/-- The entry that leaves a full buffer: the highest tag; then the higher heat; then the earlier arrival (R261). -/
def spillFirst (x y : Upd) : Bool :=
  decide (y.tag < x.tag) || (decide (x.tag = y.tag) &&
    (decide (y.heat < x.heat) || (decide (x.heat = y.heat) && decide (x.since < y.since))))

/-- A home takes an arriving update into its holding buffer of 16 entries (R261). -/
def State.holdUpdate (s : State) (u : Upd) : State :=
  let held := s.mem.updates.filter (fun x => decide (x.home = u.home))
  let keep (s : State) (u : Upd) : State := { s with mem := { s.mem with updates := s.mem.updates ++ [u] } }
  if held.length < 16 then keep s u
  else
    let out := held.foldl (fun b x => if spillFirst x b then x else b) u
    if out = u then s.spillAppend u
    else
      let s := { s with mem := { s.mem with updates := s.mem.updates.filter (fun x => !decide (x = out)) } }
      let s := s.spillAppend out
      if (s.heatOf u.launch u.heat).any (·.failed) then s else keep s u

/-- ORD_UPDATE_ACCEPT: an update of an ORD.ATOM reaches its home; the operation is over when all have been accepted or
discarded (R261, R264, R265). -/
def execOrdUpdateAccept (op update : Nat) (s : State) : Host.Outcome State Fault Refusal :=
  event (fun s =>
    match s.opOf op with
    | some o =>
      match o.kind, o.accs[update]? with
      | .ordAtom n, some a =>
        match o.reqs[a.req]?, s.heatOf o.crew.team.launch n with
        | some r, some h =>
          match r.target with
          | .home line =>
            if a.fin || decide (r.st ≠ .sent) then .error .disabled
            else
              let launch := o.crew.team.launch
              let home := homeOf line
              let tag := a.aux.toNat
              let gone := h.failed || h.merged || h.closed.contains (tag / 2 ^ 37)
              let s := if gone then s else
                let key := accKey launch n home
                let num := Cells.get 0#32 s.mem.accNum key
                let s := { s with
                  serial := s.serial + 1
                  mem := { s.mem with accNum := Cells.set 0#32 s.mem.accNum key (num + 1#32) } }
                s.holdUpdate ⟨home, launch, n, 128 * line + a.va.toNat % 128, tag, a.data.setWidth 64, num, s.serial⟩
              let o := { o with accs := o.accs.modify update (fun a => { a with fin := true }) }
              let done (i : Nat) : Bool := (o.accsOf i).all (·.fin)
              let o := { o with reqs := o.reqs.zipIdx.map (fun p =>
                if done p.2 then { p.1 with st := .delivered } else p.1) }
              .ok (if o.accs.all (·.fin) then s.dropOp op else s.mapOp op (fun _ => o))
          | _ => .error .disabled
        | _, _ => .error .disabled
      | _, _ => .error .disabled
    | none => .error .disabled) s

end Sys2Proof.Machine
end

