-- ==== Sys2Proof/Machine/Tiles.lean ====
section
/-!
DEFINITION. Tiles (R84 to R90, R95), copy descriptors and the copy engine (R81 to R83, R92, R93, R96 to R98), batches
(R99, R100) and transform programs (R101, R102).
-/

namespace Sys2Proof.Machine

/-! ### Tile descriptors (R84, R85) -/

def tileRows (d : Word) : Nat := (d.extractLsb' 21 11).toNat + 1
/-- Bytes of a row. -/
def tileRowBytes (d : Word) : Nat := 16 * ((d.extractLsb' 11 10).toNat + 1)
def tileBase (d : Word) : Nat := 128 * (d.extractLsb' 0 11).toNat
def tileBytes (d : Word) : Nat := tileRows d * tileRowBytes d

/-- A descriptor is legal in an allocation of so many bytes, beside the other defined tiles. -/
def tileLegal (alloc : Nat) (others : List Word) (d : Word) : Bool :=
  decide ((d.extractLsb' 11 10).toNat ≤ 511) && decide (tileBase d + tileBytes d ≤ alloc) &&
    others.all (fun o => decide (tileBase d + tileBytes d ≤ tileBase o) || decide (tileBase o + tileBytes o ≤ tileBase d))

def Team.tile (t : Team) (n : Nat) : Option Tile := Cells.get none t.tiles n
def Team.setTile (t : Team) (n : Nat) (x : Option Tile) : Team := { t with tiles := Cells.set none t.tiles n x }
/-- The descriptors of the defined tiles but one. -/
def Team.otherTiles (t : Team) (n : Nat) : List Word :=
  t.tiles.filterMap (fun e => if e.1 = n then none else e.2.map (·.desc))

/-! ### Scratchpad bytes (R106) -/

/-- A range of bytes holds a byte of a 4-byte word. -/
def meetsWord (off n w : Nat) : Bool := decide (off < 4 * w + 4) && decide (4 * w < off + n)

/-- A granule's poison bit is set. -/
def Team.foul (t : Team) (g : Nat) : Bool := Cells.get false t.scPoison g
def Team.setFoul (t : Team) (g : Nat) (b : Bool) : Team := { t with scPoison := Cells.set false t.scPoison g b }

/-- A read of byte ranges: an uncorrectable word found sets its granule's poison bit. -/
def Team.readScratch (t : Team) (rs : List (Nat × Nat)) : Team :=
  let hit := t.scBad.filter (fun w => rs.any (fun r => meetsWord r.1 r.2 w))
  hit.foldl (fun t w => t.setFoul (w / 8) true) { t with scBad := t.scBad.filter (fun w => !hit.contains w) }

/-- Writes bytes: a word written whole has fresh ECC; a part written over an uncorrectable word leaves its granule
poisoned. -/
def Team.writeScratch (t : Team) (l : List (Nat × Byte)) : Team :=
  let offs := l.map (·.1)
  let hit := t.scBad.filter (fun w => offs.any (fun o => decide (o / 4 = w)))
  let part := hit.filter (fun w => !(List.range 4).all (fun i => offs.contains (4 * w + i)))
  let t := { t with
    scratch := l.foldl (fun m p => Cells.set 0#8 m p.1 p.2) t.scratch
    scBad := t.scBad.filter (fun w => !hit.contains w) }
  part.foldl (fun t w => t.setFoul (w / 8) true) t

/-- The byte at an offset. -/
def Team.scratchAt (t : Team) (o : Nat) : Byte := Cells.get 0#8 t.scratch o
/-- The 4-byte word of a number. -/
def Team.scratchWord (t : Team) (w : Nat) : Word :=
  BitVec.ofNat 32 (leNum ((List.range 4).map (fun k => t.scratchAt (4 * w + k))))

/-- The 4-byte words that byte ranges touch, each once. -/
def wordsOf (rs : List (Nat × Nat)) : List Nat :=
  (rs.flatMap (fun r => (List.range ((r.1 % 4 + r.2 + 3) / 4)).map (fun k => r.1 / 4 + k))).eraseDups

/-! ### Tile instructions (R95) -/

/-- TILEDEF: it waits for an undefined or empty tile, then defines it under R85. -/
def execTiledef (a b : BitVec 6) (s : State) : Host.Outcome State Fault Refusal :=
  issue (.tiledef a b) (fun c s =>
    let d := c.crew.u a.toNat
    let free := match c.team.tile b.toNat with
      | none => true
      | some x => decide (x.st = .empty)
    if !free then .error .wait
    else if !tileLegal c.team.scratchBytes (c.team.otherTiles b.toNat) d then violation
    else
      let s := s.mapTeam c.team.key (fun t => t.setTile b.toNat (some ⟨d, .empty, 0⟩))
      .ok (c.go s id)) s

/-- TILEDEF.CLR: it waits for an undefined or empty tile, then makes it undefined. -/
def execTiledefClr (b : BitVec 6) (s : State) : Host.Outcome State Fault Refusal :=
  issue (.tiledefClr b) (fun c s =>
    let free := match c.team.tile b.toNat with
      | none => true
      | some x => decide (x.st = .empty)
    if !free then .error .wait
    else .ok (c.go (s.mapTeam c.team.key (fun t => t.setTile b.toNat none)) id)) s

/-- The word TILESTAT writes. -/
def tileWord : Option Tile → Word
  | none => 0#32
  | some x => match x.st with
    | .empty => 4#32
    | .filling => 5#32
    | .ready => 6#32
    | .draining => 7#32

/-- TILESTAT. -/
def execTilestat (d b : BitVec 6) (s : State) : Host.Outcome State Fault Refusal :=
  issue (.tilestat d b) (fun c s =>
    .ok (c.go s (fun cr => cr.putU d.toNat (tileWord (c.team.tile b.toNat))))) s

/-- TREL: a ready tile starts draining; a filling tile is waited for. -/
def execTrel (b : BitVec 6) (s : State) : Host.Outcome State Fault Refusal :=
  issue (.trel b) (fun c s =>
    match c.team.tile b.toNat with
    | none => violation
    | some x => match x.st with
      | .filling => .error .wait
      | .ready =>
        let now := s.serial
        let s := s.mapTeam c.team.key (fun t => t.setTile b.toNat (some { x with st := .draining, owner := now }))
        .ok (c.go { s with serial := now + 1 } id)
      | _ => .ok (c.go s id)) s

/-- A matrix command names a tile of its team. -/
def Cmd.names (m : Cmd) (tile : Nat) : Bool :=
  decide (m.ta = tile) || decide (m.tb = tile) || (m.scaled && (decide (m.sa = tile) || decide (m.sb = tile)))

/-- TILE_DRAINED: every command that issued on the tile before the TREL has read it (R86). -/
def execTileDrained (team tile : Nat) (s : State) : Host.Outcome State Fault Refusal :=
  event (fun s =>
    match s.teams[team]? with
    | some t => match t.tile tile with
      | some x =>
        let reading := s.fl.cmds.any (fun m => decide (m.crew.team = t.key) && m.names tile && !m.started &&
          decide (m.id < x.owner))
        if x.st = .draining ∧ !reading then
          .ok (s.setTeam team (t.setTile tile (some { x with st := .empty, owner := 0 })))
        else .error .disabled
      | none => .error .disabled
    | none => .error .disabled) s

/-! ### What a copy moves (R96, R98, R102) -/

/-- Bits of an element of a format code. -/
def codeBits (x : BitVec 4) : Nat := (fmtCode x.toNat).width

/-- A step of a transform program. -/
def stepKind (w : Word) : Nat := (w.extractLsb' 30 2).toNat
def stepCount (w : Word) : Nat := (w.extractLsb' 18 12).toNat + 1
def stepStride (w : Word) : Int := (w.extractLsb' 0 18).toInt
def stepF (w : Word) : Nat := (w.extractLsb' 16 6).toNat
def stepG (w : Word) : Nat := (w.extractLsb' 10 6).toNat
def stepW (w : Word) : Nat := (w.extractLsb' 6 4).toNat

/-- The number of elements of a program. -/
def progCount (prog : List Word) : Nat :=
  (prog.filter (fun w => stepKind w = 1)).foldl (fun n w => n * stepCount w) 1

/-- The memory element and the scratchpad byte of element e. -/
def xformAt (prog : List Word) (esz e : Nat) : Int × Nat :=
  let dims := prog.filter (fun w => stepKind w = 1)
  let m := (dims.foldl (fun (acc : Int × Nat) w =>
    (acc.1 + ((acc.2 % stepCount w : Nat) : Int) * stepStride w, acc.2 / stepCount w)) (0, e)).1
  let p := (prog.filter (fun w => stepKind w = 2)).foldl (fun p w =>
    p ^^^ (((p >>> stepF w) &&& (2 ^ stepW w - 1)) <<< stepG w)) (e * esz)
  (m, p)

/-- Elements of a row of a converting copy, and the bytes of the row in memory. -/
def Copy.rowElems (c : Copy) : Nat :=
  match c.kind with
  | .convert d f _ _ _ => 8 * c.rowb / codeBits (if c.out then f else d)
  | _ => c.rowb
def Copy.memRow (c : Copy) : Nat :=
  match c.kind with
  | .convert d f _ _ _ => c.rowElems * codeBits (if c.out then d else f) / 8
  | _ => c.rowb

/-- The virtual address of memory row i. -/
def Copy.rowVa (c : Copy) (i : Nat) : Nat := (c.mva + c.mstr.signExtend 64 * BitVec.ofNat 64 i).toNat

/-- The pieces of a copy in its order: virtual address, scratchpad byte (from the tile's first byte for an inward copy),
bytes in memory. -/
def Copy.pieces (c : Copy) : List (Nat × Nat × Nat) :=
  match c.kind with
  | .xform esz prog => (List.range (progCount prog)).map (fun e =>
      let x := xformAt prog esz e
      ((c.mva + BitVec.ofInt 64 (x.1 * esz)).toNat, c.spa + x.2, esz))
  | _ => (List.range c.rows).map (fun i => (c.rowVa i, c.spa + i * c.sstr, c.memRow))

/-- The memory lines of pieces, each once, in the order in which the copy names them: virtual lines (DESIGN CHOICE: log entry
116). -/
def linesOf (ps : List (Nat × Nat × Nat)) : List Nat :=
  (ps.flatMap (fun p => (List.range ((p.1 % 128 + p.2.2 + 127) / 128)).map (fun k => p.1 / 128 + k))).eraseDups

/-- The part of a piece on a line: offset in the line, offset in the piece, bytes. -/
def clip (line : Nat) (p : Nat × Nat × Nat) : Option (Nat × Nat × Nat) :=
  let lo := max p.1 (128 * line)
  let hi := min (p.1 + p.2.2) (128 * line + 128)
  if lo < hi then some (lo - 128 * line, lo - p.1, hi - lo) else none

/-! ### Issue of copies (R81, R87, R92, R93) -/

/-- The register at position k of a descriptor block. -/
def Ctx.block (c : Ctx) (a : BitVec 6) (k : Nat) : Word := c.crew.u (a.toNat + k)

/-- The given witness of a descriptor block. -/
def Ctx.blockWit (c : Ctx) (a : BitVec 6) : DWord := c.crew.u64 (a.toNat + 6)

/-- The checks that every descriptor meets: the witness's form, the address, and the fields of s(a+3), of which those
outside the mask must be zero. -/
def Ctx.descOk (c : Ctx) (a : BitVec 6) (used : Word) (stride : Bool) : Res Unit := do
  ensure (witOk (c.blockWit a)) badWitness
  let mva := c.crew.u64 a.toNat
  ensure (decide (mva.toNat % 4 = 0)) (violation mva)
  ensure (!stride || decide ((c.block a 2).extractLsb' 0 2 = 0#2)) violation
  ensure (decide (c.block a 3 &&& ~~~used = 0#32)) violation

/-- The fields of s(a+3) a mnemonic uses. -/
def shMask : Word := 0x80000000#32
def cvtMask : Word := 0x80000FF0#32
def xformMask : Word := 0x8001F000#32

def Ctx.dfmt (c : Ctx) (a : BitVec 6) : BitVec 4 := (c.block a 3).extractLsb' 8 4
def Ctx.sfmt (c : Ctx) (a : BitVec 6) : BitVec 4 := (c.block a 3).extractLsb' 4 4
/-- The element size of a transform in bytes; codes 5 to 7 are reserved. -/
def Ctx.eszCode (c : Ctx) (a : BitVec 6) : Nat := ((c.block a 3).extractLsb' 14 3).toNat
def Ctx.xslot (c : Ctx) (a : BitVec 6) : Nat := ((c.block a 3).extractLsb' 12 2).toNat

/-- The element counts of a converting copy: a row holds a whole number of elements of the scratchpad-side format, and
they are a whole number of bytes in the memory-side format (R96, R98). -/
def countsOk (rowb : Nat) (near far : BitVec 4) : Bool :=
  near.ule 8#4 && far.ule 8#4 && decide (8 * rowb % codeBits near = 0) &&
    decide (8 * rowb / codeBits near * codeBits far % 8 = 0)

/-- The kind of a converting copy: the mode in force, the key without the element index, and the counter (R96, R158). -/
def Ctx.cvtKind (c : Ctx) (a : BitVec 6) : CopyKind :=
  .convert (c.dfmt a) (c.sfmt a) c.rm
    (BitVec.ofNat 64 ((c.team.lcore % 256) <<< 56 + (c.team.teamid % 8) <<< 53 + (c.crew.key.crew % 32) <<< 48))
    (BitVec.ofNat 64 (1 <<< 62) ||| c.crew.cpyctr.setWidth 64)

/-- The steps before the first END. -/
def progSteps (ws : List Word) : List Word := ws.takeWhile (fun w => stepKind w ≠ 0)

/-- The program of a slot: an earlier XPROG of the crew to it is waited for, and an empty slot is an access violation
(R101). -/
def Ctx.program (c : Ctx) (s : State) (slot : Nat) : Res (List Word) :=
  let loading := s.fl.ops.any (fun o => decide (o.crew = c.crew.key) && decide (o.kind = .xprog slot))
  if loading then .error .wait
  else match Cells.get [] c.team.xprog slot with
    | [] => violation
    | p => .ok (progSteps p)

/-- The steps that permute within the scratchpad side keep whole elements, and their blocks divide it (R102). -/
def xorsOk (prog : List Word) (eszLog n : Nat) : Bool :=
  (prog.filter (fun w => stepKind w = 2)).all (fun w =>
    decide (eszLog ≤ stepG w) && decide (n % 2 ^ (stepF w + stepW w) = 0))

/-- A copy of the context's crew; its lines follow from its pieces. -/
def Ctx.copy (c : Ctx) (s : State) (a : BitVec 6) (kind : CopyKind) (out : Bool) (rows rowb spa sstr : Nat)
    (tiles : List (TeamKey × Nat)) (dest : Option (BitVec 6)) : Copy :=
  let cp : Copy := {
    id := s.serial
    crew := c.crew.key
    core := c.team.core
    kind := kind
    out := out
    sh := (c.block a 3).getLsbD 31
    mva := c.crew.u64 a.toNat
    mstr := c.block a 2
    rows := rows
    rowb := rowb
    spa := spa
    sstr := sstr
    wit := c.blockWit a
    tiles := tiles
    dest := dest
    sels := c.launch.dvs.map (·.sel)
    batch := if out then c.threads.map (fun t => ⟨t, Cells.get 0#32 c.crew.batch t⟩) else []
    lines := []
    taken := []
    landed := []
    hold := .free
    pc := c.grp.first }
  { cp with lines := (linesOf cp.pieces).map (fun l => ⟨l, none, false, false, false, 0#1024, 0#4⟩) }

/-- The copies of a core in flight are fewer than 32 (R81). -/
def State.copyRoom (s : State) (core : Nat) : Bool :=
  decide ((s.fl.copies.filter (fun x => decide (x.core = core))).length < 32)

/-- A copy enters flight: its fill claims are made in one step, its pair is pending, and under SR the crew's copy counter
advances (R87, R96, R97). -/
def Ctx.startCopy (c : Ctx) (s : State) (cp : Copy) : Res State :=
  let claims := cp.tiles.map (fun x => (x, (s.teamOf x.1).bind (fun t => t.tile x.2)))
  let busy := claims.any (fun x => match x.2 with
    | some t => decide (t.st ≠ .empty)
    | none => true)
  if busy || !s.copyRoom cp.core then .error .wait
  else
    let s := cp.tiles.foldl (fun s x => s.mapTeam x.1 (fun t => match t.tile x.2 with
      | some y => t.setTile x.2 (some { y with st := .filling, owner := cp.id })
      | none => t)) s
    let s := { s with serial := s.serial + 1, fl := { s.fl with copies := s.fl.copies ++ [cp] } }
    let sr := match cp.kind with
      | .convert _ _ rm _ _ => decide (rm = 5#3)
      | _ => false
    let regs := match cp.dest with
      | some d => [PReg.u d.toNat, PReg.u (d.toNat + 1)]
      | none => []
    .ok (c.go s (fun cr => { cr.mark cp.id regs with cpyctr := if sr then cr.cpyctr + 1#32 else cr.cpyctr }))

/-- The tile an inward copy fills; an undefined one is an access violation. -/
def Ctx.target (c : Ctx) (b : BitVec 6) : Res Word :=
  match c.team.tile b.toNat with
  | some x => .ok x.desc
  | none => violation

/-- CPY (R96). -/
def execCpy (a b : BitVec 6) (s : State) : Host.Outcome State Fault Refusal :=
  issue (.cpy a b) (fun c s => do
    c.descOk a shMask true
    let d ← c.target b
    c.startCopy s (c.copy s a .plain false (tileRows d) (tileRowBytes d) 0 (tileRowBytes d) [(c.team.key, b.toNat)] none)) s

/-- CPY.MC (R97). -/
def execCpyMc (d a b : BitVec 6) (s : State) : Host.Outcome State Fault Refusal :=
  issue (.cpyMc d a b) (fun c s => do
    c.descOk a shMask true
    let g := c.block a 4
    let ts := s.teamsOf c.team.key.launch c.team.key.gang
    let pos := (List.range 8).filter (fun i => g.getLsbD i)
    ensure (decide (g.extractLsb' 8 24 = 0#24) && !pos.isEmpty &&
      pos.all (fun i => ts.any (fun t => decide (t.key.pos = i)))) violation
    let keys : List TeamKey := pos.map (fun i => { c.team.key with pos := i })
    let ds := keys.map (fun k => ((s.teamOf k).bind (fun t => t.tile b.toNat)).map (·.desc))
    match ds with
    | some x :: _ =>
      ensure (ds.all (fun y => match y with
        | some w => decide (tileRows w = tileRows x) && decide (tileRowBytes w = tileRowBytes x)
        | none => false)) violation
      c.startCopy s (c.copy s a .plain false (tileRows x) (tileRowBytes x) 0 (tileRowBytes x)
        (keys.map (fun k => (k, b.toNat))) (some d))
    | _ => violation) s

/-- CPY.CVT (R96). -/
def execCpyCvt (a b : BitVec 6) (s : State) : Host.Outcome State Fault Refusal :=
  issue (.cpyCvt a b) (fun c s => do
    c.descOk a cvtMask true
    let d ← c.target b
    ensure (countsOk (tileRowBytes d) (c.dfmt a) (c.sfmt a)) violation
    c.startCopy s (c.copy s a (c.cvtKind a) false (tileRows d) (tileRowBytes d) 0 (tileRowBytes d)
      [(c.team.key, b.toNat)] none)) s

/-- XFORM (R102). -/
def execXform (a b : BitVec 6) (s : State) : Host.Outcome State Fault Refusal :=
  issue (.xform a b) (fun c s => do
    c.descOk a xformMask false
    ensure (decide (c.eszCode a ≤ 4)) violation
    let d ← c.target b
    let p ← c.program s (c.xslot a)
    let esz := 2 ^ c.eszCode a
    ensure (decide (progCount p * esz = tileBytes d) && xorsOk p (c.eszCode a) (tileBytes d)) violation
    c.startCopy s (c.copy s a (.xform esz p) false 1 (tileBytes d) 0 0 [(c.team.key, b.toNat)] none)) s

/-- The rows of an outward copy: how many, their bytes, the first byte and the row stride in the scratchpad (R92). -/
def Ctx.outRows (c : Ctx) (a : BitVec 6) : Nat × Nat × Nat × Nat :=
  let w4 := c.block a 4
  let w5 := c.block a 5
  ((w4.extractLsb' 18 14).toNat + 1, 4 * ((w5.extractLsb' 16 16).toNat + 1), (w4.extractLsb' 0 18).toNat,
    4 * (w5.extractLsb' 0 16).toNat)

/-- The scratchpad side of an outward copy of rows lies in the allocation, its address a multiple of 4. -/
def Ctx.rowsOk (c : Ctx) (r : Nat × Nat × Nat × Nat) : Bool :=
  decide (r.2.2.1 % 4 = 0) && decide (r.2.2.1 + (r.1 - 1) * r.2.2.2 + r.2.1 ≤ c.team.scratchBytes)

/-- CPY.OUT (R98). -/
def execCpyOut (a : BitVec 6) (s : State) : Host.Outcome State Fault Refusal :=
  issue (.cpyOut a) (fun c s => do
    c.descOk a shMask true
    let r := c.outRows a
    ensure (c.rowsOk r) violation
    c.startCopy s (c.copy s a .plain true r.1 r.2.1 r.2.2.1 r.2.2.2 [] none)) s

/-- CPY.CVT.OUT (R98). -/
def execCpyCvtOut (a : BitVec 6) (s : State) : Host.Outcome State Fault Refusal :=
  issueF { shape := [.desc [0, 1, 2, 3, 4, 5, 6, 7] a], takes := { rm := true }, twice := some 4 } (fun c s => do
    c.descOk a cvtMask true
    let r := c.outRows a
    ensure (c.rowsOk r && countsOk r.2.1 (c.sfmt a) (c.dfmt a)) violation
    c.startCopy s (c.copy s a (c.cvtKind a) true r.1 r.2.1 r.2.2.1 r.2.2.2 [] none)) s

/-- XFORM.OUT (R102). -/
def execXformOut (a : BitVec 6) (s : State) : Host.Outcome State Fault Refusal :=
  issueF { shape := [.desc [0, 1, 3, 4, 6, 7] a], takes := { }, twice := some 4 } (fun c s => do
    c.descOk a xformMask false
    ensure (decide (c.eszCode a ≤ 4)) violation
    let spa := ((c.block a 4).extractLsb' 0 18).toNat
    ensure (decide (spa % 4 = 0)) violation
    let p ← c.program s (c.xslot a)
    let n := progCount p * 2 ^ c.eszCode a
    ensure (decide (spa + n ≤ c.team.scratchBytes) && xorsOk p (c.eszCode a) n) violation
    c.startCopy s (c.copy s a (.xform (2 ^ c.eszCode a) p) true 1 n spa 0 [] none)) s

/-! ### Transform programs (R101) -/

/-- XPROG: the 64 bytes are read at their home; the slot is loaded when they arrive. -/
def execXprog (a b : BitVec 6) (s : State) : Host.Outcome State Fault Refusal :=
  issue (.xprog a b) (fun c s => do
    let ea := c.crew.u64 a.toNat
    ensure (decide (ea.toNat % 64 = 0)) (violation ea)
    let p ← s.resolve c.team.core c.launch ea .load Need.load false none
    ensure (notHost p) (violation ea)
    let acc : Acc := ⟨0, ea, 0, 0#128, 0#128, 0#128, false⟩
    let o := c.op s (.xprog b.toNat) none none [acc] [LReq.new p.target (ea.toNat / 128) .home false]
    .ok (c.launchOp s o [])) s

/-- A program is legal: it has a DIM step, and its XOR steps and kinds are as R101 asks.  A word of kind 00 ends it
whatever its other bits (DEDUCED: log entry 30). -/
def progOk (ws : List Word) : Bool :=
  let p := progSteps ws
  p.any (fun w => stepKind w = 1) && p.all (fun w => stepKind w ≠ 3) &&
    (p.filter (fun w => stepKind w = 2)).all (fun w =>
      decide (w.extractLsb' 22 8 = 0#8) && decide (w.extractLsb' 0 6 = 0#6) && decide (1 ≤ stepW w) &&
        decide (stepW w ≤ 8) && decide (stepG w + stepW w ≤ stepF w))

/-! ### Lines of a copy -/

/-- The copy in flight of a number. -/
def State.copyOf (s : State) (id : Nat) : Option Copy := s.fl.copies.find? (fun c => decide (c.id = id))
def State.mapCopy (s : State) (id : Nat) (f : Copy → Copy) : State :=
  { s with fl := { s.fl with copies := s.fl.copies.map (fun c => if c.id = id then f c else c) } }
def State.dropCopy (s : State) (id : Nat) : State :=
  { s with fl := { s.fl with copies := s.fl.copies.filter (fun c => !decide (c.id = id)) } }

/-- Where a line of a copy lies: rights, the shadow frame, and the selection the copy uses (R68, R79, R80, R92). -/
def State.copyAddr (s : State) (cp : Copy) (l : Launch) (va : Nat) : Res PAddr :=
  let n := if cp.out then Need.store else Need.load
  let info := BitVec.ofNat 64 va
  if 2 ^ 56 ≤ va then violation info
  else if inWindow va then
    if cp.sh then violation info
    else if granted l (va - Config.windowBase) then .ok (.vault (Config.vaultBase + (va - Config.windowBase)))
    else violation info
  else match s.tlbFind cp.core l.id va with
    | none => .error (.miss va (if cp.out then .copyWrite else .copyRead) none)
    | some t =>
      if !n.ok t.leaf then violation info
      else if cp.sh && !leafDV t.leaf then violation info
      else
        let sel := leafDV t.leaf && (cp.sels[leafRange t.leaf]?).getD false
        .ok (leafAddr t.leaf t.lg va (xor sel cp.sh))

/-- The byte an inward copy has read at a virtual address, and whether it lies in a poisoned granule. -/
def Copy.gotByte (c : Copy) (va : Nat) : Byte × Bool :=
  match c.lines.find? (fun l => decide (l.vline = va / 128)) with
  | some l => (lineByte l.data (va % 128), l.poison.getLsbD (va % 128 / 32))
  | none => (0#8, false)

/-- Bits of a list of elements of w bits, packed as R150 says. -/
def packElems (w : Nat) (l : List Nat) : Nat := l.foldr (fun x acc => acc * 2 ^ w + x % 2 ^ w) 0

/-- A converted row: bytes with poison, and flags (R59, R96).  k0 is the index of its first element. -/
def convRow (df sf : BitVec 4) (rm : BitVec 3) (seed key ctr : DWord) (n k0 : Nat) (src : List (Byte × Bool)) :
    List (Byte × Bool) × BitVec 5 :=
  let ws := codeBits sf
  let wd := codeBits df
  let x := leNum (src.map (·.1))
  let r := (List.range n).map (fun j =>
    convFloat (fmtCode df.toNat) rm (mixLow seed (key ||| BitVec.ofNat 64 (k0 + j)) ctr)
      ((fmtCode sf.toNat).read ((x >>> (ws * j)) % 2 ^ ws)))
  let foul (lo hi : Nat) : Bool := (List.range (hi - lo)).any (fun i => match src[lo + i]? with
    | some p => p.2
    | none => false)
  let bad (j : Nat) : Bool := foul (ws * j / 8) ((ws * j + ws + 7) / 8)
  let bytes := leBytes (n * wd / 8) (packElems wd (r.map (·.1)))
  let bytePoison (b : Nat) : Bool := (List.range ((8 * b + 8 + wd - 1) / wd - 8 * b / wd)).any (fun i => bad (8 * b / wd + i))
  (bytes.zipIdx.map (fun p => (p.1, bytePoison p.2)), orAll (r.map (·.2)))

/-- The bytes that an inward copy writes in its tile, from the tile's first byte, in its order, with the poison each
carries; and the flags of its conversions. -/
def Copy.inward (c : Copy) (seed : DWord) : List (Nat × Byte × Bool) × BitVec 5 :=
  match c.kind with
  | .convert df sf rm key ctr =>
    let n := c.rowElems
    let rows := (List.range c.rows).map (fun i =>
      let r := convRow df sf rm seed key ctr n (i * n) ((List.range c.memRow).map (fun k => c.gotByte (c.rowVa i + k)))
      (r.1.zipIdx.map (fun p => (i * c.sstr + p.2, p.1)), r.2))
    (rows.flatMap (·.1), orAll (rows.map (·.2)))
  | _ => (c.pieces.flatMap (fun p => (List.range p.2.2).map (fun k => (p.2.1 + k, c.gotByte (p.1 + k)))), 0#5)

/-- The byte an outward copy has read at a scratchpad offset, and whether its granule was poisoned. -/
def Copy.sentByte (c : Copy) (o : Nat) : Byte × Bool :=
  match c.taken.find? (fun x => decide (x.1 = o / 4)) with
  | some x => (x.2.1.extractLsb' (8 * (o % 4)) 8, x.2.2)
  | none => (0#8, false)

/-- The pieces of an outward copy with their bytes, in its order; and the flags of its conversions. -/
def Copy.outward (c : Copy) (seed : DWord) : List (Nat × List (Byte × Bool)) × BitVec 5 :=
  match c.kind with
  | .convert df sf rm key ctr =>
    let n := c.rowElems
    let rows := (List.range c.rows).map (fun i =>
      let r := convRow df sf rm seed key ctr n (i * n)
        ((List.range c.rowb).map (fun k => c.sentByte (c.spa + i * c.sstr + k)))
      ((c.rowVa i, r.1), r.2))
    (rows.map (·.1), orAll (rows.map (·.2)))
  | _ => (c.pieces.map (fun p => (p.1, (List.range p.2.2).map (fun k => c.sentByte (p.2.1 + k)))), 0#5)

/-- The bytes that the pieces of an outward copy put on a line, in its order: piece, place in the piece, offset in the line,
byte and poison. -/
def outBytes (ps : List (Nat × List (Byte × Bool))) (line : Nat) : List (Nat × Nat × Nat × Byte × Bool) :=
  ps.zipIdx.flatMap (fun p => match clip line (p.1.1, 0, p.1.2.length) with
    | some (off, k, n) => ((p.1.2.drop k).take n).zipIdx.map (fun x => (p.2, k + x.2, off + x.2, x.1))
    | none => [])

/-- The bytes an outward copy writes on a line, in its order, but those on which a later element of it has landed through
other virtual lines of the same physical line (R98); and the granules that carry poison: those that receive a poisoned byte,
though a later element writes over it (DESIGN CHOICE: log entry 117). -/
def outLine (ps : List (Nat × List (Byte × Bool))) (landed : List Nat) (line : Nat) : List (Nat × Byte) × BitVec 4 :=
  let over' := landed.flatMap (outBytes ps)
  let l := (outBytes ps line).filter (fun x => !over'.any (fun y => decide (y.2.2.1 = x.2.2.1) &&
    (decide (x.1 < y.1) || (decide (x.1 = y.1) && decide (x.2.1 < y.2.1)))))
  (l.map (fun x => (x.2.2.1, x.2.2.2.1)), granulesOf ((l.filter (fun x => x.2.2.2.2)).map (·.2.2.1)))

/-- The virtual lines through which a copy has written a line. -/
def Copy.writtenTo (c : Copy) (t : Target) : List Nat :=
  (c.lines.filter (fun l => l.done && decide (l.asked = some t))).map (·.vline)

/-- The granules of a line that an inward copy's pieces touch. -/
def Copy.readsOf (c : Copy) (line : Nat) : BitVec 4 :=
  granulesOf ((c.pieces.filterMap (clip line)).flatMap (fun p => (List.range p.2.2).map (fun k => p.1 + k)))

/-- Elements of one width that meet n bytes from byte k of a packed row: first byte and bytes of the same elements in
another width. -/
def spanOf (w1 w2 k n : Nat) : Nat × Nat :=
  let j0 := 8 * k / w1
  let j1 := (8 * (k + n) + w1 - 1) / w1
  (w2 * j0 / 8, (w2 * j1 + 7) / 8 - w2 * j0 / 8)

/-- The scratchpad words from which a line of an outward copy is written. -/
def Copy.needs (c : Copy) (line : Nat) : List Nat :=
  match c.kind with
  | .convert df sf _ _ _ => wordsOf ((List.range c.rows).filterMap (fun i =>
      (clip line (c.rowVa i, 0, c.memRow)).map (fun x =>
        let r := spanOf (codeBits df) (codeBits sf) x.2.1 x.2.2
        (c.spa + i * c.sstr + r.1, r.2))))
  | _ => wordsOf (c.pieces.filterMap (fun p => (clip line p).map (fun x => (p.2.1 + x.2.1, x.2.2))))

/-- The memory lines from which a word of a fill's tile is written. -/
def Copy.feeds (c : Copy) (w : Nat) : List Nat :=
  match c.kind with
  | .convert df sf _ _ _ => linesOf ((List.range c.rows).filterMap (fun i =>
      if meetsWord (i * c.sstr) c.rowb w then
        let r := spanOf (codeBits df) (codeBits sf) (4 * w - i * c.sstr) 4
        some (c.rowVa i + r.1, 0, r.2)
      else none))
  | _ => linesOf (c.pieces.filterMap (fun p =>
      if meetsWord p.2.1 p.2.2 w then
        let lo := max p.2.1 (4 * w)
        some (p.1 + (lo - p.2.1), 0, min (p.2.1 + p.2.2) (4 * w + 4) - lo)
      else none))

/-- An outward copy reads scratchpad words that it has not read yet (R284); an uncorrectable word found poisons its granule
(R106). -/
def State.takeWords (s : State) (c : Copy) (ws : List Nat) : State × Copy :=
  let ws := ws.filter (fun w => !c.taken.any (fun x => decide (x.1 = w)))
  let s := s.mapTeam c.crew.team (fun t => t.readScratch (ws.map (fun w => (4 * w, 4))))
  match s.teamOf c.crew.team with
  | some t =>
    let c := { c with taken := c.taken ++ ws.map (fun w => (w, t.scratchWord w, t.foul (w / 8))) }
    (s.mapCopy c.id (fun _ => c), c)
  | none => (s, c)

/-- Line i of a copy has been read or written.  An outward copy whose last line is written ORs its flags and is over
(R98). -/
def State.copyLineDone (s : State) (cp : Copy) (i : Nat) (data : Line) (poison : BitVec 4) (seed : DWord) : State :=
  let cp := { cp with lines := cp.lines.modify i (fun l => { l with done := true, data := data, poison := poison }) }
  if cp.out && cp.lines.all (·.done) then
    (s.mapCrew cp.crew (fun c => c.orFlags (cp.outward seed).2)).dropCopy cp.id
  else s.mapCopy cp.id (fun _ => cp)

/-- Words of a fill are written in a tile whose first byte and bytes are given: `bytes` is what the whole fill writes,
`before` the words it has written, `ws` those it writes now.  A granule that the tile covers takes the fill's poison with its
last word, and one it covers in part keeps its own as well (R59, R106). -/
def Team.fillWords (t : Team) (base size : Nat) (bytes : List (Nat × Byte × Bool)) (before ws : List Nat) : Team :=
  let now := bytes.filter (fun p => ws.contains (p.1 / 4))
  let t := t.writeScratch (now.map (fun p => (base + p.1, p.2.1)))
  ((ws.map (· / 8)).eraseDups).foldl (fun t r =>
    let hit (p : Nat × Byte × Bool) : Bool := p.2.2 && decide (p.1 / 32 = r)
    let g := base / 32 + r
    let whole := (List.range 8).all (fun k => before.contains (8 * r + k) || ws.contains (8 * r + k))
    if whole && decide (32 * r + 32 ≤ size) then t.setFoul g (bytes.any hit) else t.setFoul g (t.foul g || now.any hit)) t

/-- The words of tile k of a fill that it has written already. -/
def Copy.landedIn (c : Copy) (k : Nat) : List Nat := (c.landed.filter (fun x => decide (x.1 = k))).map (·.2)

/-- A fill writes a word of its tile k: every line it comes from has been read (R89). -/
def State.landWord (s : State) (copy k w : Nat) : State :=
  match s.copyOf copy with
  | some cp =>
    match s.launchOf cp.crew.team.launch, cp.tiles[k]? with
    | some l, some x =>
      let fed := (cp.feeds w).all (fun v => cp.lines.any (fun ln => decide (ln.vline = v) && ln.done))
      let bytes := (cp.inward l.seed).1
      if cp.out || cp.landed.contains (k, w) || !fed || !bytes.any (fun p => decide (p.1 / 4 = w)) then s
      else
        let s := s.mapTeam x.1 (fun t => match t.tile x.2 with
          | some y => t.fillWords (tileBase y.desc) (tileBytes y.desc) bytes (cp.landedIn k) [w]
          | none => t)
        s.mapCopy cp.id (fun c => { c with landed := c.landed ++ [(k, w)] })
    | _, _ => s
  | none => s

/-- A copy fails after issue: its gang is killed, and neither the failing line nor a later one is performed (R92). -/
def State.copyFails (s : State) (cp : Copy) (t : Trap) : State :=
  (s.dropCopy cp.id).trapAfter cp.core cp.crew cp.pc t

/-- A copy may read a remote line from a copy held in the L2 (R93). -/
def Copy.l2Allowed (c : Copy) (dev line : Nat) : Bool :=
  match witForm c.wit with
  | 2 => !decide (c.wit.extractLsb' 12 49 = BitVec.ofNat 11 dev ++ BitVec.ofNat 38 line)
  | 3 => (c.wit.extractLsb' 58 3).ult 3#3
  | _ => true

/-- A copy has started on its lines (R81). -/
def Copy.begun (c : Copy) : Bool :=
  decide (c.hold ≠ .free) || !c.taken.isEmpty || c.lines.any (fun l => l.done || l.asked.isSome)

/-- The copies of the core that issued before have started (R81). -/
def State.copyTurn (s : State) (cp : Copy) : Bool :=
  s.fl.copies.all (fun x => !decide (x.core = cp.core) || decide (cp.id ≤ x.id) || x.begun)

/-- A copy may go on to its line i: its turn has come, no translation holds it, and every earlier line is translated (R81,
R92). -/
def State.mayReach (s : State) (cp : Copy) (i : Nat) : Bool :=
  s.copyTurn cp && decide (cp.hold = .free) && (cp.lines.take i).all (fun l => l.done || l.asked.isSome)

/-- The first address of a copy in a line. -/
def Copy.lineVa (c : Copy) (vline : Nat) : Nat :=
  128 * vline + (match c.pieces.findSome? (clip vline) with
    | some p => p.1
    | none => 0)

/-- Line i of a copy lies at an address, where it will be read or written. -/
def State.askLine (s : State) (cp : Copy) (i : Nat) (p : PAddr) : State :=
  s.mapCopy cp.id (fun _ => { cp with lines := cp.lines.modify i (fun x =>
    { x with asked := some p.target, rc := p.cacheable }) })

/-- The L2 of the copy's die will keep the line that a read under way brings (R302). -/
def State.keepLine (s : State) (copy i : Nat) : State :=
  s.mapCopy copy (fun c => { c with lines := c.lines.modify i (fun x => { x with keep := !c.out && x.rc && !x.done }) })

/-- A copy that has found where its line i lies. -/
def Copy.located (c : Copy) (i : Nat) (t : Target) : Copy :=
  { c with lines := c.lines.modify i (fun x => { x with asked := some t }) }

/-- Line i of a copy is read or written at its home (R82). -/
def State.copyHome (s : State) (cp : Copy) (l : Launch) (i vline pl : Nat) : State :=
  if cp.out then
    let x := s.takeWords cp (cp.needs vline)
    let out := outLine (x.2.outward l.seed).1 (x.2.writtenTo (.home pl)) vline
    (x.1.homeWrite pl out.1 out.2 l.id).copyLineDone (x.2.located i (.home pl)) i 0#1024 0#4 l.seed
  else
    let s := s.homeRead pl (cp.readsOf vline) l.id
    s.copyLineDone cp i (s.lineAt pl) (s.lineMeta pl).poison l.seed

/-- COPY_LINE: the copy's next line is translated, and read or written at its home; a line of another device is asked for,
or, of a page with RC = 1, taken from a copy in the L2 that R93 permits.  DESIGN CHOICE (log entry 100): a poisoned granule
leaves for host memory as plain bytes.
A line translated before is read or written now.  Copies of a core start in issue order (R81, R82, R92). -/
def execCopyLine (copy line : Nat) (s : State) : Host.Outcome State Fault Refusal :=
  event (fun s =>
    match s.copyOf copy with
    | some cp =>
      match cp.lines[line]?, s.launchOf cp.crew.team.launch with
      | some ln, some l =>
        if ln.done then .error .disabled
        else match ln.asked with
        | some (.home pl) => .ok (s.copyHome cp l line ln.vline pl)
        | some _ => .error .disabled
        | none =>
          if !s.mayReach cp line then .error .disabled
          else
            match s.copyAddr cp l (cp.lineVa ln.vline) with
            | .error (.miss va a _) =>
              .ok ((s.mapCopy cp.id (fun c => { c with hold := .walk })).addMiss l.id ⟨cp.core, va, a, .copy cp.id, none⟩)
            | .error (.trap t) => .ok (s.copyFails cp t)
            | .error _ => .error .disabled
            | .ok p =>
              match p.target with
              | .home pl => .ok (s.copyHome cp l line ln.vline pl)
              | .remote d rl =>
                if cp.out then
                  let x := s.takeWords cp (cp.needs ln.vline)
                  if d = 2047 then
                    let s := x.1
                    let out := outLine (x.2.outward l.seed).1 (x.2.writtenTo p.target) ln.vline
                    let s := { s with dev := { s.dev with out := s.dev.out ++ [OutMsg.hostWrite (s.dev.hostbase.toNat + 128 * rl) out.1] } }
                    .ok (s.copyLineDone (x.2.located line p.target) line 0#1024 0#4 l.seed)
                  else .ok (x.1.askLine x.2 line p)
                else match s.l2At (dieOf cp.core) d rl with
                  | some x =>
                    if p.cacheable && cp.l2Allowed d rl then .ok (s.copyLineDone cp line x.data x.poison l.seed)
                    else .ok (s.askLine cp line p)
                  | none => .ok (s.askLine cp line p)
              | .scratch _ => .error .disabled
      | _, _ => .error .disabled
    | none => .error .disabled) s

/-- The copy's next line is translated; it is at a home, and COPY_LINE reads or writes it later (R81). -/
def State.reachLine (s : State) (copy : Nat) : State :=
  match s.copyOf copy with
  | some cp =>
    let i := cp.lines.findIdx (fun x => !x.done && x.asked.isNone)
    match cp.lines[i]?, s.launchOf cp.crew.team.launch with
    | some ln, some l =>
      if !s.mayReach cp i then s
      else match s.copyAddr cp l (cp.lineVa ln.vline) with
        | .ok p => match p.target with
          | .home _ => s.askLine cp i p
          | _ => s
        | .error _ => s
    | _, _ => s
  | none => s

/-- An outward copy whose turn has come reads a scratchpad word that a line of it needs (R284). -/
def State.takeWord (s : State) (copy w : Nat) : State :=
  match s.copyOf copy with
  | some cp =>
    if cp.out && s.copyTurn cp && cp.lines.any (fun l => !l.done && (cp.needs l.vline).contains w) then (s.takeWords cp [w]).1
    else s
  | none => s

/-- TILE_READY: every byte of the fill is written and its flags are merged; the tiles become ready, and the pair of a
CPY.MC receives its witness (R86, R96, R97).  DESIGN CHOICE (log entry 135): the targets of a CPY.MC become ready together. -/
def execTileReady (copy : Nat) (s : State) : Host.Outcome State Fault Refusal :=
  event (fun s =>
    match s.copyOf copy with
    | some cp =>
      match s.launchOf cp.crew.team.launch with
      | some l =>
        if cp.out || !cp.lines.all (·.done) then .error .disabled
        else
          let r := cp.inward l.seed
          let s := cp.tiles.zipIdx.foldl (fun s x => s.mapTeam x.1.1 (fun t => match t.tile x.1.2 with
            | some y =>
              let old := cp.landedIn x.2
              let ws := (List.range (tileBytes y.desc / 4)).filter (fun w => !old.contains w)
              (t.fillWords (tileBase y.desc) (tileBytes y.desc) r.1 old ws).setTile x.1.2 (some { y with st := .ready, owner := 0 })
            | none => t)) s
          let s := s.mapCrew cp.crew (fun c =>
            let c := (c.orFlags r.2).unmark cp.id
            match cp.dest with
            | some d => c.putU64 d.toNat (broad 1#3)
            | none => c)
          .ok (s.dropCopy cp.id)
      | none => .error .disabled
    | none => .error .disabled) s

/-! ### Batches (R99, R100) -/

/-- A batch holds a copy that has not performed every line. -/
def State.batchOpen (s : State) (k : CrewKey) (b : Batch) : Bool :=
  s.fl.copies.any (fun c => decide (c.crew = k) && c.batch.contains b)

/-- The unfinished sealed batches of a thread. -/
def Crew.sealedOf (c : Crew) (t : Nat) : Nat := (c.sealedB.filter (fun b => decide (b.thread = t))).length

/-- SEAL. -/
def execSeal (d : BitVec 6) (s : State) : Host.Outcome State Fault Refusal :=
  issue (.seal d) (fun c s =>
    let cur (t : Nat) : Batch := ⟨t, Cells.get 0#32 c.crew.batch t⟩
    let left := c.threads.filter (fun t => s.batchOpen c.crew.key (cur t))
    if left.any (fun t => decide (63 ≤ c.crew.sealedOf t)) then .error .wait
    else .ok (c.go s (fun cr =>
      let cr := { cr with
        batch := Cells.setAll 0#32 cr.batch (c.threads.map (fun t => (t, (cur t).number + 1#32)))
        sealedB := cr.sealedB ++ left.map cur }
      cr.putU d.toNat (cur (lowThread c.act)).number))) s

/-- A sealed batch of a thread other than its n newest is unfinished. -/
def Crew.batchOpenBehind (c : Crew) (t n : Nat) : Bool :=
  c.sealedB.any (fun b => decide (b.thread = t) && decide (n < (Cells.get 0#32 c.batch t - b.number).toNat))

/-- WAITB n: it waits for every sealed batch that its witness stands for, all but the n newest of each thread, so that at most
n are unfinished (R100; DEDUCED: log entry 134). -/
def execWaitb (d b : BitVec 6) (s : State) : Host.Outcome State Fault Refusal :=
  issue (.waitb d b) (fun c s =>
    if c.threads.any (fun t => c.crew.batchOpenBehind t b.toNat) then .error .wait
    else .ok (c.go s (fun cr => cr.putU64 d.toNat (broad c.scope)))) s

/-- BATCH_FINISH: every copy of the sealed batch has performed its last line. -/
def execBatchFinish (crew thread batch : Nat) (s : State) : Host.Outcome State Fault Refusal :=
  event (fun s =>
    match s.crews[crew]? with
    | some c =>
      let b : Batch := ⟨thread, BitVec.ofNat 32 batch⟩
      if c.sealedB.contains b && !s.batchOpen c.key b then
        .ok (s.setCrew crew { c with sealedB := c.sealedB.filter (fun x => !decide (x = b)) })
      else .error .disabled
    | none => .error .disabled) s

end Sys2Proof.Machine
end

