-- ==== Sys2Proof/Machine/Matrix.lean ====
section
/-!
DEFINITION. The matrix engine and accumulator memory (R218 to R242): regions and cells, matrix commands with the
sequencer, the arithmetic of a cell with its alignment window, and the ACC instructions.
-/

namespace Sys2Proof.Machine

/-! ### Regions and cells (R219, R220) -/

/-- Fields of a region word: slots of a cell, rows, columns, first slot, slots in all. -/
def regWide (d : Word) : Bool := d.getLsbD 31
def regSlots (d : Word) : Nat := if regWide d then 2 else 1
def regRows (d : Word) : Nat := (d.extractLsb' 23 8).toNat + 1
def regCols (d : Word) : Nat := 16 * ((d.extractLsb' 17 6).toNat + 1)
def regBase (d : Word) : Nat := 32 * (d.extractLsb' 0 11).toNat
def regTotal (d : Word) : Nat := regRows d * regCols d * regSlots d
def regFmt (d : Word) : Fmt := if regWide d then fp64 else fp32

/-- A region word is legal in an allocation of so many units of 4,096 slots. -/
def regLegal (accu : Nat) (d : Word) : Bool :=
  decide (d.extractLsb' 11 6 = 0#6) && decide (regBase d + regTotal d ≤ 4096 * accu)

/-- The first slot of cell n, counted row by row. -/
def cellSlot (d : Word) (n : Nat) : Nat := regBase d + regSlots d * n

def Team.region (t : Team) (n : Nat) : Option Word := Cells.get none t.regions n
def Team.slot (t : Team) (n : Nat) : Word := Cells.get 0#32 t.acc n
def Team.slotSt (t : Team) (n : Nat) : Byte := Cells.get 0#8 t.accSt n
/-- The bits of cell n of a region. -/
def Team.cell (t : Team) (d : Word) (n : Nat) : Nat :=
  let k := cellSlot d n
  if regWide d then (t.slot (k + 1) ++ t.slot k).toNat else (t.slot k).toNat
/-- The status of cell n. -/
def Team.cellSt (t : Team) (d : Word) (n : Nat) : Byte := t.slotSt (cellSlot d n)
/-- Writes cell n and its status; the upper slot's status of an FP64 cell reads 0.  An uncorrectable row stays so (DESIGN
CHOICE: log entry 107). -/
def Team.setCell (t : Team) (d : Word) (n bits : Nat) (st : Byte) : Team :=
  let k := cellSlot d n
  let lo := Cells.set 0#32 t.acc k (BitVec.ofNat 32 bits)
  let sl := Cells.set 0#8 t.accSt k st
  if regWide d then
    { t with acc := Cells.set 0#32 lo (k + 1) (BitVec.ofNat 32 (bits >>> 32)), accSt := Cells.set 0#8 sl (k + 1) 0#8 }
  else { t with acc := lo, accSt := sl }

/-- An uncorrectable row of accumulator memory among slot ranges (R242): its first slot. -/
def Team.accFoul (t : Team) (rs : List (Nat × Nat)) : Option Nat :=
  (t.accBad.find? (fun r => rs.any (fun x => decide (x.1 < 32 * r + 32) && decide (32 * r < x.1 + x.2)))).map (32 * ·)

/-- What R403 reports of accumulator memory, and of a scratchpad granule. -/
def accInfo (slot : Nat) : DWord := BitVec.ofNat 64 (3 <<< 60 + slot)
def scInfo (pos g : Nat) : DWord := BitVec.ofNat 64 (1 <<< 60 + pos <<< 18 + 32 * g)

/-! ### Who uses which cells (R229, R230) -/

/-- Slot ranges: first slot and length. -/
abbrev Slots := List (Nat × Nat)

def slotsMeet (a b : Slots) : Bool :=
  a.any (fun x => b.any (fun y => decide (x.1 < y.1 + y.2) && decide (y.1 < x.1 + x.2)))

/-- The slots of rows 0 to m - 1 and columns 0 to n - 1 of a region. -/
def blockSlots (d : Word) (m n : Nat) : Slots :=
  if n = regCols d then [(regBase d, m * n * regSlots d)]
  else (List.range m).map (fun i => (cellSlot d (i * regCols d), n * regSlots d))
def regionSlots (d : Word) : Slots := [(regBase d, regTotal d)]
def Cmd.slots (m : Cmd) : Slots := blockSlots m.region m.m m.n

/-- The region of an ACC instruction in flight: its number and word. -/
def MOp.accRegion (o : MOp) : Option (Nat × Word) :=
  match o.kind with
  | .accdrain k r _ _ _ _ => some (k, r)
  | .accsave k r _ => some (k, r)
  | .accload k r _ => some (k, r)
  | _ => none

/-- A command or an ACC instruction of the team issued before `now` that is not over uses one of the slots. -/
def State.accBusy (s : State) (k : TeamKey) (now : Nat) (x : Slots) : Bool :=
  s.fl.cmds.any (fun m => decide (m.crew.team = k) && decide (m.id < now) && slotsMeet m.slots x) ||
  s.fl.ops.any (fun o => decide (o.crew.team = k) && decide (o.id < now) && (match o.accRegion with
    | some r => slotsMeet (regionSlots r.2) x
    | none => false))
/-- One names the region number. -/
def State.accNamed (s : State) (k : TeamKey) (n : Nat) : Bool :=
  s.fl.cmds.any (fun m => decide (m.crew.team = k) && decide (m.num = n)) ||
  s.fl.ops.any (fun o => decide (o.crew.team = k) && (match o.accRegion with
    | some r => decide (r.1 = n)
    | none => false))

/-! ### Operands (R25, R150, R151, R221) -/

/-- K of an operand code. -/
def matK (f : Nat) : Nat :=
  match f with
  | 0 => 128
  | 5 => 128
  | 1 => 96
  | 2 => 96
  | 6 => 32
  | 7 => 32
  | 8 => 16
  | 9 => 8
  | _ => 64
/-- The format of an operand's elements; B of code 5 is LQ2. -/
def matFmt (f : Nat) (isB : Bool) : Fmt :=
  match f with
  | 0 => e2m1
  | 1 => e3m2
  | 2 => e2m3
  | 3 => e4m3
  | 4 => e5m2
  | 5 => e2m1
  | 6 => fp16
  | 7 => bf16
  | 8 => fp32
  | 9 => fp64
  | 10 => if isB then e5m2 else e4m3
  | _ => if isB then e4m3 else e5m2
/-- Bytes of one row of K elements. -/
def matRowBytes (f : Nat) (isB : Bool) : Nat :=
  if f = 5 ∧ isB then 32 else matK f * (matFmt f isB).width / 8

/-- The K elements of a row. -/
def matElems (f : Nat) (isB : Bool) (row : Nat) : List Num :=
  (List.range (matK f)).map (fun k =>
    if f = 5 ∧ isB then lq2Num ((row >>> (16 * (k / 8))) % 65536) (k % 8)
    else
      let w := (matFmt f isB).width
      (matFmt f isB).read ((row >>> (w * k)) % 2 ^ w))

/-- The byte of scale (r, j) in a scale tile (R153). -/
def scaleByte (r j : Nat) : Nat := 64 * (r / 16) + 16 * (r % 4) + 4 * ((r % 16) / 4) + j
/-- A scale tile's layout for a number of rows (R153). -/
def scaleLayoutOk (d : Word) (rows : Nat) : Bool :=
  decide (tileRowBytes d = 64) && decide (tileRows d = rows / 16)

/-! ### One cell (R223, R224) -/

/-- Elements with their scales; a NaN scale is noted. -/
structure MRow where
  elems : List Num
  nan   : Bool
  deriving DecidableEq, Repr

/-- A row under its scales, one per 32 elements; an element under a NaN scale is NaN (R149). -/
def scaledRow (l : List Num) (sc : List Nat) : MRow where
  elems := l.zipIdx.map (fun p => match sc[p.2 / 32]? with
    | some x => if x = 255 then .nan false else p.1.shift ((x : Int) - 127)
    | none => p.1)
  nan := sc.contains 255

/-- The largest leading and the smallest trailing bit positions of nonzero terms. -/
def topBit (l : List Dy) : Option Int :=
  l.foldl (fun acc d => match acc with
    | none => some (leadOf d.m d.e)
    | some a => some (if a < leadOf d.m d.e then leadOf d.m d.e else a)) none

/-- A cell's terms do not fit the alignment window, and the window's sum does not decide the rounding (R224); among them a
NaN or an infinity counts for nothing (DEDUCED: log entry 112). -/
def escalates (f : Fmt) (l : List Dy) : Bool :=
  let nz := l.filter (fun d => decide (d.m ≠ 0))
  match topBit nz with
  | none => false
  | some e =>
    let lo := e - 159
    if nz.all (fun d => decide (lo ≤ lowBit (bitLen d.m) d.m d.e)) then false
    else
      let sum : Int := nz.foldl (fun acc d =>
        let v := if lo ≤ d.e then d.m <<< (d.e - lo).toNat else d.m >>> (lo - d.e).toNat
        if d.neg then acc - (v : Int) else acc + (v : Int)) 0
      if sum = 0 then true
      else
        let lead := leadOf sum.natAbs lo
        let q := if lead - f.mb < f.emin - f.mb then f.emin - f.mb else lead - f.mb
        decide (q ≤ lo + 8)

/-- A cell's new value, the flags, and whether it is escalated. -/
structure CellOut where
  bits  : Nat
  flags : BitVec 5
  wide  : Bool
  deriving DecidableEq, Repr

/-- The sum of c and the products of a row and a column; whether it is escalated follows from its finite terms (R223, R224). -/
def cellOut (f : Fmt) (rm : BitVec 3) (a b : MRow) (c : Num) : CellOut :=
  let ps := a.elems.zip b.elems
  let sound (p : Num × Num) : Bool := !p.1.isNan && !p.2.isNan
  let zeroInf := ps.any (fun p => sound p && badProduct p.1 p.2)
  let prods := (ps.filter (fun p => sound p && !badProduct p.1 p.2)).map (fun p => mulNum p.1 p.2)
  let infs := (c :: prods).filter Num.isInf
  let opposed := infs.any Num.neg && infs.any (fun x => !x.neg)
  let scaleNan := a.nan || b.nan
  let nan := c.isNan || scaleNan || zeroInf || opposed || ps.any (fun p => !sound p)
  let inv := if zeroInf || opposed || scaleNan then flInvalid else sigFlag (c :: (a.elems ++ b.elems))
  let l := c.dy :: prods.map Num.dy
  let wide := escalates f l
  if nan then ⟨f.nan, inv, wide⟩
  else match infs with
    | x :: _ => ⟨f.inf x.neg, inv, wide⟩
    | [] =>
      let r := f.round rm 0#32 (sumDy rm l)
      ⟨r.1, inv ||| r.2, wide⟩

/-- The status byte of flags. -/
def statusOf (f : BitVec 5) : Byte := (f &&& ~~~flDivzero).setWidth 8

/-! ### Issue of commands (R222, R225 to R228) -/

/-- M and N of the shape fields (R18). -/
def matM (m : BitVec 2) : Nat := if m = 0#2 then 64 else if m = 1#2 then 128 else 256
def matN (n : BitVec 6) : Nat := if n = 0#6 then 1024 else 16 * n.toNat

/-- The identifiers HINT.DEP names (R27). -/
def depIds (h : Hints) : List (BitVec 6) :=
  match h.dep with
  | none => []
  | some p => if p.extractLsb' 12 2 = 2#2 then [p.extractLsb' 0 6, p.extractLsb' 6 6] else [p.extractLsb' 0 6]

/-- The tiles a command names are defined. -/
def Ctx.tileOf (c : Ctx) (n : Nat) : Option Tile := c.team.tile n

/-- A matrix command whose rows of A are known from its A tile: shape checks, the wait for its tiles, for the sequencer
and for its identifier, and its acceptance.  `rows` answers the tile rows and the out-of-range mask. -/
def command (m : BitVec 2) (n : BitVec 6) (ta tb : BitVec 5) (acc : BitVec 4) (f : Nat) (scales : Option (Nat × Nat))
    (rows : Word → Res (List (Option Nat) × BitVec 16)) (c : Ctx) (s : State) : Res State := do
  let mm := matM m
  let nn := matN n
  let scs := match scales with
    | some p => [p.1, p.2]
    | none => []
  let scOk := match scales with
    | some p => (match c.tileOf p.1 with
        | some x => scaleLayoutOk x.desc mm
        | none => true) && (match c.tileOf p.2 with
        | some x => scaleLayoutOk x.desc nn
        | none => true)
    | none => true
  let ts := ([ta.toNat, tb.toNat] ++ scs).map c.tileOf
  ensure (!ts.contains none || scOk) scaleLayout
  match c.tileOf ta.toNat, c.tileOf tb.toNat with
  | some xa, some xb =>
    ensure (!ts.contains none) violation
    if ts.any (fun x => match x with
        | some y => decide (y.st ≠ .ready)
        | none => true) then .error .wait
    else
      ensure scOk scaleLayout
      let r ← rows xa.desc
      ensure (decide (matRowBytes f false ≤ tileRowBytes xa.desc) && decide (nn ≤ tileRows xb.desc) &&
        decide (matRowBytes f true ≤ tileRowBytes xb.desc)) violation
      match c.team.region acc.toNat with
      | none => violation
      | some g =>
        ensure (decide (mm ≤ regRows g) && decide (nn ≤ regCols g)) violation
        let core := c.team.core
        let here := s.fl.cmds.filter (fun x => decide (x.core = core))
        if decide (64 ≤ here.length) || here.any (fun x => decide (x.crew = c.crew.key) && decide (x.ident = c.crew.mnext)) then
          .error .wait
        else
          let sc := scales.getD (0, 0)
          let cmd : Cmd := {
            id := s.serial
            crew := c.crew.key
            core := core
            ident := c.crew.mnext
            num := acc.toNat
            region := g
            m := mm
            n := nn
            fmt := BitVec.ofNat 4 f
            scaled := scales.isSome
            ta := ta.toNat
            tb := tb.toNat
            sa := sc.1
            sb := sc.2
            rowsA := r.1
            mask := r.2
            rm := c.rm
            dep := depIds c.grp.hints
            seen := []
            started := false
            left := []
            pc := c.grp.first }
          let s := { s with serial := s.serial + 1, fl := { s.fl with cmds := s.fl.cmds ++ [cmd] } }
          .ok (c.go s (fun cr => { cr with mnext := cr.mnext + 1#6 }))
  | _, _ => violation

/-- Row i of A is tile row i; the A tile has at least M rows. -/
def plainRows (m : Nat) (d : Word) : Res (List (Option Nat) × BitVec 16) :=
  if m ≤ tileRows d then .ok ((List.range m).map some, 0#16) else violation

/-- MMA (R221 to R223). -/
def execMma (m : BitVec 2) (n : BitVec 6) (a b : BitVec 5) (c0 f : BitVec 4) (s : State) :
    Host.Outcome State Fault Refusal :=
  issue (.mma m n a b c0 f) (command m n a b c0 f.toNat none (plainRows (matM m))) s

/-- MMAS: the scale tiles that HINT.C names (R227). -/
def execMmas (m : BitVec 2) (n : BitVec 6) (a b : BitVec 5) (c0 f : BitVec 4) (s : State) :
    Host.Outcome State Fault Refusal :=
  issue (.mmas m n a b c0 f) (fun c =>
    let p := c.grp.hints.c.getD 0#22
    command m n a b c0 f.toNat (some ((p.extractLsb' 5 5).toNat, (p.extractLsb' 0 5).toNat)) (plainRows (matM m)) c) s

/-- A compared point that R139's table does not list. -/
def silentOther {α : Type} (s : State) : Res α := silentError (1 + Config.pick s.free % 7)

/-- Checks that a run of registers can be read now: quota, pending. -/
def Ctx.readsRun (c : Ctx) (f n : Nat) : Res Unit := do
  let rs : List PReg := (List.range n).map (fun k => .v (f + k))
  ensure (inQuota c.crew.quota rs) invalid
  if rs.any c.crew.pending then .error .wait else .ok ()

/-- The trap of the index words of an MMA.G: one is uncorrectable (R132), or the members differ on them (R240). -/
def Ctx.runTrap (c : Ctx) (s : State) (f n : Nat) (same : Bool) : Option Trap :=
  match (List.range n).find? (fun k => c.crew.vbad.contains (f + k)) with
  | some k => some { cause := 8, info := BitVec.ofNat 64 (2 <<< 60 + (f + k)) }
  | none => if c.launch.prot && !same then some (s.twiceTrap 0) else none

/-- MMA.G: the tile row of each row of A by index (R225). -/
def execMmaG (m : BitVec 2) (n : BitVec 6) (a b : BitVec 5) (c0 : BitVec 4) (f : BitVec 3) (s : State) :
    Host.Outcome State Fault Refusal :=
  issue (.mmaG m n a b c0 f) (fun c s => do
    let fld := (c.grp.hints.cField.getD 127#7).toNat
    let w := c.W
    let g := matM m / (2 * w)
    ensure (decide (fld < 96) && decide (fld % g = 0)) invalid
    c.readsRun fld g
    let idx (shadow : Nat) (r : Nat) : BitVec 16 :=
      (c.crew.v (fld + r / (2 * w)) ((r % (2 * w)) / 2 + shadow)).extractLsb' (16 * (r % 2)) 16
    let same := (List.range (matM m)).all (fun r => decide (idx 0 r = idx 16 r))
    let rows (d : Word) : Res (List (Option Nat) × BitVec 16) := do
      let l ← (List.range (matM m)).mapM (fun r =>
        let x := idx 0 r
        if x.extractLsb' 11 4 ≠ 0#4 then violation
        else if x.getLsbD 15 then .ok none
        else if (x.extractLsb' 0 11).toNat < tileRows d then .ok (some (x.extractLsb' 0 11).toNat)
        else violation)
      .ok (l, 0#16)
    settleLate (c.runTrap s fld g same) (command m n a b c0 f.toNat none rows c s)) s

/-- The parameters of MMA.CV (R226). -/
structure Conv where
  m0     : Nat
  h      : Nat
  w      : Nat
  p      : Nat
  q      : Nat
  stride : Nat
  dil    : Nat
  ph     : Nat
  pw     : Nat
  nimg   : Nat
  fr     : Nat
  fs     : Nat
  deriving DecidableEq, Repr

def Conv.of (w0 w1 w2 w3 : Word) : Conv where
  m0 := w0.toNat
  h := (w1.extractLsb' 24 8).toNat + 1
  w := (w1.extractLsb' 16 8).toNat + 1
  p := (w1.extractLsb' 8 8).toNat + 1
  q := (w1.extractLsb' 0 8).toNat + 1
  stride := (w2.extractLsb' 24 4).toNat + 1
  dil := (w2.extractLsb' 20 4).toNat + 1
  ph := (w2.extractLsb' 12 8).toNat
  pw := (w2.extractLsb' 4 8).toNat
  nimg := (w3.extractLsb' 16 8).toNat + 1
  fr := (w3.extractLsb' 8 8).toNat
  fs := (w3.extractLsb' 0 8).toNat

/-- Row i lies beyond the last output pixel. -/
def Conv.beyond (v : Conv) (i : Nat) : Bool := decide (v.nimg * v.p * v.q ≤ v.m0 + i)
/-- The tile row of row i. -/
def Conv.row (v : Conv) (i : Nat) : Option Nat :=
  let m := v.m0 + i
  if v.beyond i then none
  else
    let n := m / (v.p * v.q)
    let p := (m % (v.p * v.q)) / v.q
    let q := m % v.q
    let h : Int := (p * v.stride + v.fr * v.dil : Nat) - (v.ph : Int)
    let w : Int := (q * v.stride + v.fs * v.dil : Nat) - (v.pw : Int)
    if h < 0 ∨ (v.h : Int) ≤ h ∨ w < 0 ∨ (v.w : Int) ≤ w then none
    else some ((n * v.h + h.toNat) * v.w + w.toNat)
/-- The out-of-range mask. -/
def Conv.mask (v : Conv) (m : Nat) : BitVec 16 :=
  (List.range m).foldl (fun a i => if v.beyond i then a ||| (1#16 <<< (i / 16)) else a) 0#16

/-- MMA.CV (R226). -/
def execMmaCv (m : BitVec 2) (n : BitVec 6) (a b : BitVec 5) (c0 : BitVec 4) (f : BitVec 3) (s : State) :
    Host.Outcome State Fault Refusal :=
  issue (.mmaCv m n a b c0 f) (fun c s => do
    let fld := c.grp.hints.cField.getD 127#7
    ensure (fld.ule 126#7 && !fld.ult 96#7 && decide (fld.toNat % 4 = 0)) invalid
    let r (k : Nat) : Word := c.crew.srcK fld k 0
    ensure (decide ((r 2).extractLsb' 28 4 = 0#4) && decide ((r 2).extractLsb' 0 4 = 0#4) &&
      decide ((r 3).extractLsb' 24 8 = 0#8)) invalid
    let v := Conv.of (r 0) (r 1) (r 2) (r 3)
    let rows (d : Word) : Res (List (Option Nat) × BitVec 16) :=
      if tileRows d < v.nimg * v.h * v.w then violation
      else .ok ((List.range (matM m)).map v.row, v.mask (matM m))
    command m n a b c0 f.toNat none rows c s) s

/-! ### The sequencer (R228, R229) -/

def State.cmdOf (s : State) (id : Nat) : Option Cmd := s.fl.cmds.find? (fun m => decide (m.id = id))
def State.mapCmd (s : State) (id : Nat) (f : Cmd → Cmd) : State :=
  { s with fl := { s.fl with cmds := s.fl.cmds.map (fun m => if m.id = id then f m else m) } }
def State.dropCmd (s : State) (id : Nat) : State :=
  { s with fl := { s.fl with cmds := s.fl.cmds.filter (fun m => !decide (m.id = id)) } }

/-- The tiles a command reads. -/
def Cmd.tiles (m : Cmd) : List Nat := [m.ta, m.tb] ++ (if m.scaled then [m.sa, m.sb] else [])

/-- The bytes a command reads: the K elements of the rows of A that it names and of N rows of B, and their scales (R222). -/
def Cmd.ranges (m : Cmd) (t : Team) : List (Nat × Nat) :=
  let f := m.fmt.toNat
  let desc (n : Nat) : Word := ((t.tile n).map (·.desc)).getD 0#32
  let row (n r : Nat) (isB : Bool) : Nat × Nat :=
    (tileBase (desc n) + r * tileRowBytes (desc n), matRowBytes f isB)
  let scales (n rows : Nat) : List (Nat × Nat) := (List.range rows).flatMap (fun r =>
    (List.range (matK f / 32)).map (fun j => (tileBase (desc n) + scaleByte r j, 1)))
  (m.rowsA.filterMap (fun x => x)).eraseDups.map (fun r => row m.ta r false) ++ (List.range m.n).map (fun r => row m.tb r true) ++
    (if m.scaled then scales m.sa m.m ++ scales m.sb m.n else [])

/-- The scratchpad as a command reads it: the words it has read before its start are as they were then (R231). -/
def Cmd.view (m : Cmd) (t : Team) : Team :=
  let old := m.seen.flatMap (fun x => (List.range 4).map (fun k => (4 * x.1 + k, x.2.1.extractLsb' (8 * k) 8)))
  { t with scratch := old.foldl (fun c p => Cells.set 0#8 c p.1 p.2) t.scratch }

/-- A command that has not started reads a word of its tiles (R231); an uncorrectable word poisons its granule (R106). -/
def State.peekWord (s : State) (cmd w : Nat) : State :=
  match s.cmdOf cmd with
  | some m =>
    let reads (t : Team) : Bool := (m.ranges t).any (fun r => meetsWord r.1 r.2 w)
    if m.started || m.seen.any (fun x => decide (x.1 = w)) || !(s.teamOf m.crew.team).any reads then s
    else
      let s := s.mapTeam m.crew.team (fun t => t.readScratch [(4 * w, 4)])
      match s.teamOf m.crew.team with
      | some t => s.mapCmd cmd (fun m => { m with seen := m.seen ++ [(w, t.scratchWord w, t.foul (w / 8))] })
      | none => s
  | none => s

/-- What R229 makes a command wait for has finished. -/
def State.mayStart (s : State) (m : Cmd) : Bool :=
  !s.fl.cmds.any (fun x => decide (x.crew = m.crew) && decide (x.id < m.id) && m.dep.contains x.ident) &&
    !s.accBusy m.crew.team m.id m.slots

/-- The number a tile row's first bytes hold. -/
def Team.tileRow (t : Team) (d : Word) (i n : Nat) : Nat :=
  leNum ((List.range n).map (fun k => t.scratchAt (tileBase d + i * tileRowBytes d + k)))

/-- The scales of a row of a scale tile, S = K / 32 of them. -/
def Team.scalesOf (t : Team) (d : Word) (r k : Nat) : List Nat :=
  (List.range (k / 32)).map (fun j => (t.scratchAt (tileBase d + scaleByte r j)).toNat)

/-- The rows of A and the columns of B of a command. -/
def Team.operands (t : Team) (m : Cmd) (xa xb : Word) (sc : Option (Word × Word)) : List MRow × List MRow :=
  let f := m.fmt.toNat
  let k := matK f
  ((m.rowsA.zipIdx.map (fun p =>
      let els := match p.1 with
        | some r => matElems f false (t.tileRow xa r (matRowBytes f false))
        | none => List.replicate k (.fin false 0 0)
      scaledRow els (match sc with
        | some x => t.scalesOf x.1 p.2 k
        | none => []))),
    (List.range m.n).map (fun j => scaledRow (matElems f true (t.tileRow xb j (matRowBytes f true)))
      (match sc with
        | some x => t.scalesOf x.2 j k
        | none => [])))

/-- Every cell of a command with its result. -/
def Team.cellsOut (t : Team) (m : Cmd) (rows : List MRow × List MRow) : List (Nat × CellOut) :=
  rows.1.zipIdx.flatMap (fun a => rows.2.zipIdx.map (fun b =>
    let n := a.2 * regCols m.region + b.2
    (n, cellOut (regFmt m.region) m.rm a.1 b.1 ((regFmt m.region).read (t.cell m.region n)))))

/-- Writes a cell's result; its flags join its status (R219, R223). -/
def Team.putCell (t : Team) (d : Word) (n bits : Nat) (st : Byte) : Team := t.setCell d n bits (t.cellSt d n ||| st)

/-- MATRIX_COMMAND_START: the command reads its tiles and cells; every cell that the window decides is written, the others
are escalated (R223, R224, R229, R231).  Poison in a tile, or an uncorrectable row of cells, is consumed (R60, R242). -/
def execMatrixCommandStart (cmd : Nat) (s : State) : Host.Outcome State Fault Refusal :=
  event (fun s =>
    match s.cmdOf cmd with
    | none => .error .disabled
    | some m =>
      if m.started || !s.mayStart m then .error .disabled
      else
        let k := m.crew.team
        let desc (t : Team) (n : Nat) : Word := ((t.tile n).map (·.desc)).getD 0#32
        let tiles := m.tiles
        let s := s.mapTeam k (fun t => t.readScratch (m.ranges t))
        match s.teamOf k with
        | none => .error .disabled
        | some t =>
          let grans (d : Word) : List Nat :=
            (List.range ((tileBytes d + 63) / 32)).filterMap (fun i =>
              let g := tileBase d / 32 + i
              if 32 * g < tileBase d + tileBytes d then some g else none)
          let fails (info : DWord) : State := (s.dropCmd cmd).trapAfter m.core m.crew m.pc { cause := 8, info := info }
          let foul (g : Nat) : Bool := t.foul g || m.seen.any (fun x => decide (x.1 / 8 = g) && x.2.2)
          match (tiles.flatMap (fun n => grans (desc t n))).find? foul with
          | some g => .ok (fails (scInfo k.pos g))
          | none =>
            match t.accFoul m.slots with
            | some x => .ok (fails (accInfo x))
            | none =>
              let sc := if m.scaled then some (desc t m.sa, desc t m.sb) else none
              let outs := t.cellsOut m ((m.view t).operands m (desc t m.ta) (desc t m.tb) sc)
              let near := outs.filter (fun x => !x.2.wide)
              let far := outs.filter (fun x => x.2.wide)
              let s := s.mapTeam k (fun t =>
                near.foldl (fun t x => t.putCell m.region x.1 x.2.bits (statusOf x.2.flags)) t)
              let left := far.map (fun x =>
                (x.1, BitVec.ofNat 32 x.2.bits, BitVec.ofNat 32 (x.2.bits >>> 32), statusOf x.2.flags))
              let key := 8 * m.core + 5
              let n := Cells.get 0#32 s.dev.counts key + BitVec.ofNat 32 far.length
              let s := { s with dev := { s.dev with counts := Cells.set 0#32 s.dev.counts key n } }
              .ok (s.mapCmd cmd (fun m => { m with started := true, left := left }))) s

/-- MATRIX_ESCALATION_SETTLE: an escalated cell is settled and written (R224). -/
def execMatrixEscalationSettle (cmd cell : Nat) (s : State) : Host.Outcome State Fault Refusal :=
  event (fun s =>
    match s.cmdOf cmd with
    | some m =>
      match m.left.find? (fun x => decide (x.1 = cell)) with
      | some x =>
        let s := s.mapTeam m.crew.team (fun t => t.putCell m.region x.1 (x.2.2.1 ++ x.2.1).toNat x.2.2.2)
        .ok (s.mapCmd cmd (fun m => { m with left := m.left.filter (fun y => !decide (y.1 = cell)) }))
      | none => .error .disabled
    | none => .error .disabled) s

/-- An entry that waits on a command receives its mask (R239). -/
def Entry.told (e : Entry) (cmd : Nat) (mask : Word) : Entry :=
  match e.mwait with
  | some (k, none) => if k = cmd then { e with mwait := some (k, some mask) } else e
  | _ => e

/-- MATRIX_COMMAND_RETIRE: every cell has been written (R228). -/
def execMatrixCommandRetire (cmd : Nat) (s : State) : Host.Outcome State Fault Refusal :=
  event (fun s =>
    match s.cmdOf cmd with
    | some m =>
      if m.started && m.left.isEmpty then
        .ok ((s.dropCmd cmd).mapCrew m.crew (fun c =>
          { c with entries := c.entries.map (fun e => e.told cmd (m.mask.setWidth 32)) }))
      else .error .disabled
    | none => .error .disabled) s

/-- MWAIT (R239). -/
def execMwait (d i : BitVec 6) (s : State) : Host.Outcome State Fault Refusal :=
  issue (.mwait d i) (fun c s =>
    match s.fl.cmds.find? (fun m => decide (m.crew = c.crew.key) && decide (m.ident = i)) with
    | some m => .error (.matrixWait m.id)
    | none =>
      let v : Word := match c.ent.mwait with
        | some (_, some mask) => 0x80000000#32 ||| mask
        | _ => 0#32
      .ok (c.go s (fun cr => cr.putU d.toNat v))) s

/-! ### ACC instructions at issue (R233 to R235) -/

/-- The region an ACC instruction names. -/
def Ctx.regionOf (c : Ctx) (r : BitVec 4) : Res Word :=
  match c.team.region r.toNat with
  | some d => .ok d
  | none => violation

/-- It waits for earlier commands and ACC instructions that share a cell with it (R230). -/
def Ctx.cellsFree (c : Ctx) (s : State) (x : Slots) : Res Unit :=
  if s.accBusy c.team.key s.serial x then .error .wait else .ok ()

/-- ACCDEF (R234). -/
def execAccdef (a : BitVec 6) (r : BitVec 4) (s : State) : Host.Outcome State Fault Refusal :=
  issue (.accdef a r) (fun c s => do
    let w := c.crew.u a.toNat
    if s.accNamed c.team.key r.toNat then .error .wait
    else
      ensure (regLegal c.team.accu w) violation
      let s := s.mapTeam c.team.key (fun t => { t with regions := Cells.set none t.regions r.toNat (some w) })
      .ok (c.go s id)) s

/-- ACCDEF.CLR (R234). -/
def execAccdefClr (r : BitVec 4) (s : State) : Host.Outcome State Fault Refusal :=
  issue (.accdefClr r) (fun c s => do
    let _ ← c.regionOf r
    if s.accNamed c.team.key r.toNat then .error .wait
    else
      let s := s.mapTeam c.team.key (fun t => { t with regions := Cells.set none t.regions r.toNat none })
      .ok (c.go s id)) s

/-- Slots lo to hi - 1 hold +0 with status 0; rows cleared whole have fresh check bits (DESIGN CHOICE: log entry 107). -/
def Team.zeroSlots (t : Team) (lo hi : Nat) : Team := { t with
  acc := Cells.keep (fun k => decide (k < lo) || decide (hi ≤ k)) t.acc
  accSt := Cells.keep (fun k => decide (k < lo) || decide (hi ≤ k)) t.accSt
  accBad := t.accBad.filter (fun r => !(decide (lo ≤ 32 * r) && decide (32 * r + 32 ≤ hi))) }

/-- ACCZ (R234). -/
def execAccz (r : BitVec 4) (s : State) : Host.Outcome State Fault Refusal :=
  issue (.accz r) (fun c s => do
    let d ← c.regionOf r
    c.cellsFree s (regionSlots d)
    .ok (c.go (s.mapTeam c.team.key (fun t => t.zeroSlots (regBase d) (regBase d + regTotal d))) id)) s

/-- A strip: cell of each slot and row, with the slot and the row's place (R235). -/
structure Strip where
  desc  : Word
  cells : List (Nat × Nat × Nat)   -- slot, k, cell number
  wide  : Bool
  deriving DecidableEq, Repr

/-- Rows of c. -/
def stripRows (c : BitVec 2) : Nat := 2 ^ c.toNat

/-- The checks of ACCRD and ACCWR and the cells they name; `status` reads one register per row whatever the format. -/
def Ctx.strip (c : Ctx) (d a : BitVec 7) (n : BitVec 2) (r : BitVec 4) (status : Bool) (slots : List Nat) : Res Strip := do
  let ctl := c.crew.src a 0
  ensure (decide (ctl.extractLsb' 22 10 = 0#10) && decide (ctl.extractLsb' 8 8 = 0#8)) invalid
  let rows := stripRows n
  let wide := !status && (match c.team.region r.toNat with
    | some g => regWide g
    | none => false)
  ensure (!wide || decide (d = 127#7) || decide (d.toNat % 2 = 0)) invalid
  ensure (decide (d = 127#7) || decide (d.toNat + rows * (if wide then 2 else 1) ≤ 8 * c.crew.quota)) invalid
  let g ← c.regionOf r
  let row0 := (ctl.extractLsb' 0 8).toNat
  let first := c.W * (ctl.extractLsb' 16 6).toNat
  ensure (decide (row0 + rows ≤ regRows g) && decide (first < regCols g)) violation
  .ok ⟨g, (List.range rows).flatMap (fun k => slots.filterMap (fun t =>
    let col := first + c.ownThread t
    if col < regCols g then some (t, k, (row0 + k) * regCols g + col) else none)), wide⟩

/-- The slots of the cells of a strip. -/
def Strip.slots (x : Strip) : Slots := x.cells.map (fun e => (cellSlot x.desc e.2.2, regSlots x.desc))

/-- The vector registers a strip moves. -/
def Strip.regs (x : Strip) (d : BitVec 7) (n : BitVec 2) : List PReg :=
  fieldRegs d (stripRows n * (if x.wide then 2 else 1))

/-- Registers that are not written in full must not hold an uncorrectable word (R133), nor be pending. -/
def Ctx.writesRegs (c : Ctx) (full : Bool) (rs : List PReg) : Res Unit :=
  if rs.any c.crew.pending then .error .wait
  else
    match if full then none else (vNums rs).find? (fun k => c.crew.vbad.contains k) with
    | some k => trapOf 8 (BitVec.ofNat 64 (2 <<< 60 + k))
    | none => .ok ()

/-- ACCRD and ACCRD.ST: cells, or their statuses, to registers (R235). -/
def accread (status : Bool) (d a : BitVec 7) (n : BitVec 2) (r : BitVec 4) (c : Ctx) (s : State) : Res State := do
  let x ← c.strip d a n r status c.slots
  let full := decide (c.act = if c.launch.prot then 0xFFFF#32 else 0xFFFFFFFF#32) &&
    decide (x.cells.length = stripRows n * c.slots.length)
  c.writesRegs (full || x.cells.isEmpty) (x.regs d n)
  c.cellsFree s x.slots
  match c.team.accFoul x.slots with
  | some k => trapOf 8 (accInfo k)
  | none => .ok ()
  let fresh (cr : Crew) : Crew :=
    if full then { cr with vbad := cr.vbad.filter (fun k => !(vNums (x.regs d n)).contains k) } else cr
  .ok (c.go s (fun cr => x.cells.foldl (fun cr e =>
    let slot := e.1
    let k := e.2.1
    if status then cr.putK d k slot ((c.team.cellSt x.desc e.2.2).setWidth 32)
    else
      let v := c.team.cell x.desc e.2.2
      if x.wide then (cr.putK d (2 * k) slot (BitVec.ofNat 32 v)).putK d (2 * k + 1) slot (BitVec.ofNat 32 (v >>> 32))
      else cr.putK d k slot (BitVec.ofNat 32 v)) (fresh cr)))

/-- ACCRD (R235). -/
def execAccrd (d a : BitVec 7) (n : BitVec 2) (r : BitVec 4) (s : State) : Host.Outcome State Fault Refusal :=
  issue (.accrd d a n r) (accread false d a n r) s
/-- ACCRD.ST (R235). -/
def execAccrdSt (d a : BitVec 7) (n : BitVec 2) (r : BitVec 4) (s : State) : Host.Outcome State Fault Refusal :=
  issue (.accrdSt d a n r) (accread true d a n r) s

/-- ACCWR (R235); it neither consumes nor mends an uncorrectable row (DESIGN CHOICE: log entry 107). -/
def execAccwr (d a : BitVec 7) (n : BitVec 2) (r : BitVec 4) (s : State) : Host.Outcome State Fault Refusal :=
  issue (.accwr d a n r) (fun c s => do
    let x ← c.strip d a n r false c.threads
    let rs := x.regs d n
    if rs.any c.crew.pending then .error .wait
    else
      match (vNums rs).find? (fun k => c.crew.vbad.contains k) with
      | some k => trapOf 8 (BitVec.ofNat 64 (2 <<< 60 + k))
      | none => .ok ()
      c.cellsFree s x.slots
      let val (slot k : Nat) : Nat :=
        if x.wide then (c.crew.srcK d (2 * k + 1) slot ++ c.crew.srcK d (2 * k) slot).toNat
        else (c.crew.srcK d k slot).toNat
      ensure (!c.launch.prot || x.cells.all (fun e => decide (val e.1 e.2.1 = val (e.1 + 16) e.2.1))) (silentOther s)
      let s := s.mapTeam c.team.key (fun t =>
        x.cells.foldl (fun t e => t.setCell x.desc e.2.2 (val e.1 e.2.1) 0#8) t)
      .ok (c.go s id)) s

/-! ### ACCDRAIN, ACCSAVE, ACCLOAD at issue (R236 to R238) -/

/-- Translation of a line of an ACC instruction in one of the frames; another device is an access violation. -/
def Ctx.accLine (c : Ctx) (s : State) (vline : Nat) (n : Need) (shadow : Bool) : Res PAddr := do
  let va : DWord := BitVec.ofNat 64 (128 * vline)
  ensure (decide (128 * vline < 2 ^ 56)) (violation va)
  let p ← s.resolve c.team.core c.launch va (if n.w then .store else .load) n shadow none
  ensure (!p.isRemote) (violation va)
  .ok p

/-- A page is dual-version where an address of it has a DV leaf (R79). -/
def Ctx.dualAt (c : Ctx) (s : State) (vline : Nat) : Bool :=
  !inWindow (128 * vline) && (match s.tlbFind c.team.core c.launch.id (128 * vline) with
    | some t => leafDV t.leaf
    | none => false)

/-- The weight format of ACCDRAIN and its bytes. -/
def drainFmt (w : BitVec 2) : Fmt := fmtOf w
def drainBytes (w : BitVec 2) : Nat := (drainFmt w).width / 8

/-- The rows of weights as pieces: virtual address, first cell, bytes. -/
def drainPieces (region : Word) (base : DWord) (stride : Word) (w : BitVec 2) : List (Nat × Nat × Nat) :=
  (List.range (regRows region)).map (fun i =>
    ((base + stride.signExtend 64 * BitVec.ofNat 64 i).toNat, i * regCols region, regCols region * drainBytes w))

/-- ACCDRAIN: everything that can fail does so at issue; then each line is a pair of requests, the read of the weights in
the current frame and the write, in the shadow frame of a dual-version page (R236). -/
def execAccdrain (d a : BitVec 6) (r : BitVec 4) (w : BitVec 2) (s : State) : Host.Outcome State Fault Refusal :=
  issue (.accdrain d a r w) (fun c s => do
    let base := c.crew.u64 a.toNat
    let stride := c.crew.u (a.toNat + 2)
    let g ← c.regionOf r
    let e := drainBytes w
    ensure (decide (base.toNat % e = 0) && decide (stride.toNat % e = 0)) (violation base)
    ensure (decide (regRows g = 1) || decide (regCols g * e ≤ stride.toInt.natAbs)) (violation base)
    let ls := linesOf (drainPieces g base stride w)
    let reqs ← ls.mapM (fun ln => do
      let src ← c.accLine s ln Need.store false
      if c.dualAt s ln then
        let dst ← c.accLine s ln Need.store true
        .ok [LReq.new src.target ln .home false, LReq.new dst.target ln .home false]
      else .ok [{ LReq.new src.target ln .home false with st := .performed }, LReq.new src.target ln .home false])
    c.cellsFree s (regionSlots g)
    let kind : OpKind := .accdrain r.toNat g base stride (c.crew.u (a.toNat + 3)) w
    let o := c.op s kind none (some ⟨d.setWidth 7, 2⟩) [] reqs.flatten
    .ok (c.launchOp s o [.u d.toNat, .u (d.toNat + 1)])) s

/-- Bytes of a region's image: of its values, to the first byte of the statuses, in all (R237). -/
def imageValues (g : Word) : Nat := regTotal g * 4
def imageStatus (g : Word) : Nat := (imageValues g + 127) / 128 * 128
def imageBytes (g : Word) : Nat := imageStatus g + regRows g * regCols g

/-- The lines of an image, each translated at issue. -/
def Ctx.imageReqs (c : Ctx) (s : State) (g : Word) (base : DWord) (n : Need) : Res (List LReq) :=
  (List.range ((imageBytes g + 127) / 128)).mapM (fun k => do
    let ln := base.toNat / 128 + k
    let p ← c.accLine s ln n false
    .ok (LReq.new p.target ln .home false))

/-- ACCSAVE (R237). -/
def execAccsave (d a : BitVec 6) (r : BitVec 4) (s : State) : Host.Outcome State Fault Refusal :=
  issue (.accsave d a r) (fun c s => do
    let base := c.crew.u64 a.toNat
    let g ← c.regionOf r
    ensure (decide (base.toNat % 128 = 0)) (violation base)
    let reqs ← c.imageReqs s g base Need.store
    c.cellsFree s (regionSlots g)
    let o := c.op s (.accsave r.toNat g base) none (some ⟨d.setWidth 7, 2⟩) [] reqs
    .ok (c.launchOp s o [.u d.toNat, .u (d.toNat + 1)])) s

/-- ACCLOAD (R238). -/
def execAccload (d a : BitVec 6) (r : BitVec 4) (s : State) : Host.Outcome State Fault Refusal :=
  issueF { shape := [.us .pair d, .us .pair a], takes := { }, twice := some 4 } (fun c s => do
    ensure (witOk (c.crew.u64 d.toNat)) badWitness
    let base := c.crew.u64 a.toNat
    let g ← c.regionOf r
    ensure (decide (base.toNat % 128 = 0)) (violation base)
    let reqs ← c.imageReqs s g base Need.load
    c.cellsFree s (regionSlots g)
    .ok (c.launchOp s (c.op s (.accload r.toNat g base) none none [] reqs) [])) s

/-! ### What their lines hold -/

/-- One weight after the drain: w + s * x, rounded once (R236). -/
def drainElem (f : Fmt) (rm : BitVec 3) (r : Word) (sc x w : Num) : Nat × BitVec 5 :=
  if badProduct sc x then nanRes f flInvalid
  else if sc.isNan || x.isNan || w.isNan then nanRes f (sigFlag [sc, x, w])
  else
    let p := mulNum sc x
    if p.isInf && w.isInf && p.neg != w.neg then nanRes f flInvalid
    else if p.isInf then (f.inf p.neg, 0#5)
    else if w.isInf then (f.inf w.neg, 0#5)
    else f.round rm r (sumDy rm [w.dy, p.dy])

/-- The elements of a drain on a line: offset and cell number. -/
def drainElems (region : Word) (base : DWord) (stride : Word) (w : BitVec 2) (vline : Nat) : List (Nat × Nat) :=
  let e := drainBytes w
  (drainPieces region base stride w).flatMap (fun p => match clip vline p with
    | some (off, k, n) => (List.range (n / e)).map (fun j => (off + j * e, p.2.1 + k / e + j))
    | none => [])

/-- The bytes a drain writes on a line, from the weights read, with the flags (R158, R236). -/
def Team.drainLine (t : Team) (region : Word) (scale : Word) (w : BitVec 2) (rm : BitVec 3) (seed : DWord) (vline : Nat)
    (ver : BitVec 12) (src : Line) (els : List (Nat × Nat)) : List (Nat × Byte) × BitVec 5 :=
  let f := drainFmt w
  let e := drainBytes w
  let key : DWord := BitVec.ofNat 64 (vline % 2 ^ 49 * 128)
  let r := els.map (fun p =>
    let x := drainElem f rm (mixLow seed (key ||| BitVec.ofNat 64 (p.1 / e)) (BitVec.ofNat 64 (3 <<< 62) ||| ver.setWidth 64))
      (fp32.read scale.toNat) ((regFmt region).read (t.cell region p.2)) (f.read (lineNum src p.1 e))
    (atOffset p.1 (leBytes e x.1), x.2))
  (r.flatMap (·.1), orAll (r.map (·.2)))

/-- Byte i of a region's image, where the image has one (R237). -/
def Team.imageByte (t : Team) (g : Word) (i : Nat) : Option Byte :=
  let e := 4 * regSlots g
  if i < imageValues g then some (BitVec.ofNat 8 (t.cell g (i / e) >>> (8 * (i % e))))
  else if imageStatus g ≤ i ∧ i < imageBytes g then some (t.cellSt g (i - imageStatus g))
  else none

/-- The bytes of line k of an image. -/
def Team.imageLine (t : Team) (g : Word) (k : Nat) : List (Nat × Byte) :=
  (List.range 128).filterMap (fun o => (t.imageByte g (128 * k + o)).map (fun b => (o, b)))

/-- The offsets of line k that an image covers. -/
def imageOffsets (g : Word) (k : Nat) : List Nat :=
  (List.range 128).filter (fun o => decide (128 * k + o < imageValues g) ||
    (decide (imageStatus g ≤ 128 * k + o) && decide (128 * k + o < imageBytes g)))

/-- A region's cells from its image (R238). -/
def Team.loadImage (t : Team) (g : Word) (lines : List Line) : Team :=
  let byte (i : Nat) : Byte := ((lines[i / 128]?).map (fun l => lineByte l (i % 128))).getD 0#8
  let e := 4 * regSlots g
  (List.range (regRows g * regCols g)).foldl (fun t n =>
    t.setCell g n (leNum ((List.range e).map (fun i => byte (n * e + i)))) (byte (imageStatus g + n) &&& 0x1F#8)) t

end Sys2Proof.Machine
end

