-- ==== Sys2Proof/Machine/Staged.lean ====
section
/-!
DEFINITION. Staged evaluation (R167 to R186): the special operands of the functions (R207, R208), the certified cases
(R170), the rounding test (R168, R169), park records (R171 to R175), the resolver and the exact stage (R177 to R179),
REDUX, SCAN, FDOT2 and FDOT4 (R209, R210, R214), and the instructions that wait for and count parked lanes.
-/

namespace Sys2Proof.Machine

/-- The functions that may park. -/
inductive Fn where
  | rsq | rcp | exp | exp2 | exp10 | expm1 | log | log2 | log10 | log1p | sin | cos | tan | sinpi | cospi | atan | tanh
  | erf | cbrt | atan2 | hypot | pow
  deriving DecidableEq, Repr

/-- The function of a park record's major and selector (R172). -/
def fnOf (major : BitVec 6) (sel : BitVec 5) : Option Fn :=
  match major.toNat, sel.toNat with
  | 0x1A, 2 => some .rsq
  | 0x1A, 3 => some .rcp
  | 0x1B, 0 => some .exp
  | 0x1B, 1 => some .exp2
  | 0x1B, 2 => some .exp10
  | 0x1B, 3 => some .expm1
  | 0x1B, 4 => some .log
  | 0x1B, 5 => some .log2
  | 0x1B, 6 => some .log10
  | 0x1B, 7 => some .log1p
  | 0x1B, 8 => some .sin
  | 0x1B, 9 => some .cos
  | 0x1B, 10 => some .tan
  | 0x1B, 11 => some .sinpi
  | 0x1B, 12 => some .cospi
  | 0x1B, 13 => some .atan
  | 0x1B, 14 => some .tanh
  | 0x1B, 15 => some .erf
  | 0x1B, 16 => some .cbrt
  | 0x1C, 0 => some .atan2
  | 0x1C, 1 => some .hypot
  | 0x1C, 2 => some .pow
  | _, _ => none

/-! ### Special operands (R205, R207, R208) -/

/-- A rounded constant, which is inexact. -/
def roundConst (f : Fmt) (rm : BitVec 3) (x : Value) : Option (Nat × BitVec 5) := some (f.round rm 0#32 x.mag)

/-- An exact small integer. -/
def Fmt.int (f : Fmt) (neg : Bool) (n : Nat) : Nat := (f.round 0#3 0#32 (magOf neg n 0)).1

/-- The exponent of the lowest set bit of a finite nonzero value. -/
def unitOf (m : Nat) (e : Int) : Int := lowBit (bitLen m) m e
/-- A finite nonzero value is an integer, an odd integer. -/
def isInt (m : Nat) (e : Int) : Bool := decide (0 ≤ unitOf m e)
def isOdd (m : Nat) (e : Int) : Bool := decide (unitOf m e = 0)
/-- The integer value of an integral number below 2^2200. -/
def intOf (m : Nat) (e : Int) : Nat := if 0 ≤ e then m <<< e.toNat else m >>> (-e).toNat
/-- A positive value is a power of two. -/
def isPow2 (m : Nat) (e : Int) : Bool := decide (unitOf m e = leadOf m e)

/-- The results given outright for one operand: NaN, infinities, zeros and the listed arguments. -/
def fnSpecial1 (fn : Fn) (f : Fmt) (rm : BitVec 3) (x : Num) : Option (Nat × BitVec 5) :=
  let nan (fl : BitVec 5) : Option (Nat × BitVec 5) := some (nanRes f fl)
  let one := f.int false 1
  match x with
  | .nan s => nan (if s then flInvalid else 0#5)
  | .inf s =>
    match fn with
    | .rsq => if s then nan flInvalid else some (f.zero false, 0#5)
    | .rcp => some (f.zero s, 0#5)
    | .exp => some (if s then f.zero false else f.inf false, 0#5)
    | .exp2 => some (if s then f.zero false else f.inf false, 0#5)
    | .exp10 => some (if s then f.zero false else f.inf false, 0#5)
    | .expm1 => some (if s then f.int true 1 else f.inf false, 0#5)
    | .log => if s then nan flInvalid else some (f.inf false, 0#5)
    | .log2 => if s then nan flInvalid else some (f.inf false, 0#5)
    | .log10 => if s then nan flInvalid else some (f.inf false, 0#5)
    | .log1p => if s then nan flInvalid else some (f.inf false, 0#5)
    | .atan => roundConst f rm (piMag s 2)
    | .tanh => some (f.int s 1, 0#5)
    | .erf => some (f.int s 1, 0#5)
    | .cbrt => some (f.inf s, 0#5)
    | _ => nan flInvalid
  | .fin s m e =>
    if m = 0 then
      match fn with
      | .rsq => some (f.inf s, flDivzero)
      | .rcp => some (f.inf s, flDivzero)
      | .exp => some (one, 0#5)
      | .exp2 => some (one, 0#5)
      | .exp10 => some (one, 0#5)
      | .cos => some (one, 0#5)
      | .cospi => some (one, 0#5)
      | .log => some (f.inf true, flDivzero)
      | .log2 => some (f.inf true, flDivzero)
      | .log10 => some (f.inf true, flDivzero)
      | _ => some (f.zero s, 0#5)
    else
      match fn with
      | .rsq => if s then nan flInvalid else none
      | .exp2 =>
        if isInt m e && decide (leadOf m e < 14) then
          let n := negIf s (intOf m e : Nat)
          if f.emin - f.mb ≤ n ∧ n < (2 ^ f.eb - 1 : Nat) - (f.bias : Int) then
            some ((f.round 0#3 0#32 ⟨false, 1, n, false⟩).1, 0#5)
          else none
        else none
      | .log => if s then nan flInvalid else if isPow2 m e && decide (leadOf m e = 0) then some (f.zero false, 0#5) else none
      | .log10 => if s then nan flInvalid else if isPow2 m e && decide (leadOf m e = 0) then some (f.zero false, 0#5) else none
      | .log2 =>
        if s then nan flInvalid
        else if isPow2 m e then
          let k := leadOf m e
          some (if k = 0 then f.zero false else f.int (decide (k < 0)) k.natAbs, 0#5)
        else none
      | .log1p =>
        if s then
          if isPow2 m e && decide (leadOf m e = 0) then some (f.inf true, flDivzero)
          else if 0 ≤ leadOf m e then nan flInvalid else none
        else none
      | .sinpi =>
        if isInt m e then some (f.zero s, 0#5)
        else if unitOf m e = -1 then
          some (f.int (xor s (decide (intOf m e % 2 = 1))) 1, 0#5)
        else none
      | .cospi =>
        if isInt m e then some (f.int (isOdd m e) 1, 0#5)
        else if unitOf m e = -1 then some (f.zero false, 0#5)
        else none
      | _ => none

/-- FATAN2, a as y and b as x (R208). -/
def atan2Special (f : Fmt) (rm : BitVec 3) (y x : Num) : Option (Nat × BitVec 5) :=
  let sy := y.neg
  if y.isNan || x.isNan then some (nanRes f (sigFlag [y, x]))
  else if y.isZero then
    if x.neg then roundConst f rm (piMag sy 4) else some (f.zero sy, 0#5)
  else if y.isInf then
    if x.isInf then roundConst f rm (piMag sy (if x.neg then 3 else 1)) else roundConst f rm (piMag sy 2)
  else if x.isZero then roundConst f rm (piMag sy 2)
  else if x.isInf then
    if x.neg then roundConst f rm (piMag sy 4) else some (f.zero sy, 0#5)
  else none

/-- FHYPOT (R208). -/
def hypotSpecial (f : Fmt) (a b : Num) : Option (Nat × BitVec 5) :=
  if a.isInf || b.isInf then some (f.inf false, sigFlag [a, b])
  else if a.isNan || b.isNan then some (nanRes f (sigFlag [a, b]))
  else none

/-- A value is an integer; an odd integer. -/
def Num.integral : Num → Bool
  | .fin _ m e => decide (m = 0) || isInt m e
  | _ => false
def Num.odd : Num → Bool
  | .fin _ m e => decide (m ≠ 0) && isOdd m e
  | _ => false
/-- |x| compared with 1: below, equal, above. -/
def Num.absOne : Num → Ordering
  | .fin _ m e => if m = 0 ∨ leadOf m e < 0 then .lt else if isPow2 m e && decide (leadOf m e = 0) then .eq else .gt
  | _ => .gt

/-- FPOW: a to the power b (R208). -/
def powSpecial (f : Fmt) (a b : Num) : Option (Nat × BitVec 5) :=
  let one := f.int false 1
  let sg := sigFlag [a, b]
  if b.isZero then some (one, sg)
  else if !a.isNan && a.absOne == .eq && !a.neg then some (one, sg)
  else if a.isNan || b.isNan then some (nanRes f sg)
  else if a.isZero then
    if b.neg then
      if b.isInf then some (f.inf false, 0#5)
      else some (if b.odd then f.inf a.neg else f.inf false, flDivzero)
    else some (if b.odd then f.zero a.neg else f.zero false, 0#5)
  else if b.isInf then
    match a.absOne with
    | .eq => some (one, 0#5)
    | .lt => some (if b.neg then f.inf false else f.zero false, 0#5)
    | .gt => some (if b.neg then f.zero false else f.inf false, 0#5)
  else if a.isInf then
    let sg := a.neg && b.odd
    some (if b.neg then f.zero sg else f.inf sg, 0#5)
  else if a.neg && !b.integral then some (nanRes f flInvalid)
  else none

/-- The results given outright. -/
def fnSpecial (fn : Fn) (f : Fmt) (rm : BitVec 3) (a b : Num) : Option (Nat × BitVec 5) :=
  match fn with
  | .atan2 => atan2Special f rm a b
  | .hypot => hypotSpecial f a b
  | .pow => powSpecial f a b
  | _ => fnSpecial1 fn f rm a

/-! ### Certified cases and exact values (R170) -/

/-- The cases in which the fast path certifies its exact value. -/
def fnCertified (fn : Fn) (a b : Num) : Bool :=
  match fn, a, b with
  | .rcp, .fin _ m e, _ => isPow2 m e
  | .rsq, .fin _ m e, _ => isPow2 m e && decide (leadOf m e % 2 = 0)
  | .cbrt, .fin _ m e, _ => isPow2 m e && decide (leadOf m e % 3 = 0)
  | .hypot, x, y => x.isZero || y.isZero
  | .pow, _, .fin s m e => !s && isPow2 m e && (decide (leadOf m e = 0) || decide (leadOf m e = 1))
  | _, _, _ => false

/-- k with 10^k = m * 2^e, k at most 30. -/
def pow10Of (m : Nat) (e : Int) : Option Nat :=
  if isInt m e && decide (leadOf m e < 128) then (List.range 31).find? (fun k => decide (10 ^ k = intOf m e)) else none

/-- The exact value of a function at operands that are not special; NaNs and infinities are, and stand for nothing. -/
def fnReal (fn : Fn) (a b : Num) : Value :=
  match a with
  | .fin s m e =>
    match fn with
    | .rsq => .known (rsqrtMag m e)
    | .rcp => .known (quotMag s 1 0 m e)
    | .exp => expMag s m e
    | .exp2 =>
      if isInt m e then
        .known ⟨false, 1, negIf s (intOf m e : Nat), false⟩
      else exp2Mag s m e
    | .exp10 =>
      if !s && isInt m e && decide (leadOf m e < 10) then .known ⟨false, 10 ^ intOf m e, 0, false⟩
      else exp10Mag s m e
    | .expm1 => expm1Mag s m e
    | .log => lnMag m e
    | .log2 => log2Mag m e
    | .log10 => match pow10Of m e with
      | some k => .known ⟨false, k, 0, false⟩
      | none => log10Mag m e
    | .log1p => log1pMag s m e
    | .sin => sinMag s m e
    | .cos => cosMag m e
    | .tan => tanMag s m e
    | .sinpi => sinpiMag s m e
    | .cospi => cospiMag m e
    | .atan => atanMag s m e
    | .tanh => tanhMag s m e
    | .erf => erfMag s m e
    | .cbrt => .known (cbrtMag s m e)
    | .atan2 => match b with
      | .fin t n x => atan2Mag s m e t n x
      | _ => .known ⟨false, 0, 0, false⟩
    | .hypot => match b with
      | .fin _ n x =>
        let q := sumDy 0#3 [⟨false, m * m, 2 * e⟩, ⟨false, n * n, 2 * x⟩]
        if q.m = 0 then .known ⟨false, 0, 0, false⟩ else .known (sqrtMag q.m q.e)
      | _ => .known ⟨false, 0, 0, false⟩
    | .pow => match b with
      | .fin t n x =>
        let neg := s && b.odd
        match powExact neg m e t n x with
        | some v => .known v
        | none => powMag neg m e t n x
      | _ => .known ⟨false, 0, 0, false⟩
  | _ => .known ⟨false, 0, 0, false⟩

/-! ### The rounding test (R168, R169) -/

/-- Where a dyadic number n * 2^E lies against the boundary set B(fmt, rm): on a point of it, or in the open cell between
two points. -/
def boundaryCell (f : Fmt) (rm : BitVec 3) (n : Int) (e : Int) : Option (Bool × Int × Nat × Bool × Bool) :=
  if n = 0 then none
  else
    let m := n.natAbs
    let near := rm == 0#3 || rm == 4#3
    let lead := leadOf m e
    let qMin := f.emin - f.mb
    let q := if lead - f.mb < qMin then qMin else lead - f.mb
    let u := if near then q - 1 else q
    let sh := min (u - e).toNat (bitLen m + 1)
    let onGrid := if u ≤ e then true else decide (m % 2 ^ sh = 0)
    let p := f.mb + 1
    let t1 : Dy := ⟨false, 2 ^ p - 1, f.emin - p⟩
    let t2 : Dy := ⟨false, 2 ^ (p + 1) - 1, f.emin - p - 1⟩
    let z : Dy := ⟨false, m, e⟩
    let on (t : Dy) : Bool := !dyLt z t && !dyLt t z
    if onGrid || on t1 || (near && on t2) then none
    else some (decide (n < 0), q, m >>> sh, dyLt t1 z, near && dyLt t2 z)

/-- A bound of R168 or R177: 2^-rel of a magnitude, the value's own or a sum of addends, plus, of R168, 2^-abs. -/
structure Bound where
  rel   : Nat
  abs   : Option Nat
  scale : Option (Nat × Int)
  deriving DecidableEq, Repr

/-- A number of the same leading bits at most 30,000 binary orders from 1: above the largest finite value the grid of R155
repeats with every binary order, and far below the smallest value no point of B but zero lies near. -/
def Mag.near (x : Mag) : Mag :=
  if 30000 < x.lead then { x with e := x.e - (x.lead - 30000) }
  else if x.lead < -30000 then { x with e := x.e - (x.lead + 30000) }
  else x

/-- The test of R169 fails: a point of B lies within the bound e of y.  y is the exact value displaced by k, in units of the
test's fixed point, where that keeps it within e of the exact value, and else the exact value itself (R168). -/
def testFails (f : Fmt) (rm : BitVec 3) (x : Mag) (b : Bound) (k : Int) : Bool :=
  let x := x.near
  let e0 := x.e - 1 - b.rel
  let e1 := match b.scale with
    | some (_, se) => if se - b.rel < e0 then se - b.rel else e0
    | none => e0
  let e2 := match b.abs with
    | some a => if -(a : Int) < e1 then -(a : Int) else e1
    | none => e1
  let e := e2 - 20
  let half : Nat := 1 <<< (x.e - 1 - e).toNat
  let v : Int := negIf x.neg ((2 * x.m + (if x.sticky then 1 else 0)) * half : Nat)
  let size (y : Int) : Nat := match b.scale with
    | some (sm, se) => sm <<< (se - e).toNat
    | none => y.natAbs
  let least : Nat := match b.abs with
    | some a => 2 ^ (-(a : Int) - e).toNat
    | none => 0
  let err (y : Int) : Int := ((size y >>> b.rel) + least : Nat)
  let away : Int := (k.natAbs + (if x.sticky then half else 0) : Nat)
  let y := if away ≤ err (v + k) then v + k else v
  match boundaryCell f rm (y - err y) e, boundaryCell f rm (y + err y) e with
  | some c, some d => !decide (c = d)
  | _, _ => true

/-! ### One lane -/

/-- A lane's result under R1 and, where it is tested, its exact value and bound. -/
structure Lane where
  bits  : Nat
  flags : BitVec 5
  test  : Option (Mag × Bound)
  deriving DecidableEq, Repr

/-- The bound of a fast result of a format (R168). -/
def fastBound (f : Fmt) (scale : Option (Nat × Int)) : Bound :=
  if f = fp64 then ⟨70, some 1145, scale⟩ else ⟨40, some 190, scale⟩
/-- The bound of the resolver's result (R177). -/
def resolverBound (f : Fmt) : Bound := if f = fp64 then ⟨130, none, none⟩ else ⟨100, none, none⟩

/-- The lane of a function. -/
def fnLane (fn : Fn) (t : BitVec 2) (rm : BitVec 3) (x y : Nat) : Lane :=
  let f := fmtOf t
  let a := f.read x
  let b := f.read y
  match fnSpecial fn f rm a b with
  | some (v, fl) => ⟨v, fl, none⟩
  | none =>
    let m := (fnReal fn a b).mag
    let (v, fl) := f.round rm 0#32 m
    ⟨v, fl, if fnCertified fn a b || decide (f.mb < 23) then none else some (m, fastBound f none)⟩

/-- The lane of an exact sum with R210's decision: held addends need no test. -/
def sumLane (f : Fmt) (rm : BitVec 3) (l : List Num) (parks : Bool) : Lane :=
  let (v, fl) := sumNums f rm l
  if !parks || l.any Num.isNan || l.any Num.isInf then ⟨v, fl, none⟩
  else
    let d := l.map Num.dy
    if adderHolds d then ⟨v, fl, none⟩
    else ⟨v, fl, some (sumDy rm d, fastBound f (some (sumAbs d)))⟩

/-- Element i of w bits of packed operands, in a format. -/
def packedNum (f : Fmt) (w x i : Nat) : Num := f.read ((x >>> (w * i)) % 2 ^ w)

/-- The lane of FDOT2 and FDOT4 (R209). -/
def dotLane (four : Bool) (t : BitVec 2) (rm : BitVec 3) (a b c : Nat) : Lane :=
  let f := if four then (if t = 0#2 then e4m3 else e5m2) else fmtOf t
  let n := if four then 4 else 2
  let w := if four then 8 else 16
  let xs := (List.range n).map (fun i => (packedNum f w a i, packedNum f w b i))
  let cc := fp32.read c
  let zeroInf (p : Num × Num) : Bool := !p.1.isNan && !p.2.isNan && badProduct p.1 p.2
  let all := cc :: xs.flatMap (fun p => [p.1, p.2])
  let prods := (xs.filter (fun p => !p.1.isNan && !p.2.isNan && !badProduct p.1 p.2)).map (fun p => mulNum p.1 p.2)
  let bad := xs.any zeroInf || oppInf (cc :: prods)
  if all.any Num.isNan || bad then
    ⟨fp32.nan, (if bad then flInvalid else 0#5) ||| sigFlag all, none⟩
  else sumLane fp32 rm (cc :: prods) true

/-- The operands of an operation: for each slot a, b and c. -/
abbrev Args := List (Nat × DWord × DWord × DWord)

/-- The lanes of an operation by slot (R172): functions and dot products slot by slot; REDUX and SCAN over the slots of
one member. -/
def lanesOf (major : BitVec 6) (sel : BitVec 5) (t : BitVec 2) (rm : BitVec 3) (excl : Bool) (args : Args) :
    List (Nat × Lane) :=
  if major = 0x16#6 then
    let f := fmtOf t
    let park := decide (t ≠ 2#2)
    let num (p : Nat × DWord × DWord × DWord) : Num := f.read p.2.1.toNat
    if sel.ult 20#5 then
      let all := args.map num
      args.map (fun p => (p.1, sumLane f rm all park))
    else args.map (fun p =>
      (p.1, sumLane f rm ((args.filter (fun q => if excl then decide (q.1 < p.1) else decide (q.1 ≤ p.1))).map num) park))
  else args.map (fun p =>
    (p.1, match fnOf major sel with
      | some fn => fnLane fn t rm p.2.1.toNat p.2.2.1.toNat
      | none => dotLane (decide (sel = 4#5)) t rm p.2.1.toNat p.2.2.1.toNat p.2.2.2.toNat))

/-- The format of an operation's results. -/
def resultFmt (major : BitVec 6) (sel : BitVec 5) (t : BitVec 2) : BitVec 2 :=
  if major = 0x1C#6 ∧ (sel = 3#5 ∨ sel = 4#5) then 0#2 else t

/-! ### Writing results after issue -/

/-- Writes results of a format and ORs their flags (R156, R179). -/
def State.writeLanes (s : State) (core : Nat) (k : CrewKey) (pc : Word) (t : BitVec 2) (d : BitVec 7)
    (l : List (Nat × Lane)) : State :=
  let s := s.writeLate core k pc d (if t = 1#2 then 2 else 1) (l.map (fun p => (p.1, BitVec.ofNat 128 p.2.bits)))
  s.mapCrew k (fun c => c.orFlags (orAll (l.map (fun p => p.2.flags))))

/-! ### Issue (R174) -/

/-- Park record indices of a core in use or reserved. -/
def State.parkUsed (s : State) (core : Nat) : List Nat :=
  (s.fl.parks.filter (fun p => decide (p.core = core))).flatMap (·.idx) ++
  (s.fl.fasts.filter (fun f => decide (f.core = core))).flatMap (·.resv)
/-- Free park record indices of a core, ascending. -/
def State.parkFree (s : State) (core : Nat) : List Nat :=
  (List.range 64).filter (fun i => !(s.parkUsed core).contains i)

/-- Another entry on the core began to wait for park records earlier (R174). -/
def State.parkBehind (s : State) (core : Nat) (c : Ctx) : Bool :=
  s.crews.any (fun x => !x.stopped && (s.teamOf x.key.team).any (fun t => decide (t.core = core) && decide (t.st = .running)) &&
    x.entries.any (fun e =>
      match e.parkWait with
      | some w => !(decide (x.key = c.crew.key) && decide (e.mask = c.ent.mask)) &&
        (match c.ent.parkWait with
          | some mine => decide (w < mine)
          | none => true)
      | none => false))

/-- The records an operation may need: one per lane, or a chain for REDUX and SCAN, for each member of a pair (R174). -/
def parkNeed (major : BitVec 6) (t : BitVec 2) (prot : Bool) (slots : Nat) : Nat :=
  if major = 0x16#6 then (if t = 3#2 then 1 else if t = 0#2 then 2 else 3) * (if prot then 2 else 1) else slots

/-- The lanes of both members of a protected pair are separate; otherwise there is one group of slots. -/
def memberArgs (prot : Bool) (args : Args) : List Args :=
  if prot then [args.filter (fun p => decide (p.1 < 16)), args.filter (fun p => decide (16 ≤ p.1))] else [args]

/-- The issue of an operation of the second group of R167.  It reserves the free records of lowest index, and a park takes
the lowest of its own reservation (DEDUCED: log entry 102).  Without a lane to test, its results are written at once. -/
def staged (major : BitVec 6) (sel : BitVec 5) (t : BitVec 2) (excl : Bool) (d : BitVec 7)
    (arg : Crew → Nat → DWord × DWord × DWord) (c : Ctx) (s : State) : Res State := do
  let args : Args := c.slots.map (fun k => (k, arg c.crew k))
  let lanes := (memberArgs c.launch.prot args).flatMap (lanesOf major sel t c.rm excl)
  let rt := resultFmt major sel t
  let regs := fieldRegs d (if rt = 1#2 then 2 else 1)
  if lanes.all (fun p => p.2.test.isNone) then
    let own ← c.writeNow regs
    let cr := (own.putF rt d (lanes.map (fun p => (p.1, p.2.bits)))).orFlags (orAll (lanes.map (fun p => p.2.flags)))
    .ok (s.setCrew c.n (cr.advance c.grp c.next))
  else
    let core := c.team.core
    let need := parkNeed major t c.launch.prot args.length
    let free := s.parkFree core
    if s.parkBehind core c || decide (free.length < need) then .error .parkWait
    else
      let id := s.serial
      let op : FastOp := ⟨id, c.crew.key, core, major, sel, t, c.rm, d, c.act, free.take need, args, excl, c.grp.first, s.free⟩
      let s := { s.setCrew c.n ((c.crew.mark id regs).advance c.grp c.next) with serial := id + 1, free := s.free + 32 }
      .ok { s with fl := { s.fl with fasts := s.fl.fasts ++ [op] } }

/-! ### Fast results and park records (R169, R173, R175) -/

/-- A counter of RSLV.STAT advances by k (R186). -/
def countPark (s : State) (core n k : Nat) : State :=
  let v := Cells.get 0#32 s.dev.counts (8 * core + n) + BitVec.ofNat 32 k
  { s with dev := { s.dev with counts := Cells.set 0#32 s.dev.counts (8 * core + n) v } }

/-- A park record or chain for lanes that failed the test, at the first reserved indices; the rest of the reservation. -/
def State.addPark (s : State) (o : FastOp) (resv : List Nat) (n : Nat) (chain : Bool) (slot : Nat) (pmask amask : BitVec 32)
    (args : Args) : State × List Nat :=
  let seq := Cells.get 0#32 s.dev.seqs o.core
  let p : Park := {
    core := o.core
    idx := resv.take n
    seq := seq
    crew := o.crew
    op := o.id
    major := o.major
    sel := o.sel
    fmt := o.fmt
    rm := o.rm
    dest := o.dest
    slot := slot
    chain := chain
    excl := o.excl
    pmask := pmask
    amask := amask
    args := args
    stage := .queued
    bad := false
    pc := o.pc }
  let s := countPark s o.core 1 1
  let dev := { s.dev with seqs := Cells.set 0#32 s.dev.seqs o.core (seq + 1#32) }
  ({ s with dev := dev, fl := { s.fl with parks := s.fl.parks ++ [p] } }, resv.drop n)

/-- Parks the lanes of one member of an operation: a chain for REDUX and SCAN, of the
second member in the slots from 16 on (R173), else a record per lane. -/
def State.parkLanes (s : State) (o : FastOp) (prot : Bool) (resv : List Nat) (args : Args) (fails : List Nat) :
    State × List Nat :=
  if fails.isEmpty then (s, resv)
  else if o.major = 0x16#6 then
    let n := if o.fmt = 3#2 then 1 else if o.fmt = 0#2 then 2 else 3
    let slot := if prot then args.foldl (fun _ p => p.1 / 16 * 16) 0 else 0
    s.addPark o resv n true slot (maskOf fails) (maskOf (args.map (·.1))) args
  else fails.foldl (fun acc k =>
    acc.1.addPark o acc.2 1 false k (1#32 <<< k) (1#32 <<< k) (args.filter (fun p => decide (p.1 = k)))) (s, resv)

/-- The members of an operation with their lanes. -/
def FastOp.members (o : FastOp) (prot : Bool) : List (Args × List (Nat × Lane)) :=
  (memberArgs prot o.args).map (fun a => (a, lanesOf o.major o.sel o.fmt o.rm o.excl a))

/-- The slots of a member whose fast results fail the test; a REDUX has one fast result (R169). -/
def FastOp.fails (o : FastOp) (l : List (Nat × Lane)) : List Nat :=
  let one := decide (o.major = 0x16#6) && o.sel.ult 20#5
  (l.filter (fun p => match p.2.test with
    | some (m, b) => testFails (fmtOf (resultFmt o.major o.sel o.fmt)) o.rm m b
        (Config.fastError (o.draw + (if one then (l.headD p).1 else p.1)))
    | none => false)).map (·.1)

/-- FAST_RESULT: the fast results are tested; the lanes that pass are written, the others park, and the records not used
are released (R169, R174, R175). -/
def execFastResult (op : Nat) (s : State) : Host.Outcome State Fault Refusal :=
  event (fun s =>
    match s.fl.fasts.find? (fun o => decide (o.id = op)) with
    | none => .error .disabled
    | some o =>
      let prot := (s.launchOf o.crew.team.launch).any (·.prot)
      let members := o.members prot
      let s := { s with fl := { s.fl with fasts := s.fl.fasts.filter (fun x => !decide (x.id = op)) } }
      let done := members.flatMap (fun m => m.2.filter (fun p => !(o.fails m.2).contains p.1))
      let s := s.writeLanes o.core o.crew o.pc (resultFmt o.major o.sel o.fmt) o.dest done
      let r := members.foldl (fun acc m => acc.1.parkLanes o prot acc.2 m.1 (o.fails m.2)) (s, o.resv)
      if members.all (fun m => (o.fails m.2).isEmpty) then .ok (r.1.mapCrew o.crew (fun c => c.unmark op)) else .ok r.1) s

/-! ### Resolver and exact stage (R177 to R180) -/

/-- The record of a core at an index; a chain is named by its head. -/
def State.parkAt (s : State) (core record : Nat) : Option Park :=
  s.fl.parks.find? (fun p => decide (p.core = core) && decide (p.idx.head? = some record))

/-- Replaces a record by another, or removes it. -/
def State.setPark (s : State) (p : Park) (q : List Park) : State :=
  { s with fl := { s.fl with parks := s.fl.parks.filter (fun x => !(decide (x.core = p.core) && decide (x.idx = p.idx))) ++ q } }

/-- The core of a cluster that the resolver's rotation offers next: the first, from its pointer on, with a queued record
(R177). -/
def State.rslvCore (s : State) (cl : Nat) : Option Nat :=
  ((List.range 8).map (fun i => 8 * cl + (Cells.get 0 s.dev.rslv cl + i) % 8)).find? (fun k =>
    s.fl.parks.any (fun x => decide (x.core = k) && decide (x.stage = .queued)))

/-- RESOLVER_ACCEPT: the cluster's resolver takes the cores in rotation, and of a core's queue the record of the lowest
sequence number (R177). -/
def execResolverAccept (core record : Nat) (s : State) : Host.Outcome State Fault Refusal :=
  event (fun s =>
    match s.parkAt core record with
    | some p =>
      let first := s.fl.parks.all (fun x => !(decide (x.core = core) && decide (x.stage = .queued)) || !(x.seq.ult p.seq))
      if p.stage = .queued ∧ first ∧ s.rslvCore (clusterOf core) = some core then
        .ok { s with
          dev := { s.dev with rslv := Cells.set 0 s.dev.rslv (clusterOf core) ((core + 1) % 8) }
          fl := { s.fl with parks := s.fl.parks.map (fun x =>
            if x.core = core ∧ x.idx = p.idx then { x with stage := .resolver } else x) } }
      else .error .disabled
    | none => .error .disabled) s

/-- The write-back of a settled record: its lanes' results and flags; its records become free, and the register is no
longer pending when no parked lane of the instruction remains (R179). -/
def State.writeBack (s : State) (p : Park) : State :=
  let rt := resultFmt p.major p.sel p.fmt
  let lanes := (lanesOf p.major p.sel p.fmt p.rm p.excl p.args).filter (fun l => p.pmask.getLsbD l.1)
  let s := s.setPark p []
  let s := lanes.foldl (fun s l => s.writeLanes p.core p.crew p.pc rt p.dest [l]) s
  if s.fl.parks.any (fun x => decide (x.crew = p.crew) && decide (x.op = p.op)) then s
  else s.mapCrew p.crew (fun c => c.unmark p.op)

/-- A record's uncorrectable error is consumed: it never settles and its gang is killed (R180). -/
def State.parkError (s : State) (p : Park) : State :=
  s.trapAfter p.core p.crew p.pc
    { cause := 8, info := BitVec.ofNat 64 (4 <<< 60 + p.idx.headD 0) }

/-- RESOLVER_SETTLE: a function record that passes the test under the resolver's bound, and a sum but a .d chain, is
settled; every other goes to the exact stage of its die (R177). -/
def execResolverSettle (core record : Nat) (s : State) : Host.Outcome State Fault Refusal :=
  event (fun s =>
    match s.parkAt core record with
    | some p =>
      if p.stage ≠ .resolver then .error .disabled
      else if p.bad then .ok ((s.setPark p []).parkError p)
      else
        let f := fmtOf (resultFmt p.major p.sel p.fmt)
        let lanes := lanesOf p.major p.sel p.fmt p.rm p.excl p.args
        let sum := (fnOf p.major p.sel).isNone
        let settle := if sum then !(p.chain && decide (p.fmt = 1#2))
          else lanes.all (fun l => match l.2.test with
            | some (m, _) => !testFails f p.rm m (resolverBound f) (Config.resolverError s.free)
            | none => true)
        let s := { s with free := s.free + 1 }
        if settle then .ok (countPark (s.writeBack p) core 2 p.idx.length)
        else .ok (countPark (s.setPark p [{ p with stage := .exact }]) core 3 p.idx.length)
    | none => .error .disabled) s

/-- EXACT_STAGE_SETTLE: the exact stage of a die settles its records in arrival order (R178). -/
def execExactStageSettle (core record : Nat) (s : State) : Host.Outcome State Fault Refusal :=
  event (fun s =>
    match s.parkAt core record with
    | some p =>
      let first := s.fl.parks.find? (fun x => decide (x.stage = .exact) && decide (dieOf x.core = dieOf core))
      if p.stage = .exact ∧ first = some p then
        if p.bad then .ok ((s.setPark p []).parkError p) else .ok (s.writeBack p)
      else .error .disabled
    | none => .error .disabled) s

/-! ### The instructions -/

/-- The arguments of a function of one operand, and of two, in a format. -/
def arg1 (t : BitVec 2) (a : BitVec 7) (c : Crew) (k : Nat) : DWord × DWord × DWord :=
  (BitVec.ofNat 64 (c.fbits t a k), 0#64, 0#64)
def arg2 (t : BitVec 2) (a b : BitVec 7) (c : Crew) (k : Nat) : DWord × DWord × DWord :=
  (BitVec.ofNat 64 (c.fbits t a k), BitVec.ofNat 64 (c.fbits t b k), 0#64)

/-- FRSQ: 1 / sqrt a (R205). -/
def execFrsq (d a : BitVec 7) (t : BitVec 2) (s : State) : Host.Outcome State Fault Refusal :=
  issue (.frsq d a t) (staged 0x1A#6 2#5 t false d (arg1 t a)) s
/-- FRCP: 1 / a (R205). -/
def execFrcp (d a : BitVec 7) (t : BitVec 2) (s : State) : Host.Outcome State Fault Refusal :=
  issue (.frcp d a t) (staged 0x1A#6 3#5 t false d (arg1 t a)) s
/-- FEXP: e^x (R206). -/
def execFexp (d a : BitVec 7) (t : BitVec 2) (s : State) : Host.Outcome State Fault Refusal :=
  issue (.fexp d a t) (staged 0x1B#6 0#5 t false d (arg1 t a)) s
/-- FEXP2: 2^x (R206). -/
def execFexp2 (d a : BitVec 7) (t : BitVec 2) (s : State) : Host.Outcome State Fault Refusal :=
  issue (.fexp2 d a t) (staged 0x1B#6 1#5 t false d (arg1 t a)) s
/-- FEXP10: 10^x (R206). -/
def execFexp10 (d a : BitVec 7) (t : BitVec 2) (s : State) : Host.Outcome State Fault Refusal :=
  issue (.fexp10 d a t) (staged 0x1B#6 2#5 t false d (arg1 t a)) s
/-- FEXPM1: e^x - 1 (R206). -/
def execFexpm1 (d a : BitVec 7) (t : BitVec 2) (s : State) : Host.Outcome State Fault Refusal :=
  issue (.fexpm1 d a t) (staged 0x1B#6 3#5 t false d (arg1 t a)) s
/-- FLOG: ln x (R206). -/
def execFlog (d a : BitVec 7) (t : BitVec 2) (s : State) : Host.Outcome State Fault Refusal :=
  issue (.flog d a t) (staged 0x1B#6 4#5 t false d (arg1 t a)) s
/-- FLOG2: log2 x (R206). -/
def execFlog2 (d a : BitVec 7) (t : BitVec 2) (s : State) : Host.Outcome State Fault Refusal :=
  issue (.flog2 d a t) (staged 0x1B#6 5#5 t false d (arg1 t a)) s
/-- FLOG10: log10 x (R206). -/
def execFlog10 (d a : BitVec 7) (t : BitVec 2) (s : State) : Host.Outcome State Fault Refusal :=
  issue (.flog10 d a t) (staged 0x1B#6 6#5 t false d (arg1 t a)) s
/-- FLOG1P: ln(1 + x) (R206). -/
def execFlog1p (d a : BitVec 7) (t : BitVec 2) (s : State) : Host.Outcome State Fault Refusal :=
  issue (.flog1p d a t) (staged 0x1B#6 7#5 t false d (arg1 t a)) s
/-- FSIN: sin x (R206). -/
def execFsin (d a : BitVec 7) (t : BitVec 2) (s : State) : Host.Outcome State Fault Refusal :=
  issue (.fsin d a t) (staged 0x1B#6 8#5 t false d (arg1 t a)) s
/-- FCOS: cos x (R206). -/
def execFcos (d a : BitVec 7) (t : BitVec 2) (s : State) : Host.Outcome State Fault Refusal :=
  issue (.fcos d a t) (staged 0x1B#6 9#5 t false d (arg1 t a)) s
/-- FTAN: tan x (R206). -/
def execFtan (d a : BitVec 7) (t : BitVec 2) (s : State) : Host.Outcome State Fault Refusal :=
  issue (.ftan d a t) (staged 0x1B#6 10#5 t false d (arg1 t a)) s
/-- FSINPI: sin(pi x) (R206). -/
def execFsinpi (d a : BitVec 7) (t : BitVec 2) (s : State) : Host.Outcome State Fault Refusal :=
  issue (.fsinpi d a t) (staged 0x1B#6 11#5 t false d (arg1 t a)) s
/-- FCOSPI: cos(pi x) (R206). -/
def execFcospi (d a : BitVec 7) (t : BitVec 2) (s : State) : Host.Outcome State Fault Refusal :=
  issue (.fcospi d a t) (staged 0x1B#6 12#5 t false d (arg1 t a)) s
/-- FATAN: arctan x (R206). -/
def execFatan (d a : BitVec 7) (t : BitVec 2) (s : State) : Host.Outcome State Fault Refusal :=
  issue (.fatan d a t) (staged 0x1B#6 13#5 t false d (arg1 t a)) s
/-- FTANH: tanh x (R206). -/
def execFtanh (d a : BitVec 7) (t : BitVec 2) (s : State) : Host.Outcome State Fault Refusal :=
  issue (.ftanh d a t) (staged 0x1B#6 14#5 t false d (arg1 t a)) s
/-- FERF: erf x (R206). -/
def execFerf (d a : BitVec 7) (t : BitVec 2) (s : State) : Host.Outcome State Fault Refusal :=
  issue (.ferf d a t) (staged 0x1B#6 15#5 t false d (arg1 t a)) s
/-- FCBRT: the real cube root (R206). -/
def execFcbrt (d a : BitVec 7) (t : BitVec 2) (s : State) : Host.Outcome State Fault Refusal :=
  issue (.fcbrt d a t) (staged 0x1B#6 16#5 t false d (arg1 t a)) s
/-- FATAN2: arctan of a / b in the quadrant of (b, a) (R208). -/
def execFatan2 (d a b : BitVec 7) (t : BitVec 2) (s : State) : Host.Outcome State Fault Refusal :=
  issue (.fatan2 d a b t) (staged 0x1C#6 0#5 t false d (arg2 t a b)) s
/-- FHYPOT: sqrt(a^2 + b^2) (R208). -/
def execFhypot (d a b : BitVec 7) (t : BitVec 2) (s : State) : Host.Outcome State Fault Refusal :=
  issue (.fhypot d a b t) (staged 0x1C#6 1#5 t false d (arg2 t a b)) s
/-- FPOW: a to the power b, in .s (R208). -/
def execFpow (d a b : BitVec 7) (s : State) : Host.Outcome State Fault Refusal :=
  issue (.fpow d a b) (staged 0x1C#6 2#5 0#2 false d (arg2 0#2 a b)) s
/-- FDOT2: .h or .bf elements (R209). -/
def execFdot2 (d a b : BitVec 7) (t : BitVec 1) (s : State) : Host.Outcome State Fault Refusal :=
  issue (.fdot2 d a b t) (fun c => staged 0x1C#6 3#5 (1#1 ++ t) false d
    (fun cr k => ((cr.src a k).setWidth 64, (cr.src b k).setWidth 64, (cr.src (c.third d) k).setWidth 64)) c) s
/-- FDOT4: .e4m3 or .e5m2 elements (R209). -/
def execFdot4 (d a b : BitVec 7) (t : BitVec 1) (s : State) : Host.Outcome State Fault Refusal :=
  issue (.fdot4 d a b t) (fun c => staged 0x1C#6 4#5 (0#1 ++ t) false d
    (fun cr k => ((cr.src a k).setWidth 64, (cr.src b k).setWidth 64, (cr.src (c.third d) k).setWidth 64)) c) s
/-- REDUX: the sum over the active threads (R214). -/
def execRedux (d a : BitVec 7) (t : BitVec 2) (s : State) : Host.Outcome State Fault Refusal :=
  issue (.redux d a t) (staged 0x16#6 (16#5 + t.setWidth 5) t false d (arg1 t a)) s
/-- SCAN: the sums over the active threads up to each (R214). -/
def execScan (d a : BitVec 7) (t : BitVec 2) (s : State) : Host.Outcome State Fault Refusal :=
  issue (.scan d a t) (staged 0x16#6 (20#5 + t.setWidth 5) t false d (arg1 t a)) s
/-- SCAN.EX: the sums over the active threads below each (R214). -/
def execScanEx (d a : BitVec 7) (t : BitVec 2) (s : State) : Host.Outcome State Fault Refusal :=
  issue (.scanEx d a t) (staged 0x16#6 (20#5 + t.setWidth 5) t true d (arg1 t a)) s

/-- RSLV.WAIT (R185). -/
def execRslvWait (s : State) : Host.Outcome State Fault Refusal :=
  issue .rslvWait (fun c s => if s.mayPark c.crew.key then .error .wait else .ok (c.go s id)) s

/-- The threads of a crew that are parked: those that a record holds, and from its issue on those of an operation that will
fail the test (R176, R186). -/
def State.parkedOf (s : State) (k : CrewKey) (prot : Bool) : BitVec 32 :=
  (s.fl.parks.filter (fun p => decide (p.crew = k))).foldl (fun m p => m ||| p.pmask)
    (maskOf ((s.fl.fasts.filter (fun o => decide (o.crew = k))).flatMap (fun o =>
      (o.members prot).flatMap (fun m => o.fails m.2))))

/-- The counters of RSLV.STAT (R186). -/
def rslvCounter (c : Ctx) (s : State) (n : Nat) : Word :=
  match n with
  | 0 => BitVec.ofNat 32 (popCount (s.parkedOf c.crew.key c.launch.prot))
  | 4 => BitVec.ofNat 32 (s.parkFree c.team.core).length
  | k => Cells.get 0#32 s.dev.counts (8 * c.team.core + k)

/-- RSLV.STAT (R186). -/
def execRslvStat (d n : BitVec 6) (s : State) : Host.Outcome State Fault Refusal :=
  issueF { shape := [.ud .one d], takes := { }, twice := some 6 } (fun c s => do
    ensure (n.ule 5#6) invalid
    .ok (c.go s (fun cr => cr.putU d.toNat (rslvCounter c s n.toNat)))) s

end Sys2Proof.Machine
end

