-- ==== Sys2Proof/Machine/Homes.lean ====
section
/-!
DEFINITION. The steps by which accesses are performed and delivered: a home's command to a line (R45 to R49, R254 to
R268), fills and scrubs (R57, R58), the walk of a translation and page faults (R70 to R75), the answers to loads and
stores (R109, R246), retries (R114), speculative requests (R121), and answers from other devices (R298 to R302).
-/

namespace Sys2Proof.Machine

/-! ### What a command reads and writes on its line -/

/-- The offsets in its line of an access of n bytes. -/
def Acc.offsets (a : Acc) (n : Nat) : List Nat := (List.range n).map (fun k => (a.va.toNat + k) % 128)
/-- The granules of a line request's accesses. -/
def MOp.granules (o : MOp) (i : Nat) : BitVec 4 := granulesOf ((o.accsOf i).flatMap (fun a => a.offsets o.kind.bytes))

/-- The offsets of line request i of an ACCDRAIN, an ACCSAVE or an ACCLOAD. -/
def MOp.accOffsets (o : MOp) (i : Nat) : List Nat :=
  match o.kind, o.reqs[i]? with
  | .accdrain _ g base stride _ w, some r =>
    (drainElems g base stride w r.vline).flatMap (fun p => (List.range (drainBytes w)).map (fun k => p.1 + k))
  | .accsave _ g _, _ => imageOffsets g i
  | .accload _ g _, _ => imageOffsets g i
  | _, _ => []

/-- The granules that line request i reads at its home (R58).  A load, LDW, PREF.l1 or VERS reads its line; PREF.l2 reads
none; a write's granules are its own, read by R56 where it covers them in part. -/
def MOp.readsAt (o : MOp) (i : Nat) : BitVec 4 :=
  match o.kind with
  | .load _ _ => allGranules
  | .vers => allGranules
  | .pref one => if one then allGranules else 0#4
  | .xprog _ => granulesOf ((o.accsOf i).flatMap (fun a => a.offsets 64))
  | .accdrain _ _ _ _ _ _ => granulesOf (o.accOffsets i)
  | .accsave _ _ _ => granulesOf (o.accOffsets i)
  | .accload _ _ _ => granulesOf (o.accOffsets i)
  | _ => o.granules i

/-- A slot's thread: none for an access of the whole crew. -/
def State.threadAt (s : State) (o : MOp) (slot : Nat) : Option Nat :=
  if 32 ≤ slot then none
  else if (s.launchOf o.crew.team.launch).any (·.prot) then some (slot % 16) else some slot

/-- What R403 reports of a memory line. -/
def lineInfo (line : Nat) : DWord := BitVec.ofNat 64 (128 * line)
/-- The line number a target reports. -/
def Target.lineNum : Target → Nat
  | .home ln => ln
  | .remote _ ln => ln
  | .scratch _ => 0

/-- The first access of line request i with a byte in a poisoned granule. -/
def MOp.foulAcc (o : MOp) (i : Nat) (poison : BitVec 4) : Option Acc :=
  (o.accsOf i).find? (fun a => decide (granulesOf (a.offsets o.kind.bytes) &&& poison ≠ 0#4))

/-- An operation consumes poison of a line: its gang is killed and the operation is over (R60, R361). -/
def State.consume (s : State) (o : MOp) (info : DWord) (thread : Option Nat) : State :=
  (s.trapAfter o.core o.crew o.pc { cause := 8, info := info, thread := thread }).dropOp o.id

/-- What a command computes on its line, from the line and its version before it (R255, R256, R266). -/
def MOp.compute (o : MOp) (i : Nat) (l : Line) (ver : BitVec 12) (seed : DWord) : Option CmdOut :=
  let n := o.kind.bytes
  let off (a : Acc) : Nat := a.va.toNat % 128
  let b (a : Acc) : Nat := a.data.toNat % 2 ^ (8 * n)
  match o.kind with
  | .atomic op _ _ => some (atomicSteps l op ((o.accsOf i).map (fun a => (off a, b a, a.aux.toNat % 2 ^ (8 * n)))))
  | .atomf dbl _ => some (fpSteps l dbl o.rm ((o.accsOf i).map (fun a => (off a, b a))))
  | .msadd half => some (msaddSteps l half o.rm seed ver ((o.accsOf i).map (fun a => (a.va.toNat / 128, off a, b a))))
  | _ => none

/-- The old values a command returns go to its threads; a deterministic ATOM.ADD keeps its reservation (R255, R258). -/
def MOp.giveOlds (o : MOp) (i : Nat) (olds : List Nat) : MOp :=
  match o.kind with
  | .atomic _ _ true => o
  | _ =>
    let slots := (o.accsOf i).map (·.slot)
    { o with accs := o.accs.map (fun a =>
        if a.req = i then match findIx (fun x => decide (x = a.slot)) slots with
          | some k => { a with out := BitVec.ofNat 128 ((olds[k]?).getD 0) }
          | none => a
        else a) }

/-! ### Performing at the home -/

/-- A line request takes what its home holds (R49), with the time and the number of the answer. -/
def LReq.take (r : LReq) (s : State) (line : Nat) : LReq :=
  { r with
    st := .performed, data := s.lineAt line, poison := (s.lineMeta line).poison, ver := (s.lineMeta line).ver,
    time := s.dev.bclk, point := s.serial }

/-- A core holds a CWR of the line at its home. -/
def State.coreHolds (s : State) (core line : Nat) : Bool :=
  s.fl.ops.any (fun o => decide (o.core = core) &&
    o.reqs.any (fun r => decide (r.st = .held) && decide (r.target = .home line)))

/-- A later fill of a line outruns the answers of the core's other operations that wait to be installed: they are not, and
the threads that load them keep that they have seen them, so that no older copy serves them (R275, R279). -/
def State.outrun (s : State) (core line by' : Nat) : State :=
  let late (p : MOp) (q : LReq) : Bool := decide (p.core = core) && decide (p.id ≠ by') && decide (q.target = .home line) &&
    decide (q.path = .home) && decide (q.st = .performed)
  let s := s.fl.ops.foldl (fun s p => p.reqs.zipIdx.foldl (fun s q =>
    if late p q.1 then s.noteSeen p q.2 q.1.target q.1.point else s) s) s
  s.spoilFills late

/-- A fill that may be installed replaces those of the same core taken before it and not yet installed; one taken while the
core has an unperformed write of the line is not installed (R275, R281).  Of an answer that is not installed, the threads
that load it keep that they have seen it. -/
def State.freshFill (s : State) (o : MOp) (i line : Nat) : State :=
  let n := s.serial
  let s := { s with serial := n + 1 }
  match o.reqs[i]? with
  | some r =>
    if s.coreHolds o.core line || !r.install then
      let s := s.setReq o.id i (fun r => { r with install := false })
      if r.path = .home ∧ inMain (128 * line) then s.noteSeen o i r.target n else s
    else if r.path = .home then s.outrun o.core line o.id
    else s
  | none => s

/-- A line that a load, a prefetch, VERS, XPROG or ACCLOAD reads. -/
def State.readHome (s : State) (o : MOp) (i line : Nat) : State :=
  let s := s.homeRead line (o.readsAt i) o.crew.team.launch
  s.setReq o.id i (fun r => r.take s line)

/-- A plain write of a line: its version is the next (R46). -/
def State.writeHome (s : State) (o : MOp) (i line : Nat) (bytes : List (Nat × Byte)) (flags : BitVec 5) : State :=
  let s := s.checkVersion line o.crew.team.launch
  let v := (s.lineMeta line).ver + 1#12
  (s.setReq o.id i (fun r => { r with st := .performed, wrote := true, ver := v, flags := flags })).homeWrite line bytes 0#4
    o.crew.team.launch

/-- A memory-side command that computes: operands read, poison consumed, one write if any thread wrote (R60, R254 to R256,
R266). -/
def State.computeHome (s : State) (o : MOp) (i line : Nat) (seed : DWord) : State :=
  let s := s.commandRead line (o.granules i) o.crew.team.launch
  let m := s.lineMeta line
  match o.foulAcc i m.poison with
  | some a => (s.takeCycle line).consume o (lineInfo line) (s.threadAt o a.slot)
  | none =>
    match o.compute i (s.lineAt line) m.ver seed with
    | some out =>
      let s := s.mapOp o.id (fun o => o.giveOlds i out.olds)
      if out.bytes.isEmpty then
        (s.takeCycle line).setReq o.id i (fun r => { r with st := .performed, wrote := false, ver := m.ver })
      else s.writeHome o i line out.bytes out.flags
    | none => s

/-- The CWRs that a home holds. -/
def State.heldAt (s : State) (home : Nat) : Nat :=
  (s.fl.ops.flatMap (fun o => o.reqs.filter (fun r => decide (r.st = .held) && (match r.target with
    | .home ln => decide (homeOf ln = home)
    | _ => false)))).length + (s.fl.far.filter (fun h => decide (homeOf h.line = home))).length

/-- A request that is rejected counts its rejections, and is marked aged at the 64th (R114). -/
def LReq.reject (r : LReq) (now : Nat) : LReq :=
  { r with st := .rejected, tries := r.tries + 1,
           aged := if r.aged.isNone && decide (64 ≤ r.tries + 1) then some now else r.aged }

/-- The entries of an operation's threads are held while its requests are rejected (R114). -/
def Crew.holdRetry (c : Crew) (o : MOp) : Crew :=
  { c with entries := c.entries.map (fun e =>
      if e.mask &&& o.mask ≠ 0#32 ∧ e.waits.contains o.id = false then { e with waits := e.waits ++ [o.id] } else e) }

/-- A CWR line at its home; one that a full home cannot hold is rejected back to its core, and holds its entry (R114,
R267). -/
def State.cwrHome (s : State) (o : MOp) (i line : Nat) : State :=
  let s := s.checkVersion line o.crew.team.launch
  let v := (s.lineMeta line).ver
  let e := o.expects i
  if v = e then s.writeHome o i line (o.storeBytes i 4) 0#5
  else if later e v ∧ 64 ≤ s.heldAt (homeOf line) then
    (({ s with serial := s.serial + 1 } : State).setReq o.id i (fun r => r.reject s.serial)).mapCrew o.crew
      (fun c => c.holdRetry o)
  else ({ s with serial := s.serial + 1 } : State).cwrLine o i line s.serial

/-- The write of a drained line, from the weights read (R158, R236, R242). -/
def State.drainWrite (s : State) (t : Team) (o : MOp) (i line : Nat) (src : Line) (g : Word) (base : DWord)
    (stride scale : Word) (w : BitVec 2) (seed : DWord) (vline : Nat) : State :=
  let els := drainElems g base stride w vline
  match t.accFoul (els.map (fun p => (cellSlot g p.2, regSlots g))) with
  | some k => s.consume o (accInfo k) none
  | none =>
    let s := s.checkVersion line o.crew.team.launch
    let r := t.drainLine g scale w o.rm seed vline (s.lineMeta line).ver src els
    s.writeHome o i line r.1 r.2

/-- A line of an ACCDRAIN: an even request reads the weights, the odd one after it writes; on a page without DV the write
reads them itself (R236). -/
def State.drainHome (s : State) (o : MOp) (i line : Nat) (r : LReq) (seed : DWord) : State :=
  match o.kind, s.teamOf o.crew.team with
  | .accdrain _ g base stride scale w, some t =>
    let dual := match o.reqs[i - 1]? with
      | some q => decide (q.target ≠ r.target)
      | none => false
    if i % 2 = 0 then
      let s := s.homeRead line (o.readsAt i) o.crew.team.launch
      if (s.lineMeta line).poison &&& o.readsAt i ≠ 0#4 then s.consume o (lineInfo line) none
      else s.setReq o.id i (fun r => r.take s line)
    else if !dual then
      let s := s.commandRead line (o.readsAt i) o.crew.team.launch
      if (s.lineMeta line).poison &&& o.readsAt i ≠ 0#4 then (s.takeCycle line).consume o (lineInfo line) none
      else s.drainWrite t o i line (s.lineAt line) g base stride scale w seed r.vline
    else match o.reqs[i - 1]? with
      | some q => if q.performed then s.drainWrite t o i line q.data g base stride scale w seed r.vline else s
      | none => s
  | _, _ => s

/-- A line of an ACCSAVE (R237). -/
def State.saveHome (s : State) (o : MOp) (i line : Nat) : State :=
  match o.kind, s.teamOf o.crew.team with
  | .accsave _ g _, some t =>
    match t.accFoul (regionSlots g) with
    | some k => s.consume o (accInfo k) none
    | none => s.writeHome o i line (t.imageLine g i) 0#5
  | _, _ => s

/-- The write of a drain into the shadow frame follows its read. -/
def MOp.drainReady (o : MOp) (i : Nat) : Bool :=
  decide (i % 2 = 0) || (match o.reqs[i - 1]? with
    | some q => q.performed
    | none => false)

/-- HOME_COMMAND: a home performs the line request of an operation; a store to host memory is sent on the link (R46, R49,
R309). -/
def execHomeCommand (op line : Nat) (s : State) : Host.Outcome State Fault Refusal :=
  event (fun s =>
    match s.opOf op with
    | none => .error .disabled
    | some o =>
      match o.reqs[line]?, s.launchOf o.crew.team.launch with
      | some r, some l =>
        if decide (r.st ≠ .sent) || s.blocked o line r then .error .disabled
        else match r.target with
          | .home ln =>
            match o.kind with
            | .load _ _ => .ok ((s.readHome o line ln).freshFill o line ln)
            | .pref one =>
              if one then .ok ((s.readHome o line ln).freshFill o line ln)
              else .ok (((s.takeCycle ln).fillLine ln allGranules l.id).setReq op line (fun r => { r with st := .performed }))
            | .store n => .ok (s.writeHome o line ln (o.storeBytes line n) 0#5)
            | .atomic _ _ _ => .ok (s.computeHome o line ln l.seed)
            | .atomf _ _ => .ok (s.computeHome o line ln l.seed)
            | .msadd _ => .ok (s.computeHome o line ln l.seed)
            | .cwr => .ok (s.cwrHome o line ln)
            | .vers => .ok (s.readHome o line ln)
            | .xprog _ => .ok (s.readHome o line ln)
            | .accdrain _ _ _ _ _ _ =>
              if o.drainReady line then .ok (s.drainHome o line ln r l.seed) else .error .disabled
            | .accsave _ _ _ => .ok (s.saveHome o line ln)
            | .accload _ _ _ => .ok (s.readHome o line ln)
            | _ => .error .disabled
          | .remote d ln =>
            match o.kind with
            | .store n =>
              if d = 2047 then
                let msg := OutMsg.hostWrite (s.dev.hostbase.toNat + 128 * ln) (o.storeBytes line n)
                let s := { s with dev := { s.dev with out := s.dev.out ++ [msg] } }
                .ok (s.setReq op line (fun r => { r with st := .performed, wrote := true }))
              else .error .disabled
            | _ => .error .disabled
          | .scratch _ => .error .disabled
      | _, _ => .error .disabled) s

/-! ### Fills of the caches -/

/-- At most n entries satisfy p: the oldest leave. -/
def keepLast {α : Type} (p : α → Bool) (n : Nat) (l : List α) : List α :=
  let extra := (l.filter p).length - n
  (l.foldl (fun (acc : List α × Nat) x => if p x && decide (0 < acc.2) then (acc.1, acc.2 - 1) else (acc.1 ++ [x], acc.2))
    ([], extra)).1

/-- A line enters a core's L1, of whose sets each holds at most 8 lines (R108, R109); of which set a line is, the spec does
not say (FREE VALUE, log entry 14). -/
def State.fillL1 (s : State) (core line : Nat) (data : Line) (poison : BitVec 4) (ver : BitVec 12) (time point : Nat) : State :=
  let l := s.fl.l1.filter (fun x => !(decide (x.core = core) && decide (x.line = line)))
  let l := l ++ [⟨core, line, data, poison, ver, time, point⟩]
  let l := if (l.filter (fun x => decide (x.core = core))).length ≤ Config.l1Ways then l
    else keepLast (fun x => decide (x.core = core) && decide (Config.l1Set x.line % Config.l1Sets = Config.l1Set line % Config.l1Sets))
      Config.l1Ways l
  { s with fl := { s.fl with l1 := l } }

/-- A line enters a core's constant cache (R115). -/
def State.fillKonst (s : State) (launch : Word) (core line : Nat) (data : Line) (poison : BitVec 4) : State :=
  let l := s.fl.konst.filter (fun x => !(decide (x.core = core) && decide (x.line = line)))
  let l := keepLast (fun x => decide (x.core = core)) Config.konstLines (l ++ [⟨core, line, launch, data, poison⟩])
  { s with fl := { s.fl with konst := l } }

/-- A remote line enters the L2 of the filling core's die, where it takes the place of an older copy (R302). -/
def State.fillRemote (s : State) (x : L2Copy) : State :=
  let l := s.fl.l2.filter (fun y => !(decide (y.die = x.die) && decide (y.dev = x.dev) && decide (y.line = x.line)))
  let s := { s with fl := { s.fl with l2 := l } }.makeRoom (copySlice x)
  { s with fl := { s.fl with l2 := s.fl.l2 ++ [x] } }

/-- What becomes of the caches when a line comes back: it is installed where it may be (R109, R281, R302). -/
def State.installReq (s : State) (o : MOp) (r : LReq) : State :=
  if r.refused || !r.install then s
  else match r.path, r.target with
    | .home, .home ln => s.fillL1 o.core ln r.data r.poison r.ver r.time r.point
    | .home, .remote d ln =>
      if d = 2047 then s
      else s.fillRemote ⟨dieOf o.core, d, ln, o.crew.team.launch, r.data, r.poison, r.ver, r.point⟩
    | .konst, .home ln => s.fillKonst o.crew.team.launch o.core ln r.data r.poison
    | _, _ => s

/-! ### Loads come back -/

/-- A loaded value, extended to the width of its registers (R123). -/
def loadValue (size : Nat) (sgn : Bool) (raw : Nat) : BitVec 128 :=
  if sgn then ((BitVec.ofNat (8 * size) raw).signExtend 32).setWidth 128 else BitVec.ofNat 128 raw

/-- The slots whose registers an access of a thread fills: in a protected launch its shadow's too. -/
def State.bothSlots (s : State) (o : MOp) (slots : List Nat) : List Nat :=
  if (s.launchOf o.crew.team.launch).any (·.prot) then slots ++ slots.map (· + 16) else slots

/-- An operation is over: its registers are no longer pending. -/
def State.endOp (s : State) (o : MOp) : State := (s.mapCrew o.crew (fun c => c.unmark o.id)).dropOp o.id

/-- Values go to a vector destination, and the operation is over. -/
def State.giveValues (s : State) (o : MOp) (l : List (Nat × BitVec 128)) : State :=
  match o.vdest with
  | some d => (s.writeLate o.core o.crew o.pc d.field d.width l).endOp o
  | none => s.endOp o

/-- The first refused request with its first access (R298). -/
def MOp.refusedAcc (o : MOp) : Option (Option Acc) :=
  match findIx (fun (r : LReq) => r.refused) o.reqs with
  | some i => some ((o.accsOf i).head?)
  | none => none

/-- A refusal reaches the requester as an access violation (R298). -/
def State.refuse (s : State) (o : MOp) (a : Option Acc) : State :=
  s.trapAfter o.core o.crew o.pc { cause := 6, info := (a.map (·.va)).getD 0#64, thread := a.bind (fun a => s.threadAt o a.slot) }

/-- The request of an access, with its index. -/
def MOp.reqOf (o : MOp) (a : Acc) : Option LReq := o.reqs[a.req]?

/-- The first access of a load with a poisoned byte. -/
def MOp.foulLoad (o : MOp) : Option Acc :=
  o.accs.find? (fun a => match o.reqOf a with
    | some r => decide (granulesOf (a.offsets o.kind.bytes) &&& r.poison ≠ 0#4)
    | none => false)

/-- The value an access of a load brings back. -/
def MOp.loaded (o : MOp) (size : Nat) (sgn : Bool) (a : Acc) : BitVec 128 :=
  match o.reqOf a with
  | some r => loadValue size sgn (lineNum r.data (a.va.toNat % 128) size)
  | none => 0#128

/-- A load that has every line: poison is consumed and the destination not written (R60, R124), else the values are
written; ULD compares its two computations in a protected launch (R139, R199). -/
def State.finishLoad (s : State) (o : MOp) (size : Nat) (sgn : Bool) : State :=
  let s := o.reqs.foldl (fun s r => s.installReq o r) s
  match o.foulLoad with
  | some a => s.consume o (lineInfo (((o.reqOf a).map (fun r => r.target.lineNum)).getD 0)) (s.threadAt o a.slot)
  | none =>
    let odd := (s.launchOf o.crew.team.launch).any (·.prot) && (s.crewOf o.crew).any (·.upset)
    match o.udest with
    | none => s.giveValues o (o.accs.map (fun a => (a.slot, o.loaded size sgn a)))
    | some d =>
      match o.accs.map (o.loaded size sgn) with
      | v :: rest =>
        if rest.all (fun w => decide (w = v)) && !odd then
          (s.mapCrew o.crew (fun c =>
            if d.width = 2 then c.putU64 d.field.toNat (v.setWidth 64) else c.putU d.field.toNat (v.setWidth 32))).endOp o
        else (s.trapAfter o.core o.crew o.pc { cause := 9, info := 6#64 }).dropOp o.id
      | [] => s.endOp o

/-- The allocation that an access of a scratchpad instruction names. -/
def MOp.scratchOf (o : MOp) (a : Acc) : Option TeamKey :=
  (o.reqOf a).bind (fun r => match r.target with
    | .scratch k => some k
    | _ => none)

/-- The value of `size` bytes that a scratchpad access reads now. -/
def State.scratchValue (s : State) (o : MOp) (size : Nat) (sgn : Bool) (a : Acc) : BitVec 128 :=
  match (o.scratchOf a).bind s.teamOf with
  | some t => loadValue size sgn (leNum ((List.range size).map (fun i => t.scratchAt (a.va.toNat + i))))
  | none => 0#128

/-- Scratchpad accesses read their words: an uncorrectable one poisons its granule (R106). -/
def State.touchScratch (s : State) (o : MOp) (size : Nat) (l : List Acc) : State :=
  l.foldl (fun s a => match o.scratchOf a with
    | some k => s.mapTeam k (fun t => t.readScratch [(a.va.toNat, size)])
    | none => s) s

/-- A scratchpad access reads a poisoned granule. -/
def State.scratchFoul (s : State) (o : MOp) (a : Acc) : Bool :=
  match (o.scratchOf a).bind s.teamOf with
  | some t => t.foul (a.va.toNat / 32)
  | none => false

/-- The accesses of a scratchpad load that have not been performed alone are performed together: errors found, poison
consumed, values written (R106, R107). -/
def State.finishScLoad (s : State) (o : MOp) (size : Nat) (sgn : Bool) : State :=
  let left := o.accs.filter (fun a => !a.fin)
  let s := s.touchScratch o size left
  match left.find? (s.scratchFoul o) with
  | some a => s.consume o (scInfo (((o.scratchOf a).map (·.pos)).getD 0) (a.va.toNat / 32)) (s.threadAt o a.slot)
  | none => s.giveValues o (o.accs.map (fun a => (a.slot, if a.fin then a.out else s.scratchValue o size sgn a)))

/-- The steps of a transform program arrive for its slot: poison leaves the slot as it was, an illegal program is an
access violation, which is found after issue (R60, R101; DEDUCED: log entry 105). -/
def State.finishXprog (s : State) (o : MOp) (slot : Nat) : State :=
  match o.reqs, o.accs with
  | r :: _, a :: _ =>
    if r.poison &&& o.readsAt 0 ≠ 0#4 then s.consume o (lineInfo r.target.lineNum) none
    else
      let off := a.va.toNat % 128
      let ws := (List.range 16).map (fun k => BitVec.ofNat 32 (lineNum r.data (off + 4 * k) 4))
      if progOk ws then
        (s.mapTeam o.crew.team (fun t => { t with xprog := Cells.set [] t.xprog slot ws })).endOp o
      else (s.trapAfter o.core o.crew o.pc { cause := 6, info := a.va }).dropOp o.id
  | _, _ => s.endOp o

/-- The rows of slots that a region covers whole have fresh check bits (DESIGN CHOICE: log entry 107). -/
def Team.freshRows (t : Team) (g : Word) : Team :=
  { t with accBad := t.accBad.filter (fun r => !(decide (regBase g ≤ 32 * r) && decide (32 * r + 32 ≤ regBase g + regTotal g))) }

/-- An ACCLOAD that has its image: poison is consumed and no cell is written (R238). -/
def State.finishAccload (s : State) (o : MOp) (g : Word) : State :=
  match (o.reqs.zipIdx.find? (fun p => decide (p.1.poison &&& o.readsAt p.2 ≠ 0#4))) with
  | some p => s.consume o (lineInfo p.1.target.lineNum) none
  | none => (s.mapTeam o.crew.team (fun t => (t.loadImage g (o.reqs.map (·.data))).freshRows g)).endOp o

/-- LOAD_RESPONSE: every line of a load, a version read, a prefetch or an atomic that returns its old value has been
performed, and the values are written; a scratchpad load is performed here (R107, R109, R123, R255, R268). -/
def execLoadResponse (op : Nat) (s : State) : Host.Outcome State Fault Refusal :=
  event (fun s =>
    match s.opOf op with
    | none => .error .disabled
    | some o =>
      match o.kind with
      | .scLoad size sgn _ =>
        if o.reqs.zipIdx.any (fun p => s.blocked o p.2 p.1) then .error .disabled else .ok (s.finishScLoad o size sgn)
      | k =>
        if !o.performed then .error .disabled
        else match k, o.refusedAcc with
          | .load size sgn, none => .ok (s.finishLoad o size sgn)
          | .load _ _, some a => .ok ((s.refuse o a).dropOp op)
          | .atomic o' true _, none =>
            let n := (OpKind.atomic o' true false).bytes
            .ok (s.giveValues o (o.accs.flatMap (fun a => (s.bothSlots o [a.slot]).map (fun k =>
              (k, a.out &&& BitVec.ofNat 128 (2 ^ (8 * n) - 1))))))
          | .atomic _ true _, some a => .ok ((s.refuse o a).dropOp op)
          | .atomf _ true, none =>
            let fl := orAll (o.reqs.map (·.flags))
            .ok ((s.mapCrew o.crew (fun c => c.orFlags fl)).giveValues o
              (o.accs.flatMap (fun a => (s.bothSlots o [a.slot]).map (fun k => (k, a.out)))))
          | .atomf _ true, some a => .ok ((s.refuse o a).dropOp op)
          | .vers, none =>
            .ok (s.giveValues o (o.accs.flatMap (fun a => (s.bothSlots o [a.slot]).map (fun k => (k, match o.reqOf a with
              | some r => (r.poison ++ r.ver).setWidth 128
              | none => 0#128)))))
          | .vers, some a => .ok ((s.refuse o a).dropOp op)
          | .pref one, _ => .ok ((if one then o.reqs.foldl (fun s r => s.installReq o r) s else s).dropOp op)
          | .xprog slot, none => .ok (s.finishXprog o slot)
          | .xprog _, some a => .ok ((s.refuse o a).dropOp op)
          | .accload _ g _, _ => .ok (s.finishAccload o g)
          | _, _ => .error .disabled) s

/-! ### Stores are performed -/

/-- The witness that a line request gives an access: a local line by the virtual line that the access names (R243, R246). -/
def LReq.witness (r : LReq) (a : Acc) : DWord :=
  match r.target with
  | .remote d ln => witRemote d ln r.ver
  | _ => witLocal (a.va.toNat / 128) r.ver

/-- Witnesses go to the pairs of slots. -/
def State.giveWitnesses (s : State) (o : MOp) (l : List (Nat × DWord)) : State :=
  match o.vdest with
  | some d => s.writeLate o.core o.crew o.pc d.field 2 (l.map (fun x => (x.1, x.2.setWidth 128)))
  | none => s

/-- A witness goes to the pairs of slots. -/
def State.giveWitness (s : State) (o : MOp) (slots : List Nat) (w : DWord) : State :=
  s.giveWitnesses o (slots.map (fun k => (k, w)))

/-- Line request i is delivered; with the last one the operation is over. -/
def State.delivered (s : State) (op i : Nat) : State :=
  let s := s.setReq op i (fun r => { r with st := .delivered })
  match s.opOf op with
  | some o => if o.reqs.all (fun r => decide (r.st = .delivered)) then s.endOp o else s
  | none => s

/-- A performed line request of a store or command gives its witness, or, refused, raises its violation (R246, R298). -/
def State.deliver (s : State) (o : MOp) (i : Nat) (r : LReq) : Res State :=
  if r.st ≠ .performed then .error .disabled
  else if r.refused then .ok ((s.refuse o (o.accsOf i).head?).delivered o.id i)
  else .ok ((s.giveWitnesses o ((o.accsOf i).flatMap (fun a => (s.bothSlots o [a.slot]).map (fun k =>
    (k, r.witness a))))).delivered o.id i)

/-- A command whose flags precede every destination of its instruction: it waits for every line (R256, R266). -/
def State.deliverFlags (s : State) (o : MOp) (i : Nat) (r : LReq) : Res State :=
  if !o.performed then .error .disabled
  else
    let fl := orAll (o.reqs.map (·.flags))
    (s.mapCrew o.crew (fun c => c.orFlags fl)).deliver o i r

/-- The bytes that a scratchpad store writes in one allocation; of two threads the higher-indexed comes later (R107). -/
def MOp.scratchBytes (o : MOp) (i n : Nat) : List (Nat × Byte) :=
  (o.accsOf i).flatMap (fun a => atOffset a.va.toNat (leBytes n a.data.toNat))

/-- The granules of a scratchpad that a list of bytes covers whole. -/
def wholeScratch (l : List (Nat × Byte)) : List Nat :=
  let offs := l.map (·.1)
  ((offs.map (· / 32)).eraseDups).filter (fun g => (List.range 32).all (fun i => offs.contains (32 * g + i)))

/-- An access covers a scratchpad byte. -/
def Acc.covers (a : Acc) (n off : Nat) : Bool := decide (a.va.toNat ≤ off) && decide (off < a.va.toNat + n)

/-- The bytes of some accesses of a scratchpad store in one allocation that no access performed alone before, of a later
thread, has written (R107). -/
def MOp.leftBytes (o : MOp) (i n : Nat) (p : Acc → Bool) : List (Nat × Byte) :=
  let l := (o.accsOf i).zipIdx
  l.flatMap (fun a => if p a.1 then (atOffset a.1.va.toNat (leBytes n a.1.data.toNat)).filter
      (fun x => !l.any (fun b => b.1.fin && decide (a.2 < b.2) && b.1.covers n x.1)) else [])

/-- A scratchpad store is performed in one allocation: its bytes land, and a granule it writes whole loses its poison
(R106, R107). -/
def State.scStore (s : State) (o : MOp) (i n : Nat) (gang : Bool) (r : LReq) : Res State :=
  match r.target with
  | .scratch k =>
    if r.performed || s.blocked o i r then .error .disabled
    else
      let bytes := o.scratchBytes i n
      let s := s.mapTeam k (fun t => (wholeScratch bytes).foldl (fun t g => t.setFoul g false)
        (t.writeScratch (o.leftBytes i n (fun a => !a.fin))))
      let w := broad (if gang then 1#3 else 0#3)
      .ok ((s.giveWitness o (s.bothSlots o ((o.accsOf i).map (·.slot))) w).delivered o.id i)
  | _ => .error .disabled

/-- The access of one thread of a scratchpad load or store is performed alone, before the step that performs the rest
(R107); one that reads poison is left to that step. -/
def State.singleSlot (s : State) (op slot : Nat) : State :=
  match s.opOf op with
  | some o =>
    let mine (a : Acc) : Bool := (s.bothSlots o [slot]).contains a.slot && !a.fin
    let free (a : Acc) : Bool := match o.reqOf a with
      | some r => !r.performed && !s.blocked o a.req r
      | none => false
    let l := o.accs.filter mine
    if !l.all free then s
    else match o.kind with
    | .scLoad n sgn _ =>
      let s := s.touchScratch o n l
      if l.any (s.scratchFoul o) then s
      else s.mapOp op (fun o => { o with accs := o.accs.map (fun a =>
        if mine a then { a with out := s.scratchValue o n sgn a, fin := true } else a) })
    | .scStore n _ =>
      let s := (List.range o.reqs.length).foldl (fun s i => match o.reqs[i]? with
        | some r => (match r.target with
          | .scratch k => s.mapTeam k (fun t => t.writeScratch (o.leftBytes i n mine))
          | _ => s)
        | none => s) s
      s.mapOp op (fun o => { o with accs := o.accs.map (fun a => if mine a then { a with fin := true } else a) })
    | _ => s
  | none => s

/-- An ACC instruction that has written every line gives its witness to a uniform pair, its flags first (R236, R237). -/
def State.finishAcc (s : State) (o : MOp) : Res State :=
  match o.udest with
  | some d =>
    if o.performed then
      let fl := orAll (o.reqs.map (·.flags))
      .ok ((s.mapCrew o.crew (fun c => (c.orFlags fl).putU64 d.field.toNat (broad 2#3))).endOp o)
    else .error .disabled
  | none => .error .disabled

/-- STORE_PERFORMED: a line of a store or of a memory-side command has been performed and its witness is written; a
scratchpad store is performed here; a FLIP, an ACCDRAIN and an ACCSAVE when all of theirs is done (R80, R123, R246). -/
def execStorePerformed (op line : Nat) (s : State) : Host.Outcome State Fault Refusal :=
  event (fun s =>
    match s.opOf op with
    | none => .error .disabled
    | some o =>
      match o.reqs[line]? with
      | none => .error .disabled
      | some r =>
        match o.kind with
        | .store _ => s.deliver o line r
        | .atomic _ false _ => s.deliver o line r
        | .atomf _ false => s.deliverFlags o line r
        | .msadd _ => s.deliverFlags o line r
        | .cwr => s.deliver o line r
        | .scStore n gang => s.scStore o line n gang r
        | .flip _ inv =>
          if s.fl.invs.any (fun i => decide (i.id = inv)) then .error .disabled
          else .ok ((s.giveWitness o (s.bothSlots o (threadsOf o.mask)) (broad o.scope)).endOp o)
        | .accdrain _ _ _ _ _ _ => s.finishAcc o
        | .accsave _ _ _ => s.finishAcc o
        | _ => .error .disabled) s

/-! ### Retries (R114) -/

/-- The entries held while requests of an operation are rejected go on when none is. -/
def State.freeRetry (s : State) (op : Nat) : State :=
  match s.opOf op with
  | some o =>
    if o.reqs.any LReq.rejected then s
    else s.mapCrew o.crew (fun c => c.endWait op)
  | none => s

/-- The home of a CWR's line would reject request i, as it holds 64 (R114, R267). -/
def State.homeFull (s : State) (o : MOp) (i : Nat) (r : LReq) : Bool :=
  match o.kind, r.target with
  | .cwr, .home line => later (o.expects i) (s.lineMeta line).ver && decide (64 ≤ s.heldAt (homeOf line))
  | _, _ => false

/-- An aged request of the core was marked before a time and still waits.  A CWR that its full home would send back stands in
nobody's way: it would give up a reserved entry and be marked again (R290; DEDUCED: log entry 132). -/
def State.agedBefore (s : State) (core now : Nat) : Bool :=
  s.fl.ops.any (fun o => decide (o.core = core) && o.reqs.zipIdx.any (fun r => r.1.rejected && !s.homeFull o r.2 r.1 &&
    (match r.1.aged with
      | some t => decide (t < now)
      | none => false)))

/-- A request that shares an entry, or finds one that is not reserved free; one that may take a reserved entry (R114). -/
def State.entryFree (s : State) (o : MOp) (r : LReq) : Bool :=
  (o.kind.fetches && (s.fetching o.core).contains r.target) ||
    decide (s.commonUsed o.core < Config.mshrs - Config.mshrReserved)
def State.reservedFree (s : State) (o : MOp) (r : LReq) : Bool :=
  match r.aged with
  | some t => decide (s.reservedUsed o.core < Config.mshrReserved) && !s.agedBefore o.core t
  | none => false

/-- A retry of request i now would be taken, so far as this device can tell. -/
def State.retryTakes (s : State) (o : MOp) (i : Nat) (r : LReq) : Bool :=
  (s.entryFree o r || s.reservedFree o r) && !s.homeFull o i r

/-- REQUEST_RETRY: a rejected request leaves the core if one of the entries that are not reserved is free; an aged one may
take a reserved entry, in the order in which they were marked (R114). -/
def execRequestRetry (op line : Nat) (s : State) : Host.Outcome State Fault Refusal :=
  event (fun s =>
    match s.opOf op with
    | none => .error .disabled
    | some o =>
      match o.reqs[line]? with
      | none => .error .disabled
      | some r =>
        if !r.rejected then .error .disabled
        else
          if s.entryFree o r || s.reservedFree o r then
            .ok ((s.setReq op line (fun x => { x with st := .sent, aged := none, kept := !s.entryFree o r })).freeRetry op)
          else
            let s := s.setReq op line (fun r => r.reject s.serial)
            .ok { s with serial := s.serial + 1 }) s

/-! ### Answers from other devices (R298 to R302) -/

/-- The home of another device holds a CWR's line (R267). -/
def State.farHeld (s : State) (op i : Nat) : State :=
  match s.opOf op with
  | some o => match o.kind, o.reqs[i]? with
    | .cwr, some r => match r.target with
      | .remote _ _ => if r.st = .sent then s.setReq op i (fun r => { r with st := .held }) else s
      | _ => s
    | _, _ => s
  | none => s

/-- What an answer gives a line request. -/
def LReq.answered (r : LReq) (resp : RemoteResp) : LReq :=
  match resp with
  | .refused => { r with st := .performed, refused := true }
  | .line data _ ver poison done flags =>
    { r with st := .performed, data := data, poison := poison, ver := ver, wrote := done, flags := flags }

/-- A remote command used a poisoned granule as an operand: it is consumed by the requester's gang (R60). -/
def MOp.remoteFoul (o : MOp) (i : Nat) (resp : RemoteResp) : Option Acc :=
  match o.kind, resp with
  | .atomic _ _ _, .line _ _ _ p _ _ => o.foulAcc i p
  | .atomf _ _, .line _ _ _ p _ _ => o.foulAcc i p
  | .msadd _, .line _ _ _ p _ _ => o.foulAcc i p
  | _, _ => none

/-- A refusal of line request i strikes when it arrives: the access violation kills the gang, and the line is not performed
(R298). -/
def State.refusedAt (s : State) (o : MOp) (i : Nat) : State := s.refuse o (o.accsOf i).head?

/-- A line that an answer brings to an operation: older answers under way to the die are not installed after it, and its
threads have seen it.  After a write no fill of the line under way to the die is installed, since it may have been taken
before the write (R275, R302; DEDUCED: log entry 128). -/
def State.tookAnswer (s : State) (o : MOp) (i : Nat) (r : LReq) (resp : RemoteResp) : State :=
  let n := s.serial
  let near (p : MOp) (q : LReq) : Bool := decide (p.id ≠ o.id) && decide (dieOf p.core = dieOf o.core) &&
    decide (q.target = r.target) && decide (q.path = .home)
  let s := if o.kind.writes then (s.spoilFills near).spoilCopies r.target
    else if r.install then s.spoilFills (fun p q => near p q && decide (q.st = .performed)) else s
  let s := if o.kind.fetches || o.kind.writes then s.noteSeen o i r.target n else s
  ({ s with serial := n + 1 } : State).setReq o.id i (fun r => { r.answered resp with point := n })

/-- A line of code that another device has sent stays until it is replaced or the launch ends (DESIGN CHOICE: log entry
101). -/
def State.tookCode (s : State) (o : MOp) (d ln : Nat) (resp : RemoteResp) : State :=
  match resp with
  | .refused => (s.refuse o none).dropOp o.id
  | .line data _ _ poison _ _ =>
    let s := s.dropOp o.id
    let same (x : CodeLine) : Bool := decide (x.launch = o.crew.team.launch) && decide (x.dev = d) && decide (x.line = ln)
    let code := s.fl.code.filter (fun x => !same x) ++ [⟨o.crew.team.launch, d, ln, data, poison⟩]
    { s with fl := { s.fl with code := code } }

/-- An answer to a line request of an operation. -/
def State.answerOp (s : State) (o : MOp) (i : Nat) (r : LReq) (resp : RemoteResp) : Res State :=
  match r.target, s.launchOf o.crew.team.launch with
  | .remote d ln, some l =>
    let toHost := decide (d = 2047) && (match o.kind with
      | .store _ => true
      | _ => false)
    let waits := decide (r.st = .sent) || (decide (r.st = .held) && decide (o.kind = .cwr))
    if !waits || toHost || s.blocked o i r then .error .disabled
    else if o.kind = .fetch then .ok (s.tookCode o d ln resp)
    else match o.remoteFoul i resp with
      | some a => .ok (s.consume o (lineInfo ln) (s.threadAt o a.slot))
      | none =>
        match resp with
        | .refused => .ok ((s.refusedAt o i).setReq o.id i (fun r => r.answered resp))
        | .line _ old ver _ _ _ =>
          let s := match o.compute i old ver l.seed with
            | some out => s.mapOp o.id (fun o => o.giveOlds i out.olds)
            | none => s
          .ok (s.tookAnswer o i r resp)
  | _, _ => .error .disabled

/-- An answer to a line of a copy; the L2 may keep a line of a page with RC = 1 that R93 lets it serve (R302). -/
def State.answerCopy (s : State) (cp : Copy) (i : Nat) (ln : CopyLn) (resp : RemoteResp) : Res State :=
  match ln.asked, s.launchOf cp.crew.team.launch with
  | some (.remote d rl), some l =>
    if ln.done then .error .disabled
    else match resp with
      | .refused => .ok (s.copyFails cp { cause := 6, info := BitVec.ofNat 64 (128 * ln.vline) })
      | .line data _ ver poison _ _ =>
        if cp.out ∧ d = 2047 then .error .disabled
        else
          let s := if ln.keep && ln.rc && cp.l2Allowed d rl && decide (d ≠ 2047) then
              s.fillRemote ⟨dieOf cp.core, d, rl, l.id, data, poison, ver, s.serial⟩
            else s
          .ok (({ s with serial := s.serial + 1 } : State).copyLineDone cp i data poison l.seed)
  | _, _ => .error .disabled

/-- REMOTE_RESPONSE: a response arrives for a line of an operation or of a copy; a refusal becomes an access violation
(R298, R299). -/
def execRemoteResponse (op line : Nat) (resp : RemoteResp) (s : State) : Host.Outcome State Fault Refusal :=
  event (fun s =>
    match s.opOf op with
    | some o => match o.reqs[line]? with
      | some r => s.answerOp o line r resp
      | none => .error .disabled
    | none => match s.copyOf op with
      | some cp => match cp.lines[line]? with
        | some ln => s.answerCopy cp line ln resp
        | none => .error .disabled
      | none => .error .disabled) s

/-! ### Fills, scrubs and speculation -/

/-- A line request that is on its way to a line. -/
def State.wanting (s : State) (line : Nat) : Option (MOp × Nat) :=
  s.fl.ops.findSome? (fun o => (findIx (fun (r : LReq) => decide (r.st = .sent) && decide (r.target = .home line)) o.reqs).map
    (fun i => (o, i)))

/-- STACK_FILL: a line that a request is on its way to arrives at its home slice from its stack; granules that the request
does not read are read with cause 3 (R45, R58). -/
def execStackFill (line : Nat) (s : State) : Host.Outcome State Fault Refusal :=
  event (fun s =>
    if !inMain (128 * line) || s.mem.resident.contains line then .error .disabled
    else match s.wanting line with
      | some (o, i) => .ok (s.fillLine line (allGranules &&& ~~~o.readsAt i) o.crew.team.launch)
      | none => .error .disabled) s

/-- PATROL_SCRUB: a home reads and corrects a line in the background, once bring-up has written it (R57, R58, R378). -/
def execPatrolScrub (line : Nat) (s : State) : Host.Outcome State Fault Refusal :=
  event (fun s => if s.dev.power && (4#4).ule s.dev.step && lineExists line then .ok (s.homeTouch line allGranules 2 0#32) else .error .disabled) s

/-- A TLB entry enters a core's TLB and its cluster's (R70), and the launch has read its leaf (R76). -/
def State.fillTlb (s : State) (l : Launch) (core va lg : Nat) (leaf : DWord) : State :=
  let sel := leafSel l leaf
  let here (x : TlbEntry) (loc : Nat) : Bool := decide (x.loc = loc) && x.covers l.id va
  let base := va / 2 ^ lg * 2 ^ lg
  let put (l0 : List TlbEntry) (loc n : Nat) : List TlbEntry :=
    keepLast (fun x => decide (x.loc = loc)) n (l0.filter (fun x => !here x loc) ++ [⟨loc, l.id, base, lg, leaf, sel⟩])
  let s := s.noteLeaf l va lg leaf
  { s with fl := { s.fl with
      tlb := put s.fl.tlb core Config.tlbEntries
      xtlb := put s.fl.xtlb (clusterOf core) Config.xtlbEntries } }

/-- SPECULATIVE_REQUEST: the issue logic asks ahead for a line or a translation; it fills caches and TLBs and does nothing
else (R121, R281). -/
def execSpeculativeRequest (crew : Nat) (va : BitVec 64) (path : SpecPath) (s : State) :
    Host.Outcome State Fault Refusal :=
  event (fun s =>
    match s.crews[crew]? with
    | none => .error .disabled
    | some c =>
      match s.teamOf c.key.team, s.launchOf c.key.team.launch with
      | some t, some l =>
        let v := va.toNat
        if c.stopped || decide (2 ^ 56 ≤ v) || inWindow v then .error .disabled
        else match path with
          | .tlb =>
            let r := s.walk l v
            let (s, foul) := s.readEntries l.id r.2
            match foul, r.1 with
            | none, .leaf e lv => .ok (s.fillTlb l t.core v (pageLg lv) e)
            | _, _ => .ok s
          | p =>
            match s.resolve t.core l va .load Need.load false none with
            | .ok (.main pa) =>
              let ln := pa / 128
              if s.writeAhead t.core (.home ln) || decide (Config.mshrs - Config.mshrReserved ≤ s.commonUsed t.core) then
                .error .disabled
              else
                let s := ((s.takeCycle ln).homeTouch ln allGranules 3 l.id).reside ln
                let m := s.lineMeta ln
                if m.poison ≠ 0#4 then .ok s
                else match p with
                  | .l1 =>
                    let s := s.outrun t.core ln s.serial
                    .ok (({ s with serial := s.serial + 1 } : State).fillL1 t.core ln (s.lineAt ln) m.poison m.ver s.dev.bclk s.serial)
                  | .constant => .ok (s.fillKonst l.id t.core ln (s.lineAt ln) m.poison)
                  | _ => .ok s
            | _ => .error .disabled
      | _, _ => .error .disabled) s

/-! ### Walks and page faults (R70 to R75) -/

/-- Code of an access in a page-fault notice (R73). -/
def accessCode : Access → Byte
  | .load => 0#8
  | .store => 1#8
  | .memside => 2#8
  | .fetch => 3#8
  | .copyRead => 4#8
  | .copyWrite => 5#8
  | .flip => 6#8

/-- Posts the page-fault notice of a page (R73). -/
def State.postFault (s : State) (f : Fault72) : State :=
  s.post 1 (noticeHead 2 f.launch ++ leBytes 8 (f.page * 65536) ++
    [BitVec.ofNat 8 f.ticket, accessCode f.access, BitVec.ofNat 8 f.level, 0#8] ++ leBytes 2 f.core ++ leBytes 2 f.lcore)

/-- The lowest free fault ticket, if one is (R72). -/
def State.freeTicket (s : State) : Option Nat :=
  ((List.range 255).map (· + 1)).find? (fun t => !s.fl.faults.any (fun f => decide (f.ticket = t)))

/-- A page faults: it joins its page's fault, or takes the lowest free ticket with a notice, or waits for one (R72). -/
def State.pageFault (s : State) (launch : Word) (m : Miss) (level lcore : Nat) : State :=
  let page := m.va / 65536
  if s.fl.faults.any (fun f => decide (f.launch = launch) && decide (f.page = page)) then s
  else
    let queued := s.fl.faults.any (fun f => decide (f.ticket = 0))
    let f : Fault72 := ⟨launch, page, if queued then 0 else s.freeTicket.getD 0, m.access, level, m.core, lcore⟩
    let s := { s with fl := { s.fl with faults := s.fl.faults ++ [f] } }
    if f.ticket = 0 then s else s.postFault f

/-- The hold of a walk's waiter becomes h. -/
def State.setHold (s : State) (who : Waiter) (h : Hold) : State :=
  match who with
  | .crew k t _ => s.mapCrew k (fun c => (c.mapEntry t (fun e => if e.hold = .walk then { e with hold := h } else e)).settled)
  | .copy id => s.mapCopy id (fun c => { c with hold := h })

/-- A walk's waiter still waits for it. -/
def State.waits (s : State) (who : Waiter) : Bool :=
  match who with
  | .crew k t _ => match (s.crewOf k).bind (fun c => c.entryOf t) with
    | some e => decide (e.hold = .walk)
    | none => false
  | .copy id => match s.copyOf id with
    | some c => decide (c.hold = .walk)
    | none => false

/-- A trap of a walk strikes a miss: poison kills its gang; a malformed entry is an access violation of the group at
issue, or of the copy (R60, R67, R92). -/
def State.walkTrap (s : State) (m : Miss) (t : Trap) : State :=
  match m.who with
  | .crew k th pc =>
    let s := s.setHold m.who .free
    let g : Group := ⟨th, pc, pc, Hints.empty⟩
    match s.crewIx k with
    | some n => s.trapCrew n g { t with thread := m.thread }
    | none => s
  | .copy id => match s.copyOf id with
    | some c => s.copyFails c t
    | none => s

/-- The logical core on which a walk's waiter runs. -/
def State.lcoreOf (s : State) (who : Waiter) : Nat :=
  let k : Option TeamKey := match who with
    | .crew k _ _ => some k.team
    | .copy id => (s.copyOf id).map (fun c => c.crew.team)
  ((k.bind s.teamOf).map (·.lcore)).getD 0

/-- A walk is among the 64 oldest of its die: a walker has taken it, and the others wait in arrival order (R70). -/
def State.walking (s : State) (w : Walk) : Bool :=
  ((s.fl.walks.filter (fun x => decide (x.die = w.die))).take Config.walkers).any (fun x => decide (x.id = w.id))

/-- What a walk's end means for the misses that wait for it: the TLBs are filled and they go on, or the page faults, or the
entry is malformed, or poison is consumed (R60, R67, R70 to R72). -/
def State.endWalk (s : State) (l : Launch) (page : Nat) (ms : List Miss) (foul : Option Nat) (e : WalkEnd) : State :=
  ms.foldl (fun s m => match foul, e with
    | some ln, _ => s.walkTrap m { cause := 8, info := lineInfo ln }
    | none, .leaf e lv => (s.fillTlb l m.core (page * 65536) (pageLg lv) e).setHold m.who .free
    | none, .invalid lv => (s.pageFault l.id m lv (s.lcoreOf m.who)).setHold m.who (.page l.id page)
    | none, .malformed _ => s.walkTrap m { cause := 6, info := if m.access = .fetch then 0#64 else BitVec.ofNat 64 m.va }) s

/-- TABLE_WALK: a walk that a walker has taken reads its entries at their homes and ends for every miss merged into it (R64,
R67, R70 to R73). -/
def execTableWalk (walk : Nat) (s : State) : Host.Outcome State Fault Refusal :=
  event (fun s =>
    match s.fl.walks.find? (fun w => decide (w.id = walk)) with
    | none => .error .disabled
    | some w =>
      if !s.walking w then .error .disabled
      else
        let s := { s with fl := { s.fl with walks := s.fl.walks.filter (fun x => !decide (x.id = walk)) } }
        let ms := w.misses.filter (fun m => s.waits m.who)
        match s.launchOf w.launch with
        | none => .ok s
        | some l =>
          if ms.isEmpty then .ok s
          else
            let r := s.walk l (w.page * 65536)
            let (s, foul) := s.readEntries l.id r.2
            .ok (s.endWalk l w.page ms foul r.1)) s

/-- Something is parked on a page. -/
def State.parkedOn (s : State) (f : Fault72) : Bool :=
  let h := Hold.page f.launch f.page
  s.crews.any (fun c => c.entries.any (fun e => decide (e.hold = h))) || s.fl.copies.any (fun c => decide (c.hold = h))

/-- Pages on which nothing is parked any more free their tickets. -/
def State.sweepFaults (s : State) : State :=
  { s with fl := { s.fl with faults := s.fl.faults.filter s.parkedOn } }

/-- Releases a ticket: everything parked on its page replays from the walk (R74). -/
def State.releaseTicket (s : State) (ticket : Nat) : State :=
  match s.fl.faults.find? (fun f => decide (f.ticket = ticket) && decide (ticket ≠ 0)) with
  | none => s
  | some f =>
    let h := Hold.page f.launch f.page
    let es (l : List Entry) : List Entry := settle (l.map (fun e => if e.hold = h then { e with hold := .free } else e))
    { s with
      crews := s.crews.map (fun c => if c.entries.any (fun e => decide (e.hold = h)) then { c with entries := es c.entries } else c)
      fl := { s.fl with
        faults := s.fl.faults.filter (fun x => !decide (x = f))
        copies := s.fl.copies.map (fun c => if c.hold = h then { c with hold := .free } else c) } }

/-- TICKET_ASSIGN: the first page that waits without a ticket receives the lowest freed one, and its notice is posted
(R72). -/
def execTicketAssign (s : State) : Host.Outcome State Fault Refusal :=
  event (fun s =>
    match s.fl.faults.find? (fun f => decide (f.ticket = 0)), s.freeTicket with
    | some f, some t =>
      let g := { f with ticket := t }
      let s := { s with fl := { s.fl with faults := s.fl.faults.map (fun x => if x = f then g else x) } }
      .ok (s.postFault g)
    | _, _ => .error .disabled) s

end Sys2Proof.Machine
end

