-- ==== Sys2Proof/Machine/Tasks.lean ====
section
/-!
DEFINITION. Task queues (R345 to R348), leases and dispatch (R349 to R352), the role governor (R353), and the TASK
instructions (R354 to R357).
-/

namespace Sys2Proof.Machine

/-! ### Queues (R345) -/

/-- Slots of a queue's ring. -/
def Queue.slots (q : Queue) : Nat := 2 ^ q.lg
/-- Every slot holds an entry that is not finished. -/
def Queue.full (q : Queue) : Bool := decide ((q.tail - q.head).toNat = q.slots)
/-- The physical address of an entry's slot. -/
def Queue.at (q : Queue) (i : Word) : Nat := q.ring + 32 * (i.toNat % q.slots)
/-- Occupancy: entries filled and not yet dispatched, and those returned.  In a bound queue, which is dispatched out of
order, `next` counts the entries dispatched, so that tail - next is still the number of those never dispatched. -/
def Queue.occupancy (q : Queue) : Nat := (q.tail - q.next).toNat + q.returned.length

/-- head passes every finished entry below which all are finished. -/
def Queue.advanceHead : Nat → Queue → Queue
  | 0, q => q
  | fuel + 1, q =>
    if q.finished.contains q.head then
      { q with finished := q.finished.filter (fun i => !decide (i = q.head)), head := q.head + 1#32 }.advanceHead fuel
    else q
/-- An entry is finished. -/
def Queue.finish (q : Queue) (i : Word) : Queue :=
  { q with finished := q.finished ++ [i] }.advanceHead (q.finished.length + 1)

/-- The queue a launch declares under a number; queue 7 belongs to none (R338, R346). -/
def State.declared (s : State) (launch : Word) (n : Nat) : Option Queue :=
  s.queues.find? (fun q => decide (q.num = n) && decide (q.launch = launch) && decide (n ≠ 7))

/-- An entry's slot receives 32 bytes, as one write at its home, and tail advances; the bound MSI-X message is sent, and a
page-mapped entry releases its ticket (R74, R311, R345, R356). -/
def State.append (s : State) (q : Queue) (bytes : List Byte) (launch : Word) : State :=
  let s := s.writeRange (q.at q.tail) (pad32 bytes) launch
  let s := s.mapQueue q.num (fun x => { x with tail := x.tail + 1#32 })
  let bind := Cells.get 0#32 s.dev.msix q.num
  let s := if bind.getLsbD 7 then
      { s with dev := { s.dev with out := s.dev.out ++ [.msix (bind.setWidth 6)] } }
    else s
  if q.num = 2 ∧ bytes[0]? = some 3#8 then s.releaseTicket ((bytes[8]?).getD 0#8).toNat else s

/-! ### Which entries a crew may receive (R350, R352) -/

/-- The logical team index (R337). -/
def Team.index (t : Team) : Nat := 8 * t.lcore + t.teamid

/-- The crews of a bound type on a logical core, in TEAMID then CREWID order, as gang, position and CREWID. -/
def Launch.bound (l : Launch) (ty lcore : Nat) : List (Nat × Nat × Nat) :=
  (l.places.filter (fun p => decide (p.lcore = lcore) && decide (p.type = ty))).flatMap (fun p =>
    (List.range (((l.types[ty]?).map (·.crews)).getD 0)).map (fun c => (p.gang, p.pos, c)))

/-- Entry i of a queue bound to a type goes to the crew. -/
def Launch.goesTo (l : Launch) (ty : Nat) (k : CrewKey) (i : Nat) : Bool :=
  let cs := l.bound ty (i % 256)
  match cs[i / 256 % cs.length]? with
  | some x => decide (x = (k.team.gang, k.team.pos, k.crew))
  | none => false

/-- The filled entries of a bound queue that are neither leased nor finished, in ascending order. -/
def State.openEntries (s : State) (q : Queue) : List Word :=
  let leased (i : Word) : Bool := s.teams.any (fun t => decide (t.key.launch = q.launch) && t.leases.contains ⟨q.num, i⟩)
  ((List.range (q.tail - q.head).toNat).map (fun k => q.head + BitVec.ofNat 32 k)).filter (fun i =>
    !q.finished.contains i && !leased i)

/-- The entry that a queue would dispatch to a crew: its next one in a bound queue, else the lowest returned index, else
next (R350, R352). -/
def State.offer (s : State) (l : Launch) (k : CrewKey) (q : Queue) : Option Word :=
  match q.bound with
  | some ty => (s.openEntries q).find? (fun i => l.goesTo ty k i.toNat)
  | none =>
    let low := q.returned.foldl (fun (m : Option Word) i => match m with
      | none => some i
      | some j => some (if (i - q.head).ult (j - q.head) then i else j)) none
    match low with
    | some i => some i
    | none => if q.next = q.tail then none else some q.next

/-- The role a team's next dispatch is chosen with: the governor's mark, if there is one (R353). -/
def Team.nextRole (t : Team) : BitVec 4 := t.mark.getD t.role

/-- The queues a selector names for a team. -/
def State.named (s : State) (l : Launch) (t : Team) (sel : Word) : List Queue :=
  s.queues.filter (fun q => decide (q.launch = l.id) && decide (q.num ≠ 7) &&
    (if sel.getLsbD 9 then decide (q.role = t.nextRole) else decide (q.num = (sel.extractLsb' 0 9).toNat)))

/-- The queue and entry that would be dispatched to a crew of a team (R349, R350). -/
def State.chosen (s : State) (l : Launch) (t : Team) (k : CrewKey) (sel : Word) : Option (Queue × Word) :=
  if 64 ≤ t.leases.length then none
  else
    let qs := (s.named l t sel).filterMap (fun q => (s.offer l k q).map (fun i => (q, i)))
    let top := qs.foldl (fun m p => max m p.1.prio) 0
    let rp := Cells.get 0 s.dev.rp top
    let dist (n : Nat) : Nat := (n + 512 - rp) % 512
    (qs.filter (fun p => decide (p.1.prio = top))).foldl (fun m p => match m with
      | none => some p
      | some b => if dist p.1.num < dist b.1.num then some p else some b) none

/-- A queue whose entry i has been dispatched. -/
def Queue.took (q : Queue) (i : Word) : Queue :=
  if q.returned.contains i then { q with returned := q.returned.filter (fun j => !decide (j = i)) }
  else { q with next := q.next + 1#32 }

/-- Dispatch commits: the entry is read at its home, its words go to s0 to s7 and the lease to the pair, the lease is
recorded, the governor's mark takes effect and the rotating pointer moves; a poisoned entry is consumed (R349, R350, R353). -/
def State.commit (s : State) (l : Launch) (t : Team) (k : CrewKey) (pc : Word) (d : BitVec 6) (q : Queue) (i : Word) :
    State :=
  let a := q.at i
  let ln := a / 128
  let gr := granulesOf [a % 128]
  let s := s.homeRead ln gr l.id
  let words := (List.range 8).map (fun n => s.wordAt (a + 4 * n))
  let s := s.mapQueue q.num (fun q => q.took i)
  let s := if l.det then s
    else { s with dev := { s.dev with rp := Cells.set 0 s.dev.rp q.prio ((q.num + 1) % 512) } }
  let s := s.mapTeam t.key (fun t => { t with leases := t.leases ++ [⟨q.num, i⟩], role := t.nextRole, mark := none })
  let s := s.mapCrew k (fun c =>
    ((words.zipIdx.foldl (fun c p => c.putU p.2 p.1) c).putU d.toNat i).putU (d.toNat + 1)
      (0x80000000#32 ||| BitVec.ofNat 32 q.num))
  if (s.lineMeta ln).poison &&& gr ≠ 0#4 then s.trapAfter t.core k pc { cause := 8, info := lineInfo ln } else s

/-! ### POP and POP.TRY (R355) -/

/-- The checks of a selector. -/
def Ctx.selector (c : Ctx) (s : State) (sel : Word) (try_ : Bool) : Res Unit := do
  let byRole := sel.getLsbD 9
  let n := (sel.extractLsb' 0 9).toNat
  ensure (decide (sel.extractLsb' 10 22 = 0#22) && (!byRole || decide (n = 0))) invalid
  ensure (!(c.launch.det && (byRole || try_))) nondet
  if byRole then .ok ()
  else match s.declared c.launch.id n with
    | none => violation
    | some q =>
      ensure (decide (8 ≤ n) || c.launch.priv) violation
      ensure (!c.launch.det || q.bound.isSome) violation
      ensure (match q.bound with
        | some ty => decide (ty = c.team.type)
        | none => true) violation

/-- What a POP will write: s0 to s7 and the lease pair. -/
def popRegs (d : BitVec 6) : List PReg := (List.range 8).map (fun k => .u k) ++ [.u d.toNat, .u (d.toNat + 1)]

/-- The operation of a POP that waits on after its crew has come back to a core. -/
def popOp (c : Crew) (core : Nat) (p : PopWait) : MOp where
  id := p.op
  crew := c.key
  core := core
  kind := .pop
  mask := p.mask
  vdest := none
  udest := some ⟨p.dest.setWidth 7, 2⟩
  rm := 0#3
  scope := 0#3
  pc := p.pc
  since := 0
  accs := []
  reqs := []

/-- POP: s0 to s7 and the lease pair are pending until a dispatch commits. -/
def execPop (d a : BitVec 6) (s : State) : Host.Outcome State Fault Refusal :=
  issue (.pop d a) (fun c s => do
    let sel := c.crew.u a.toNat
    c.selector s sel false
    let id := s.serial
    let s := s.addOp (c.plainOp id .pop (some ⟨d.setWidth 7, 2⟩))
    .ok (c.go s (fun cr => { (cr.mark id (popRegs d)) with
      pop := some ⟨id, d, sel, id, s.dev.bclk, c.grp.first, c.ent.mask, c.next, false⟩ }))) s

/-- POP.TRY: a dispatch at issue, or a lease pair that says there was none. -/
def execPopTry (d a : BitVec 6) (s : State) : Host.Outcome State Fault Refusal :=
  issue (.popTry d a) (fun c s => do
    let sel := c.crew.u a.toNat
    c.selector s sel true
    match s.chosen c.launch c.team c.crew.key sel with
    | some (q, i) => .ok ((c.go s id).commit c.launch c.team c.crew.key c.grp.first d q i)
    | none => .ok (c.go s (fun cr => (cr.putU d.toNat 0#32).putU (d.toNat + 1) 0#32))) s

/-- A crew's POP waits and may be served now: its team is on its core and not stopped, though the crew itself may have ended
(DESIGN CHOICE: log entry 124). -/
def State.popReady (s : State) (c : Crew) : Option (PopWait × Team × Launch) :=
  match c.pop, s.teamOf c.key.team, s.launchOf c.key.team.launch with
  | some p, some t, some l => if c.stopped || decide (t.st ≠ .running) then none else some (p, t, l)
  | _, _, _ => none

/-- One waiting POP is served before another (R350): the one that began to wait earlier, and of those that began in one clk
the one of the lower logical team index, then of the lower CREWID.  DEDUCED (log entry 103): a clk common to all cores is a
cycle of the base-die clock. -/
def popBefore (p : PopWait) (t : Team) (k : CrewKey) (q : PopWait) (u : Team) (j : CrewKey) : Bool :=
  decide (p.clk < q.clk) || (decide (p.clk = q.clk) && (decide (t.index < u.index) ||
    (decide (t.index = u.index) && decide (k.crew < j.crew))))

/-- A POP that comes before it outside a deterministic launch can be served (R350). -/
def State.popAhead (s : State) (q : PopWait) (u : Team) (j : CrewKey) : Bool :=
  s.crews.any (fun c => match s.popReady c with
    | some (p, t, l) => popBefore p t c.key q u j && !l.det && (s.chosen l t c.key p.sel).isSome
    | none => false)

/-- DISPATCH: a queue's entry and a lease go to the waiting POP of the crew at a position (R349). -/
def execDispatch (crew : Nat) (s : State) : Host.Outcome State Fault Refusal :=
  event (fun s =>
    match s.crews[crew]? with
    | none => .error .disabled
    | some c => match s.popReady c with
      | none => .error .disabled
      | some (p, t, l) =>
        if !l.det && s.popAhead p t c.key then .error .disabled
        else match s.chosen l t c.key p.sel with
          | none => .error .disabled
          | some (q, i) =>
            let s := s.setCrew crew { c.unmark p.op with pop := none }
            .ok ((s.dropOp p.op).commit l t c.key p.pc p.dest q i)) s

/-! ### PUSH, FIN, QSTAT, QCTL (R356, R357) -/

/-- Bytes of words, little-endian. -/
def wordBytes (ws : List Word) : List Byte := ws.flatMap (fun w => leBytes 4 w.toNat)

/-- PUSH: the message, the tail and the status pair are written in the step that issues it (R346, R356; DESIGN CHOICE:
log entry 140). -/
def execPush (d a : BitVec 6) (s : State) : Host.Outcome State Fault Refusal :=
  issue (.push d a) (fun c s => do
    let r (k : Nat) : Word := c.crew.u (a.toNat + k)
    ensure (decide ((r 8).extractLsb' 9 23 = 0#23) && decide (r 9 = 0#32)) invalid
    ensure (witOk (c.crew.u64 (a.toNat + 10))) badWitness
    let n := ((r 8).extractLsb' 0 9).toNat
    ensure (decide (8 ≤ n) || (c.launch.priv && (decide (n = 2) || decide (n = 7)))) violation
    let give (s : State) (x y : Word) : State := c.go s (fun cr => (cr.putU d.toNat x).putU (d.toNat + 1) y)
    match (if n = 7 then s.queueOf 7 else s.declared c.launch.id n) with
    | none => violation
    | some q =>
      if q.full then .ok (give s 1#32 q.tail)
      else .ok ((give s 0#32 q.tail).append q (wordBytes ((List.range 8).map r)) c.launch.id)) s

/-- FIN. -/
def execFin (a : BitVec 6) (s : State) : Host.Outcome State Fault Refusal :=
  issue (.fin a) (fun c s => do
    let i := c.crew.u a.toNat
    let w := c.crew.u (a.toNat + 1)
    let x : Lease := ⟨(w.extractLsb' 0 9).toNat, i⟩
    ensure (w.getLsbD 31 && c.team.leases.contains x) violation
    let s := s.mapTeam c.team.key (fun t => { t with leases := t.leases.erase x })
    .ok (c.go (s.mapQueue x.queue (fun q => q.finish i)) id)) s

/-- QSTAT. -/
def execQstat (d a : BitVec 6) (s : State) : Host.Outcome State Fault Refusal :=
  issue (.qstat d a) (fun c s => do
    let n := ((c.crew.u a.toNat).extractLsb' 0 9).toNat
    ensure (decide (8 ≤ n) || c.launch.priv) violation
    match (if n = 7 then s.queueOf 7 else s.declared c.launch.id n) with
    | none => violation
    | some q =>
      .ok (c.go s (fun cr => (cr.putU d.toNat (BitVec.ofNat 32 q.occupancy)).putU (d.toNat + 1) q.head))) s

/-- QCTL. -/
def execQctl (a b : BitVec 6) (s : State) : Host.Outcome State Fault Refusal :=
  issue (.qctl a b) (fun c s => do
    let n := ((c.crew.u a.toNat).extractLsb' 0 9).toNat
    let v := c.crew.u (a.toNat + 1)
    let low := (v.extractLsb' 0 16).toNat
    let high := (v.extractLsb' 16 16).toNat
    ensure (if b = 0#6 then v.ult 8#32 else if b = 1#6 then v.ult 16#32 else if b = 3#6 then v.ult 2#32 else true) invalid
    ensure (!(c.launch.det && decide (b = 1#6))) nondet
    ensure (decide (8 ≤ n) || (c.launch.priv && decide (n ≤ 6))) violation
    match s.declared c.launch.id n with
    | none => violation
    | some q =>
      ensure (decide (b ≠ 2#6) || (decide (low < high) && decide (high ≤ q.slots))) violation
      .ok (c.go (s.mapQueue n (fun q =>
        if b = 0#6 then { q with prio := v.toNat }
        else if b = 1#6 then { q with role := v.setWidth 4 }
        else if b = 2#6 then { q with low := low, high := high }
        else { q with governed := v.getLsbD 0 })) id)) s

/-! ### The role governor (R353) -/

/-- A queue may take part in a reassignment: governed, and in none for 4,500 clk. -/
def State.governable (s : State) (q : Queue) : Bool :=
  q.governed && (match q.govAt with
    | some t => decide (t + 4500 ≤ s.dev.bclk)
    | none => true)

/-- The team the governor would mark from role b for role a: the lowest logical team index, of those that are not marked
(DEDUCED: log entry 123). -/
def State.movable (s : State) (l : Launch) (a b : BitVec 4) : Option Team :=
  (s.teams.filter (fun t => decide (t.key.launch = l.id) && decide (t.st ≠ .ended) && decide (t.role = b) &&
    t.mark.isNone && (match l.types[t.type]? with
      | some ty => ty.rmask.getLsbD a.toNat
      | none => false))).foldl (fun m t => match m with
        | none => some t
        | some x => if t.index < x.index then some t else some x) none

/-- ROLE_GOVERNOR: a team of a launch is marked for the role of a queue above its high threshold, from that of a queue
below its low one; of several pairs the lowest A, then the lowest B. -/
def execRoleGovernor (launch : BitVec 32) (s : State) : Host.Outcome State Fault Refusal :=
  event (fun s =>
    match s.launchOf launch with
    | none => .error .disabled
    | some l =>
      if !l.gov || l.det then .error .disabled
      else
        let qs := sortBy (fun x y => decide (x.num < y.num))
          (s.queues.filter (fun q => decide (q.launch = launch) && decide (q.num ≠ 7) && s.governable q))
        let pairs := (qs.filter (fun q => decide (q.high < q.occupancy))).flatMap (fun x =>
          (qs.filter (fun q => decide (q.occupancy < q.low) && decide (q.role ≠ x.role))).map (fun y => (x, y)))
        match pairs.findSome? (fun p => (s.movable l p.1.role p.2.role).map (fun t => (p.1, p.2, t))) with
        | none => .error .disabled
        | some (x, y, t) =>
          let s := s.mapTeam t.key (fun t => { t with mark := some x.role })
          let now := s.dev.bclk
          .ok ((s.mapQueue x.num (fun q => { q with govAt := some now })).mapQueue y.num (fun q =>
            { q with govAt := some now }))) s

/-! ### Notices (R347) -/

/-- NOTICE_APPEND: the oldest notice held for a privileged queue is appended as a slot is free, with the count of those
lost before it. -/
def execNoticeAppend (q : Nat) (s : State) : Host.Outcome State Fault Refusal :=
  event (fun s =>
    match s.dev.held.find? (fun h => decide (h.1 = q)), s.queueOf q with
    | some h, some x =>
      if x.full || decide (7 ≤ q) then .error .disabled
      else
        let lost := Cells.get 0 s.dev.lost q
        let bytes := h.2.take 2 ++ leBytes 2 lost ++ h.2.drop 4
        let dev := { s.dev with held := s.dev.held.erase h, lost := Cells.set 0 s.dev.lost q 0 }
        .ok ({ s with dev := dev }.append x bytes 0#32)
    | _, _ => .error .disabled) s

end Sys2Proof.Machine
end

