-- ==== Sys2Proof/Machine/Teams.lean ====
section
/-!
DEFINITION. The state in which teams and crews are created at the start of a launch and at a relaunch (R127, R218, R314,
R340, R363).
-/

namespace Sys2Proof.Machine

/-- The value of a tile or region word; 0xFFFFFFFF leaves it undefined (R336). -/
def definedWord (w : Word) : Option Word := if w = 0xFFFFFFFF#32 then none else some w

/-- Cells of a list of optional values by position. -/
def cellsOf {β : Type} (l : List (Option β)) : Cells (Option β) :=
  l.zipIdx.filterMap (fun p => match p.1 with
    | some v => some (p.2, some v)
    | none => none)

/-- A crew at team start: every register zero but s8 to s15, one frontier entry with all its threads (R127, R314, R340). -/
def TeamType.crew (ty : TeamType) (l : Launch) (key : CrewKey) (resvBase : Word) : Crew where
  key := key
  quota := ty.quota
  vregs := []
  vbad := []
  uregs := Cells.setAll 0#32 [] (l.args.zipIdx.map (fun p => (8 + p.2, p.1)))
  preds := []
  entries := [{
    pc := ty.pc
    prio := ty.prio
    age := 0
    raised := none
    blocked := false
    hold := .free
    waits := []
    mask := if l.prot then 0xFFFF#32 else 0xFFFFFFFF#32
    yield := 0
    parkWait := none
    mwait := none
    popWait := none }]
  links := []
  ended := 0#32
  smask := 0#32
  sarr := 0#32
  rm := 0#3
  flags := 0#5
  mnext := 0#6
  cpyctr := 0#32
  resvBase := resvBase
  resvCount := ty.resv
  running := 0#32
  evec := 0#32
  epc := 0#32
  eprio := 0#32
  ecause := 0#32
  einfo := 0#64
  tlblaunch := 0#32
  ordk := []
  srctr := []
  batch := []
  sealedB := []
  pend := []
  group := none
  raises := 0
  wait := .free
  pop := none
  quotaW := none
  started := false
  stopped := false
  upset := false

/-- A team at its start: scratchpad and accumulator cells zero, tiles and regions as its type defines them, points
uninitialised (R105, R127, R218, R328, R340). -/
def TeamType.team (ty : TeamType) (typeIx : Nat) (key : TeamKey) (lcore teamid core : Nat) : Team where
  key := key
  lcore := lcore
  teamid := teamid
  type := typeIx
  core := core
  st := .running
  role := ty.role
  mark := none
  spu := ty.spu
  accu := ty.accu
  scratch := []
  scPoison := []
  scBad := []
  acc := []
  accSt := []
  accBad := []
  tiles := cellsOf (ty.tiles.map (fun w => (definedWord w).map (fun d => ({ desc := d, st := .empty, owner := 0 } : Tile))))
  regions := cellsOf (ty.accs.map definedWord)
  points := []
  bmask := 0#32
  barr := 0#32
  garr := 0#32
  gphase := 0#32
  xprog := []
  leases := []
  parkKeep := []
  slice := none

/-- A gang that starts. -/
def Gang.start (launch : Word) (num : Nat) : Gang where
  launch := launch
  num := num
  count := 0
  st := .running
  kill := none
  again := false
  forever := false
  todo := []

end Sys2Proof.Machine
end

