-- ==== Sys2Proof/Machine/Launch.lean ====
section
/-!
DEFINITION. Launches: the request and its record (R333 to R339), the start (R340 to R343), and the end (R358, R359).
-/

namespace Sys2Proof.Machine

/-! ### Fields of the record (R335 to R338) -/

/-- n bytes from an address are zero. -/
def State.zeroAt (s : State) (a n : Nat) : Bool := decide (s.numAt a n = 0)

/-- A team-type entry. -/
def State.typeAt (s : State) (a : Nat) : TeamType where
  pc := s.wordAt a
  prio := BitVec.ofNat 6 (s.numAt (a + 4) 1)
  crews := s.numAt (a + 5) 1
  quota := s.numAt (a + 6) 1
  spu := s.numAt (a + 7) 1
  accu := s.numAt (a + 8) 1
  role := BitVec.ofNat 4 (s.numAt (a + 9) 1)
  rmask := BitVec.ofNat 16 (s.numAt (a + 10) 2)
  resv := s.wordAt (a + 12)
  tiles := (List.range 32).map (fun i => s.wordAt (a + 0x40 + 4 * i))
  accs := (List.range 16).map (fun i => s.wordAt (a + 0xC0 + 4 * i))

/-- A team-type entry breaks no value stated in R336. -/
def State.typeOk (s : State) (a : Nat) : Bool :=
  let n (o k : Nat) : Nat := s.numAt (a + o) k
  decide (n 0 4 % 4 = 0) && decide (n 4 1 ≤ 63) && decide (1 ≤ n 5 1) && decide (n 5 1 ≤ 32) && decide (1 ≤ n 6 1) &&
    decide (n 6 1 ≤ 12) && decide (n 7 1 ≤ 62) && decide (n 8 1 ≤ 16) && decide (n 9 1 ≤ 15) &&
    Nat.testBit (n 10 2) (n 9 1) && s.zeroAt (a + 0x10) 48

/-- A placement entry. -/
def State.placeAt (s : State) (a : Nat) : Place :=
  ⟨s.numAt a 1, s.numAt (a + 1) 1, s.numAt (a + 2) 2, s.numAt (a + 4) 1⟩
def State.placeOk (s : State) (ntt a : Nat) : Bool :=
  decide (s.numAt (a + 1) 1 < ntt) && decide (s.numAt (a + 4) 1 ≤ 7) && s.zeroAt (a + 5) 3

/-- A queue declaration; the launch's number is set at its start. -/
def State.queueAt (s : State) (a : Nat) : Queue where
  num := s.numAt a 2
  launch := 0#32
  lg := s.numAt (a + 2) 1
  prio := s.numAt (a + 3) 1
  role := BitVec.ofNat 4 (s.numAt (a + 4) 1)
  hostVis := Nat.testBit (s.numAt (a + 5) 1) 0
  governed := Nat.testBit (s.numAt (a + 5) 1) 1
  bound := if Nat.testBit (s.numAt (a + 5) 1) 2 then some (s.numAt (a + 6) 1) else none
  ring := s.numAt (a + 8) 8
  low := s.numAt (a + 0x10) 4
  high := s.numAt (a + 0x14) 4
  tail := 0#32
  head := 0#32
  next := 0#32
  returned := []
  finished := []
  govAt := none

/-- A queue declaration breaks no value stated in R338, and its ring lies in main memory. -/
def State.queueOk (s : State) (priv : Bool) (ntt a : Nat) : Bool :=
  let q := s.queueAt a
  (decide (8 ≤ q.num ∧ q.num ≤ 511) || (priv && decide (q.num ≤ 6))) && decide (4 ≤ q.lg ∧ q.lg ≤ 20) &&
    decide (q.prio ≤ 7) && decide (s.numAt (a + 4) 1 ≤ 15) && decide (s.numAt (a + 5) 1 < 8) &&
    (match q.bound with
      | some t => decide (t < ntt)
      | none => true) &&
    s.zeroAt (a + 7) 1 && decide (q.lg ≤ 20 ∧ q.ring % (32 * 2 ^ q.lg) = 0 ∧ q.ring + 32 * 2 ^ q.lg ≤ Config.mainBytes) &&
    decide (q.low < q.high) && decide (q.lg ≤ 20 ∧ q.high ≤ 2 ^ q.lg) && s.zeroAt (a + 0x18) 8

/-- A dual-version range. -/
def State.dvAt (s : State) (a : Nat) : DvRange :=
  let n := s.numAt (a + 8) 8
  ⟨s.numAt a 8, n / 2 * 2, decide (n % 2 = 1)⟩

/-- A vault grant. -/
def State.grantAt (s : State) (a : Nat) : Grant := ⟨s.numAt a 1, s.numAt (a + 2) 1, s.numAt (a + 3) 1⟩
def State.grantOk (s : State) (a : Nat) : Bool :=
  let g := s.grantAt a
  decide (g.vault ≤ 127) && s.zeroAt (a + 1) 1 && decide (g.unit ≤ 191) && decide (1 ≤ g.count) &&
    decide (g.unit + g.count ≤ 192) && s.zeroAt (a + 4) 4

/-- A heat descriptor (R259). -/
def State.heatAt (s : State) (a : Nat) : Heat where
  ext := s.numAt a 8
  len := s.numAt (a + 8) 8
  op := s.numAt (a + 16) 1
  rm := BitVec.ofNat 3 (s.numAt (a + 17) 1)
  np := s.numAt (a + 20) 4
  spill := s.numAt (a + 24) 8
  spillb := s.numAt (a + 32) 8
  spillPa := []
  count := 0
  closed := []
  failed := false
  merged := false
  flags := 0#5

/-- A heat descriptor breaks no stated value, and its areas are virtual addresses (R63, R259). -/
def State.heatOk (s : State) (a : Nat) : Bool :=
  let h := s.heatAt a
  decide (h.op ≤ 4) && decide (s.numAt (a + 17) 1 ≤ 4) && s.zeroAt (a + 18) 2 && decide (h.np ≤ 65535) &&
    s.zeroAt (a + 40) 8 && decide (h.ext % 128 = 0) && decide (1 ≤ h.len) && decide (h.len ≤ 2 ^ 40) &&
    decide (h.len % heatSize h.op = 0) && decide (h.spill % 128 = 0) && decide (h.spillb % 32 = 0) &&
    decide (96 ≤ h.spillb) && decide (h.ext + h.len ≤ 2 ^ 56) &&
    decide (h.spill + h.spillb ≤ 2 ^ 56)

/-! ### The header and the tables -/

/-- The tables of a record at r: offset, bytes and alignment, in the order types, placement, queues, dual-version ranges,
ordered regions, grants. -/
def State.tables (s : State) (r : Nat) : List (Nat × Nat × Nat) :=
  let n (o k : Nat) : Nat := s.numAt (r + o) k
  [(n 0x60 4, 256 * n 0x2A 1, 64), (n 0x64 4, 8 * n 0x3A 2, 8), (n 0x68 4, 32 * n 0x2B 1, 32),
    (n 0x6C 4, 16 * n 0x2C 1, 16), (n 0x70 4, 48 * n 0x2D 1, 8), (n 0x74 4, 8 * n 0x2E 1, 8)]

/-- The addresses of the entries of table k. -/
def State.entriesOf (s : State) (r k : Nat) : List Nat :=
  match (s.tables r)[k]? with
  | some t =>
    let size := ([256, 8, 32, 16, 48, 8][k]?).getD 8
    (List.range (t.2.1 / size)).map (fun i => r + t.1 + size * i)
  | none => []

/-- Two byte ranges, as offset and length, share a byte. -/
def meet (a b : Nat × Nat) : Bool := decide (a.1 < b.1 + b.2) && decide (b.1 < a.1 + a.2)

/-- Every pair of a list, in order, satisfies p. -/
def allPairs {α : Type} (p : α → α → Bool) : List α → Bool
  | [] => true
  | x :: r => r.all (p x) && allPairs p r

/-- The header breaks no value stated in R335. -/
def State.headerOk (s : State) (r : Nat) : Bool :=
  let n (o k : Nat) : Nat := s.numAt (r + o) k
  decide (n 0 8 % 4 = 0) && decide (n 0x10 8 % 65536 = 0) && decide (n 0x20 4 < 32) && decide (n 0x28 2 ≤ 255) &&
    decide (1 ≤ n 0x2A 1) && decide (n 0x2A 1 ≤ 8) && decide (n 0x2B 1 ≤ 64) && decide (n 0x2C 1 ≤ 64) &&
    decide (n 0x2D 1 ≤ 16) && decide (n 0x2E 1 ≤ 128) && s.zeroAt (r + 0x2F) 1 && decide (8 ≤ n 0x38 2) &&
    decide (n 0x38 2 ≤ 511) && decide (1 ≤ n 0x3A 2) && decide (n 0x3A 2 ≤ 2048) && s.zeroAt (r + 0x3C) 4 &&
    decide (n 0x78 4 % 4 = 0) && decide (n 0x78 4 ≤ 2 ^ 26) && s.zeroAt (r + 0x7C) 132

/-- The tables lie where R339 lets them, and so does the level-0 table. -/
def State.tablesOk (s : State) (r : Nat) : Bool :=
  let ts := s.tables r
  let used := (ts.filter (fun t => decide (t.2.1 ≠ 0))).map (fun t => (t.1, t.2.1))
  ts.all (fun t => decide (t.1 % t.2.2 = 0)) &&
    used.all (fun t => decide (t.1 + t.2 ≤ 2 ^ 20) && decide (r + t.1 + t.2 ≤ Config.mainBytes)) &&
    allPairs (fun a b => !meet a b) ((0, 256) :: used) &&
    decide (s.numAt (r + 0x10) 8 + 65536 ≤ Config.mainBytes)

/-- What the record at r says; the launch's number, its placement and its heats' translations come at its start. -/
def State.launchAt (s : State) (r : Nat) : Launch where
  id := 0#32
  codebase := s.numAt r 8
  database := s.numAt (r + 8) 8
  codelen := s.numAt (r + 0x78) 4
  pt0 := s.numAt (r + 0x10) 8
  seed := BitVec.ofNat 64 (s.numAt (r + 0x18) 8)
  det := Nat.testBit (s.numAt (r + 0x20) 4) 0
  prot := Nat.testBit (s.numAt (r + 0x20) 4) 1
  priv := Nat.testBit (s.numAt (r + 0x20) 4) 2
  gov := Nat.testBit (s.numAt (r + 0x20) 4) 3
  vzero := Nat.testBit (s.numAt (r + 0x20) 4) 4
  tag := s.wordAt (r + 0x24)
  retry := s.numAt (r + 0x28) 2
  rings := BitVec.ofNat 64 (s.numAt (r + 0x30) 8)
  cq := s.numAt (r + 0x38) 2
  args := (List.range 8).map (fun i => s.wordAt (r + 0x40 + 4 * i))
  types := (s.entriesOf r 0).map s.typeAt
  places := (s.entriesOf r 1).map s.placeAt
  grants := (s.entriesOf r 5).map s.grantAt
  dvs := (s.entriesOf r 3).map s.dvAt
  heats := (s.entriesOf r 4).map s.heatAt
  clusters := []
  sliced := []
  relaunches := 0
  endStatus := none
  start := 0

/-! ### The checks of R339 -/

/-- What the teams of a logical core, or several, need of a core: teams, crews, granules, scratchpad and accumulator
units. -/
structure Load where
  teams : Nat
  crews : Nat
  gran  : Nat
  spu   : Nat
  accu  : Nat
  deriving DecidableEq, Repr

/-- The need of teams of types. -/
def needOf (ts : List TeamType) : Load :=
  let sum (f : TeamType → Nat) : Nat := ts.foldl (fun n t => n + f t) 0
  ⟨ts.length, sum (·.crews), sum (fun t => t.crews * t.quota), sum (·.spu), sum (·.accu)⟩
/-- The per-core limits. -/
def Load.fits (l : Load) : Bool :=
  decide (l.teams ≤ 8) && decide (l.crews ≤ 32) && decide (l.gran ≤ 256) && decide (l.spu ≤ 62) && decide (l.accu ≤ 16)

/-- The types of the teams on a logical core. -/
def Launch.typesOn (l : Launch) (lcore : Nat) : List TeamType :=
  (l.places.filter (fun p => decide (p.lcore = lcore))).filterMap (fun p => l.types[p.type]?)
/-- The logical cores that hold teams, ascending. -/
def Launch.lcores (l : Launch) : List Nat := (List.range 256).filter (fun c => l.places.any (fun p => decide (p.lcore = c)))

/-- Two placement entries keep R337. -/
def gangPair (a b : Place) : Bool :=
  decide (a.gang ≠ b.gang) || (decide (a.lcore ≠ b.lcore) && decide (a.lcore / 8 = b.lcore / 8) && decide (a.pos ≠ b.pos))

/-- The tile and region definitions of a type keep R85 and R220. -/
def TeamType.defsOk (t : TeamType) : Bool :=
  let tiles := t.tiles.filterMap definedWord
  tiles.all (tileLegal (4096 * t.spu) []) && allPairs (fun a b => tileLegal (4096 * t.spu) [b] a) tiles &&
    (t.accs.filterMap definedWord).all (regLegal t.accu)

/-- The dual-version ranges keep R78. -/
def rangesOk (ds : List DvRange) : Bool :=
  ds.all (fun d => decide (d.base % 65536 = 0) && decide (d.len % 65536 = 0) && decide (d.len ≠ 0) &&
    decide (d.base + d.len ≤ Config.windowBase)) &&
  allPairs (fun a b => !meet (a.base, a.len) (b.base, b.len)) ds

/-- The pages of a virtual range, each reached through a local, writable leaf, as address, size and leaf; nothing where a
page is not.  The walk's entries are read at their homes, and a poisoned one counts as unmapped (R259).  Of the vault window
the range may meet what the launch is granted (R52; DEDUCED: log entry 104). -/
def State.spanPages (s : State) (l : Launch) : Nat → Nat → Nat → State × Option (List (Nat × Nat × DWord))
  | 0, _, _ => (s, some [])
  | fuel + 1, va, hi =>
    if hi ≤ va then (s, some [])
    else if inWindow va then
      if granted l (va - Config.windowBase) then s.spanPages l fuel ((va / 65536 + 1) * 65536) hi else (s, none)
    else
      let r := s.walk l va
      let (s, foul) := s.readEntries l.id r.2
      match foul, r.1 with
      | none, .leaf e lv =>
        if leafW e && !leafREM e then
          let lg := pageLg lv
          let (s, rest) := s.spanPages l fuel ((va / 2 ^ lg + 1) * 2 ^ lg) hi
          (s, rest.map (fun x => (va / 2 ^ lg * 2 ^ lg, lg, e) :: x))
        else (s, none)
      | _, _ => (s, none)

/-- The physical address of each 64 KiB unit that a range from va to hi meets. -/
def unitsOf (l : Launch) (ps : List (Nat × Nat × DWord)) (va hi : Nat) : List Nat :=
  (List.range ((hi + 65535) / 65536 - va / 65536)).map (fun i =>
    let u := (va / 65536 + i) * 65536
    if inWindow u then Config.vaultBase + (u - Config.windowBase)
    else match ps.find? (fun p => decide (p.1 ≤ u) && decide (u < p.1 + 2 ^ p.2.1)) with
    | some p => (leafAddr p.2.2 p.2.1 u (leafSel l p.2.2)).byte
    | none => 0)

/-- Translates a heat's extent and spill area over their whole length; nothing where a page is unwritable, remote or
unmapped. -/
def State.mapHeatArea (s : State) (l : Launch) (h : Heat) : State × Option Heat :=
  let (s, e) := s.spanPages l (h.len / 65536 + 2) h.ext (h.ext + h.len)
  let (s, sp) := s.spanPages l (h.spillb / 65536 + 2) h.spill (h.spill + h.spillb)
  match e, sp with
  | some _, some ps => (s, some { h with spillPa := unitsOf l ps h.spill (h.spill + h.spillb) })
  | _, _ => (s, none)

/-- Translates every heat of a launch. -/
def State.mapHeats (s : State) (l : Launch) : List Heat → State × Option (List Heat)
  | [] => (s, some [])
  | h :: r =>
    match s.mapHeatArea l h with
    | (s, some h) =>
      let (s, rest) := s.mapHeats l r
      (s, rest.map (fun x => h :: x))
    | (s, none) => (s, none)

/-- A queue number is held by a running launch, or is declared twice. -/
def State.queuesTaken (s : State) (qs : List Queue) : Bool :=
  !allPairs (fun a b => decide (a.num ≠ b.num)) qs || qs.any (fun q => s.queues.any (fun x => decide (x.num = q.num)))

/-- Every logical core with teams has a team of each bound queue's type. -/
def Launch.boundOk (l : Launch) (qs : List Queue) : Bool :=
  qs.all (fun q => match q.bound with
    | some t => l.lcores.all (fun c => l.places.any (fun p => decide (p.lcore = c) && decide (p.type = t)))
    | none => true)

/-- The completion queue is declared here or already host-visible (R335). -/
def State.cqOk (s : State) (l : Launch) (qs : List Queue) : Bool :=
  qs.any (fun q => decide (q.num = l.cq)) || s.queues.any (fun q => decide (q.num = l.cq) && q.hostVis)

/-- The reasons for which the launch of a record whose header and tables can be read is refused (R339); `foul` says that
a granule read was poisoned. -/
def State.reasons (s : State) (r : Nat) (foul : Bool) : State × List Nat :=
  let l := s.launchAt r
  let qs := (s.entriesOf r 2).map s.queueAt
  let ntt := l.types.length
  let fields := (s.entriesOf r 0).all s.typeOk && (s.entriesOf r 1).all (s.placeOk ntt) &&
    (s.entriesOf r 2).all (s.queueOk l.priv ntt) && (s.entriesOf r 5).all s.grantOk && s.cqOk l qs
  let room := l.lcores.all (fun c => (needOf (l.typesOn c)).fits) && allPairs gangPair l.places
  let heatsOk := (s.entriesOf r 4).all s.heatOk
  let (s2, mapped) := if rangesOk l.dvs && heatsOk then s.mapHeats l l.heats else (s, none)
  let why (bad : Bool) (n : Nat) : List Nat := if bad then [n] else []
  (s2, why (!fields) 1 ++ why (!room) 2 ++ why (!l.types.all TeamType.defsOk) 3 ++ why mapped.isNone 4 ++
    why (s.queuesTaken qs || s.launches.any (fun x => decide (x.rings &&& l.rings ≠ 0#64))) 5 ++
    why (!l.boundOk qs) 6 ++ why (l.priv && s.launches.any (·.priv)) 7 ++ why foul 8)

/-! ### The request (R334) -/

/-- The body of a completion entry (R359). -/
def completion (launch tag : Word) (status reason odisc relaunches left : Nat) : List Byte :=
  pad32 (noticeHead 9 launch ++ leBytes 4 tag.toNat ++ leBytes 1 status ++ leBytes 1 reason ++ leBytes 2 odisc ++
    leBytes 4 relaunches ++ leBytes 4 left)

/-- A refusal: the completion entry is written over the request's slot as one write, and the slot is finished (R359). -/
def State.refuseLaunch (s : State) (q : Queue) (i tag : Word) (reason : Nat) : State :=
  ((s.writeRange (q.at i) (completion 0#32 tag 1 reason 0 0 0) 0#32).mapQueue 7 (fun q => q.finish i))

/-- The control core may act: bring-up is over and did not fail. -/
def Device.ready (d : Device) : Bool := d.power && decide (d.step = 6#4) && decide (d.fail = 0#4)

/-- Reads the tables of a record at their homes; whether one holds a poisoned granule. -/
def State.readTables (s : State) (r : Nat) : State × Bool :=
  (s.tables r).foldl (fun acc t =>
    if t.2.1 = 0 then acc
    else
      let (s, _, bad) := acc.1.readRange (r + t.1) t.2.1 0#32
      (s, acc.2 || bad)) (s, false)

/-- LAUNCH_REQUEST: the request at the head of queue 7 is read and its record checked; it is refused, or it waits to be
placed (R333, R334, R339). -/
def execLaunchRequest (s : State) : Host.Outcome State Fault Refusal :=
  event (fun s =>
    match s.queueOf 7 with
    | none => .error .disabled
    | some q =>
      if !s.dev.ready || s.request.isSome || decide (q.next = q.tail) then .error .disabled
      else
        let i := q.next
        let s := s.mapQueue 7 (fun q => { q with next := q.next + 1#32 })
        let (s, e, foul) := s.readRange (q.at i) 32 0#32
        let r := leNum ((e.drop 8).take 8)
        if foul || decide (e[0]? ≠ some 8#8) then .ok (s.refuseLaunch q i 0#32 8)
        else if Config.mainBytes < r + 256 then .ok (s.refuseLaunch q i 0#32 1)
        else
          let (s, _, foul) := s.readRange r 256 0#32
          let tag := if foul then 0#32 else s.wordAt (r + 0x24)
          if !(decide (r % 4096 = 0) && s.headerOk r && s.tablesOk r) then .ok (s.refuseLaunch q i tag 1)
          else
            let (s, bad) := s.readTables r
            let (s, why) := s.reasons r (foul || bad)
            match why with
            | n :: _ => .ok (s.refuseLaunch q i tag n)
            | [] => .ok { s with request := some ⟨i, s.launchAt r, (s.entriesOf r 2).map s.queueAt⟩ }) s

/-! ### Placement (R342, R343) -/

/-- The enabled cores of a physical cluster, ascending. -/
def State.coresOf (s : State) (cl : Nat) : List Nat := ((List.range 8).map (8 * cl + ·)).filter s.dev.coreOn
/-- The logical cores of a logical cluster that hold teams, ascending. -/
def Launch.lcoresIn (l : Launch) (c : Nat) : List Nat := l.lcores.filter (fun x => decide (x / 8 = c))
/-- The logical clusters that hold teams, ascending. -/
def Launch.lclusters (l : Launch) : List Nat := (List.range 32).filter (fun c => l.lcores.any (fun x => decide (x / 8 = c)))

/-- The logical clusters that the running launches hold on a physical cluster, as launch and logical cluster. -/
def State.held (s : State) (cl : Nat) : List (Launch × Nat) :=
  s.launches.flatMap (fun l => (l.clusters.filter (fun p => decide (p.2 = cl))).map (fun p => (l, p.1)))

/-- The first physical cluster from c upward that takes a logical cluster with n cores; `used` counts the logical
clusters already on each. -/
def State.findCluster (s : State) (used : Nat → Nat) (c n : Nat) : Option Nat :=
  ((List.range 32).map (fun k => (c + k) % 32)).find? (fun p =>
    decide (n ≤ (s.coresOf p).length) && decide (used p < 2))

/-- The placement of a launch's logical clusters, one at a time in ascending order. -/
def State.placement (s : State) (l : Launch) : Option (List (Nat × Nat)) :=
  l.lclusters.foldl (fun acc c => acc.bind (fun ps =>
    (s.findCluster (fun p => (s.held p).length + (ps.filter (fun x => decide (x.2 = p))).length) c
      (l.lcoresIn c).length).map (fun p => ps ++ [(c, p)]))) (some [])

/-- The core of a logical core placed on a physical cluster: its rank among the logical cores with teams. -/
def State.coreFor (s : State) (l : Launch) (lcore cl : Nat) : Nat :=
  ((s.coresOf cl)[((l.lcoresIn (lcore / 8)).filter (fun x => decide (x < lcore))).length]?).getD 0

/-- Two logical clusters can run together: the k-th logical cores of both fit one core. -/
def together (a : Launch) (ca : Nat) (b : Launch) (cb : Nat) : Bool :=
  (List.range 8).all (fun k =>
    let on (l : Launch) (c : Nat) : List TeamType := match (l.lcoresIn c)[k]? with
      | some x => l.typesOn x
      | none => []
    (needOf (on a ca ++ on b cb)).fits)

/-- The logical clusters of a placement that start time-sliced out: each that comes second to its physical cluster and
cannot run together with the first. -/
def State.slicedOut (s : State) (l : Launch) (ps : List (Nat × Nat)) : List Nat :=
  (ps.filter (fun x =>
    let before := (ps.takeWhile (fun y => !decide (y = x))).filter (fun y => decide (y.2 = x.2))
    let others := (s.held x.2) ++ before.map (fun y => (l, y.1))
    others.any (fun o => !together o.1 o.2 l x.1))).map (·.1)

/-! ### The start (R340) -/

/-- The placement entries of a launch with their TEAMIDs, in logical team index order (R337). -/
def Launch.ordered (l : Launch) : List (Nat × Place) :=
  sortBy (fun a b => decide (8 * a.2.lcore + a.1 < 8 * b.2.lcore + b.1))
    (l.places.zipIdx.map (fun p =>
      (((l.places.take p.2).filter (fun x => decide (x.lcore = p.1.lcore))).length, p.1)))

/-- The reservation base of each crew: its team's place in logical team index order, its CREWID, and the prefix sum of
the counts (R258). -/
def Launch.bases (l : Launch) : List (CrewKey × Word) :=
  (l.ordered.foldl (fun (acc : Word × List (CrewKey × Word)) p =>
    match l.types[p.2.type]? with
    | some ty => (List.range ty.crews).foldl (fun acc c =>
        (acc.1 + ty.resv, acc.2 ++ [(⟨⟨l.id, p.2.gang, p.2.pos⟩, c⟩, acc.1)])) acc
    | none => acc) (0#32, [])).2

/-- The teams and crews of the placement entries that satisfy p, created afresh (R127, R218, R340); a team of a logical
cluster that is time-sliced out waits. -/
def State.create (s : State) (l : Launch) (p : Place → Bool) : List Team × List Crew :=
  let bases := l.bases
  let ps := l.ordered.filter (fun x => p x.2)
  let made := ps.filterMap (fun x => (l.types[x.2.type]?).map (fun ty => (x.1, x.2, ty)))
  let cl (c : Nat) : Nat := ((l.clusters.find? (fun y => decide (y.1 = c))).map (·.2)).getD 0
  let key (x : Place) : TeamKey := ⟨l.id, x.gang, x.pos⟩
  (made.map (fun x => { x.2.2.team x.2.1.type (key x.2.1) x.2.1.lcore x.1 (s.coreFor l x.2.1.lcore (cl (x.2.1.lcore / 8))) with
      st := if l.sliced.contains (x.2.1.lcore / 8) then .sliced else .running }),
    made.flatMap (fun x => (List.range x.2.2.crews).map (fun c =>
      let k : CrewKey := ⟨key x.2.1, c⟩
      x.2.2.crew l k (((bases.find? (fun b => decide (b.1 = k))).map (·.2)).getD 0#32))))

/-- The 64 KiB units that a launch is granted, as vault and unit, each once though grants overlap. -/
def Launch.grantedUnits (l : Launch) : List (Nat × Nat) :=
  (l.grants.flatMap (fun g => (List.range g.count).map (fun i => (g.vault, g.unit + i)))).eraseDups

/-- Zeroes the granted vault lines, one write each (R55). -/
def State.zeroGrants (s : State) (l : Launch) : State :=
  l.grantedUnits.foldl (fun s u =>
    (List.range 512).foldl (fun s i =>
      s.homeWrite ((Config.vaultBase + u.1 * Config.vaultSlot + u.2 * 65536) / 128 + i)
        ((List.range 128).map (fun k => (k, 0#8))) 0#4 l.id) s) s

/-- Opens the heats: the first 64 bytes of each spill area are written, count 0, as one write (R262). -/
def State.openHeats (s : State) (l : Launch) : State :=
  l.heats.foldl (fun s h =>
    s.homeWrite (h.spillAt 0 / 128) ((List.range 64).map (fun k => (h.spillAt 0 % 128 + k, 0#8))) 0#4 l.id) s

/-- The empty absmax rings of a grant mask (R160). -/
def emptyRings (rings : Cells (List (Word × DWord))) (m : DWord) : Cells (List (Word × DWord)) :=
  Cells.keep (fun i => !m.getLsbD i) rings

/-- RSLV.STAT's counters 1, 2, 3 and 5 of some cores count from zero: the cores are placed in a launch (R186). -/
def Device.zeroCounts (d : Device) (cores : List Nat) : Device :=
  { d with counts := Cells.keep (fun k => !cores.contains (k / 8)) d.counts }

/-- The launch begins: rings, heats, queues, teams and crews (R340); the counters of its cores start from zero (R186). -/
def State.begin (s : State) (l : Launch) (qs : List Queue) : State :=
  let s := if l.vzero then s.zeroGrants l else s
  let s := { s with dev := { s.dev with rings := emptyRings s.dev.rings l.rings } }
  let s := s.openHeats l
  let l := { l with start := s.mem.history.length }
  let (ts, cs) := s.create l (fun _ => true)
  { s with
    dev := s.dev.zeroCounts (ts.map (·.core))
    launches := s.launches ++ [l]
    gangs := s.gangs ++ ((l.places.map (·.gang)).eraseDups.map (Gang.start l.id))
    teams := s.teams ++ ts
    crews := s.crews ++ cs
    queues := s.queues ++ qs.map (fun q => { q with launch := l.id }) }

/-- The next LAUNCHID; 0 is never assigned (R340). -/
def nextId (id : Word) : Word := if id = 0#32 then 1#32 else id

/-- LAUNCH_START: the request at the head of queue 7 fits beside the running launches and starts (R334, R340, R343); a
heat whose pages no longer serve refuses it (R259, R339). -/
def execLaunchStart (s : State) : Host.Outcome State Fault Refusal :=
  event (fun s =>
    match s.request, s.queueOf 7 with
    | some r, some q =>
      match s.placement r.launch with
      | none => .error .disabled
      | some ps =>
        let id := nextId s.dev.nextLid
        let l := { r.launch with id := id }
        let s := { s with request := none }
        match s.mapHeats l l.heats with
        | (s, none) => .ok (s.refuseLaunch q r.index r.launch.tag 4)
        | (s, some hs) =>
          let l := { l with heats := hs, clusters := ps, sliced := s.slicedOut l ps }
          let s := { s with dev := { s.dev with nextLid := id + 1#32 } }
          .ok ((s.begin l r.queues).mapQueue 7 (fun q => q.finish r.index))
    | _, _ => .error .disabled) s

/-! ### The end (R358, R359) -/

/-- An operation that the end of its launch waits for: neither a close that is counted, whose heat may never merge, nor a prefetch, an
arrival, a PREEMPT or a POP, none of which performs anything outside the core. -/
def OpKind.holdsEnd : OpKind → Bool
  | .ordClose _ _ counted => !counted
  | .pref _ => false
  | .rvarr _ => false
  | .preempt => false
  | .pop => false
  | _ => true

/-- Every team has ended and no relaunch is pending, and everything the launch issued has been performed (R358). -/
def State.launchOver (s : State) (l : Launch) : Bool :=
  (s.gangs.filter (fun g => decide (g.launch = l.id))).all (fun g => decide (g.st = .ended) && g.kill.isNone &&
    g.todo.isEmpty) &&
    !s.fl.ops.any (fun o => decide (o.crew.team.launch = l.id) && o.kind.holdsEnd) &&
    !s.fl.copies.any (fun c => decide (c.crew.team.launch = l.id))

/-- The operations of other launches keep what they are; those of a launch are gone, and so are its translations, its
copies of remote lines, and the constant lines of its cores and those it has filled on any other (R115, R302). -/
def Flight.without (f : Flight) (id : Word) (cores : List Nat) : Flight where
  l1 := f.l1
  konst := f.konst.filter (fun x => !cores.contains x.core && !decide (x.launch = id))
  l2 := f.l2.filter (fun x => !decide (x.launch = id))
  tlb := f.tlb.filter (fun x => !decide (x.launch = id))
  xtlb := f.xtlb.filter (fun x => !decide (x.launch = id))
  walks := f.walks.filter (fun x => !decide (x.launch = id))
  leaves := f.leaves.filter (fun x => !decide (x.launch = id))
  code := f.code.filter (fun x => !decide (x.launch = id))
  seen := f.seen.filter (fun x => !decide (x.crew.team.launch = id))
  faults := f.faults.filter (fun x => !decide (x.launch = id))
  ops := f.ops.filter (fun x => !decide (x.crew.team.launch = id))
  copies := f.copies.filter (fun x => !decide (x.crew.team.launch = id))
  cmds := f.cmds.filter (fun x => !decide (x.crew.team.launch = id))
  fasts := f.fasts.filter (fun x => !decide (x.crew.team.launch = id))
  parks := f.parks.filter (fun x => !decide (x.crew.team.launch = id))
  invs := f.invs
  far := f.far
  fabTags := f.fabTags

/-- Everything of a launch is released; ring contents stay in memory (R358). -/
def State.release (s : State) (id : Word) : State :=
  let cores := (s.teams.filter (fun t => decide (t.key.launch = id))).map (·.core)
  { s with
    fl := s.fl.without id cores
    mem := { s.mem with
      updates := s.mem.updates.filter (fun u => !decide (u.launch = id))
      accNum := s.mem.accNum.filter (fun e => !decide (e.1 / 4096 = id.toNat)) }
    launches := s.launches.filter (fun l => !decide (l.id = id))
    gangs := s.gangs.filter (fun g => !decide (g.launch = id))
    teams := s.teams.filter (fun t => !decide (t.key.launch = id))
    crews := s.crews.filter (fun c => !decide (c.key.team.launch = id))
    queues := s.queues.filter (fun q => !(decide (q.launch = id) && decide (q.num ≠ 7))) }

/-- The bits of the heats that have not merged. -/
def Launch.discarded (l : Launch) : Nat :=
  l.heats.zipIdx.foldl (fun n p => if p.1.merged then n else n + 2 ^ p.2) 0

/-- The entries of a launch's queues that were never finished. -/
def State.unfinished (s : State) (id : Word) : Nat :=
  (s.queues.filter (fun q => decide (q.launch = id) && decide (q.num ≠ 7))).foldl
    (fun n q => n + ((q.tail - q.head).toNat - q.finished.length)) 0

/-- A notice is held for a queue of a launch that has a free slot: it is appended before the launch ends (R347, R362). -/
def State.noticeDue (s : State) (id : Word) : Bool :=
  s.dev.held.any (fun h => s.queues.any (fun q =>
    decide (q.num = h.1) && decide (q.launch = id) && decide (q.num < 7) && !q.full))

/-- LAUNCH_END: the completion entry goes to the completion queue, and the launch's heats, cores, queues, rings and grants
are released (R358, R359).  It waits while the completion queue is full; DESIGN CHOICE (log entry 108): where that queue is
another launch's and is gone, there is no completion entry. -/
def execLaunchEnd (launch : BitVec 32) (s : State) : Host.Outcome State Fault Refusal :=
  event (fun s =>
    match s.launchOf launch with
    | none => .error .disabled
    | some l =>
      if !s.launchOver l || s.noticeDue launch then .error .disabled
      else
        let status := match l.endStatus with
          | some x => x.toNat
          | none => 0
        let bytes := completion launch l.tag status 0 l.discarded l.relaunches (s.unfinished launch)
        match s.queueOf l.cq with
        | some q => if q.full then .error .disabled else .ok ((s.append q bytes launch).release launch)
        | none => .ok (s.release launch)) s

end Sys2Proof.Machine
end

