-- ==== Sys2Proof/Machine/System.lean ====
section
/-!
DEFINITION. The system instructions of major 0x00 (R367 to R377) other than TRAP and ERET, the special registers (R368,
R369), TLBINV (R76) and the monitor registers (R381, R382).
-/

namespace Sys2Proof.Machine

/-! ### Reading special registers -/

/-- Bit i of ENCORES(k): core 32k + i is enabled by its fuses (R379, R381), before the fuse read of R378 and after its failure
as well (DESIGN CHOICE: log entry 125). -/
def Device.encores (d : Device) (k : Nat) : Word :=
  maskOf ((List.range 32).filter (fun i => d.fuseOn (32 * k + i)))

/-- A monitor register (R381, R382). -/
def Device.monitor (d : Device) (n : Nat) : Word :=
  if n = 448 then (d.fail ++ d.step).setWidth 32
  else if 450 ≤ n ∧ n ≤ 457 then d.encores (n - 450)
  else Cells.get 0#32 d.monitors n

/-- A privileged special register (R368). -/
def srPriv (n : Nat) : Bool := decide (32 ≤ n)

/-- The value RDSR reads (R368, R369). -/
def srRead (c : Ctx) (s : State) (n : Nat) : DWord :=
  let cr := c.crew
  let w (x : Word) : DWord := x.setWidth 64
  match n with
  | 0 => w (s.dev.laneMap c.team.core)
  | 1 => BitVec.ofNat 64 (popCount (s.dev.laneMap c.team.core))
  | 2 => BitVec.ofNat 64 c.team.core
  | 3 => BitVec.ofNat 64 (clusterOf c.team.core)
  | 4 => BitVec.ofNat 64 c.team.lcore
  | 5 => BitVec.ofNat 64 (c.threads.headD 0)
  | 6 => BitVec.ofNat 64 cr.key.crew
  | 7 => BitVec.ofNat 64 c.team.teamid
  | 8 => BitVec.ofNat 64 (cr.key.team.pos * 65536 + cr.key.team.gang)
  | 9 => w c.launch.id
  | 10 => (BitVec.ofBool c.launch.priv ++ BitVec.ofBool c.launch.prot ++ BitVec.ofBool c.launch.det).setWidth 64
  | 11 => c.team.role.setWidth 64
  | 12 => w cr.resvBase
  | 16 => cr.rm.setWidth 64
  | 17 => cr.flags.setWidth 64
  | 18 => cr.mnext.setWidth 64
  | 19 => BitVec.ofNat 64 (Cells.get 0 s.dev.clk (clusterOf c.team.core) - Cells.get 0 s.dev.resetAt c.team.core)
  | 32 => w cr.evec
  | 33 => w cr.epc
  | 34 => w cr.eprio
  | 35 => w cr.ecause
  | 36 => cr.einfo
  | 49 => w cr.tlblaunch
  | _ => w (s.dev.monitor n)

/-- RDSR: writes the register to s(d), or to the pair of a 64-bit one; FLAGS waits for earlier results (R369, R156, R176). -/
def execRdsr (d n : BitVec 6) (m : BitVec 3) (s : State) : Host.Outcome State Fault Refusal :=
  issue (.rdsr d n m) (fun c s => do
    let k := (m ++ n).toNat
    ensure (srReadable (m ++ n)) invalid
    ensure (!srPriv k || c.launch.priv) violation
    if k = 17 ∧ s.mayFlag c.crew.key then .error .wait
    else
      let v := srRead c s k
      .ok (c.go s (fun cr =>
        if srW (m ++ n) = .pair then cr.putU64 d.toNat v else cr.putU d.toNat (v.setWidth 32)))) s

/-! ### Writing special registers -/

/-- The crew after a WRSR of a crew's register; a write that breaks the register's rules is an invalid instruction
(R154, R156, R228, R370). -/
def srWrite (c : Ctx) (s : State) (n : Nat) (v : DWord) : Res Crew :=
  let cr := c.crew
  let w : Word := v.setWidth 32
  match n with
  | 16 => if w.toNat ≤ 5 then .ok { cr with rm := w.setWidth 3 } else invalid
  | 17 => if w.toNat < 32 then .ok { cr with flags := w.setWidth 5 } else invalid
  | 18 => if w.toNat < 64 then .ok { cr with mnext := w.setWidth 6 } else invalid
  | 32 => if w = 0#32 ∨ s.goodPc c.launch w then .ok { cr with evec := w } else invalid
  | 33 => .ok { cr with epc := w }
  | 34 => .ok { cr with eprio := w }
  | 35 => .ok { cr with ecause := w }
  | 36 => .ok { cr with einfo := v }
  | 49 => .ok { cr with tlblaunch := w }
  | _ => invalid

/-- WRSR of a register other than TLBINV; FLAGS waits for earlier results (R369, R156, R176). -/
def execWrsr (a n : BitVec 6) (m : BitVec 3) (s : State) : Host.Outcome State Fault Refusal :=
  issue (.wrsr a n m) (fun c s => do
    let k := (m ++ n).toNat
    let v := if srW (m ++ n) = .pair then c.crew.u64 a.toNat else (c.crew.u a.toNat).setWidth 64
    ensure (srWritable (m ++ n)) invalid
    let cr ← srWrite c s k v
    ensure (!srPriv k || c.launch.priv) violation
    if k = 17 ∧ s.mayFlag c.crew.key then .error .wait
    else .ok (s.setCrew c.n (cr.advance c.grp c.next))) s

/-! ### TLBINV (R76) -/

/-- The byte range of a TLBINV value: first byte and length. -/
def tlbinvRange (v : DWord) : Nat × Nat :=
  let n := (v.extractLsb' 0 16).toNat
  ((v.extractLsb' 16 40).toNat * 65536, (if n = 0 then 65536 else n) * 65536)

/-- A TLBLAUNCH value names a running launch; 0 names every one. -/
def State.namesLaunch (s : State) (id : Word) : Bool := decide (id = 0#32) || (s.launchOf id).isSome

/-- WRSR of TLBINV: it discards, and retires at completion (R76, R369). -/
def execWrsrTlbinv (a : BitVec 6) (s : State) : Host.Outcome State Fault Refusal :=
  issue (.wrsrTlbinv a) (fun c s => do
    let v := c.crew.u64 a.toNat
    ensure (decide (v.extractLsb' 56 8 = 0#8)) invalid
    ensure c.launch.priv violation
    if s.namesLaunch c.crew.tlblaunch then
      let (lo, len) := tlbinvRange v
      let id := s.serial
      let s := { s.setCrew c.n (c.crew.advanceHeld c.grp c.next [id]) with serial := id + 1 }
      .ok (s.startInv id false false c.crew.tlblaunch lo len)
    else .ok (c.go s id)) s

/-- TLBINV_COMPLETE: the accesses in flight under the discarded entries have been performed (R76). -/
def execTlbinvComplete (inv : Nat) (s : State) : Host.Outcome State Fault Refusal :=
  event (fun s =>
    match s.fl.invs.find? (fun i => decide (i.id = inv)) with
    | some i =>
      if s.invDone i then
        .ok { s with
          fl := { s.fl with invs := s.fl.invs.filter (fun j => !decide (j.id = inv)) }
          crews := s.crews.map (fun c => c.endWait inv) }
      else .error .disabled
    | none => .error .disabled) s

/-- HOST_TLBINV: the host's write to BAR0 TLBINV, for the launch that BAR0 TLBLAUNCH names (R76).  A value whose zero bits
are set names no range, and a write before BOOTSTAT is ready is ignored (R378). -/
def execHostTlbinv (value : BitVec 64) (s : State) : Host.Outcome State Fault Refusal :=
  event (fun s =>
    if !s.dev.power then .error .disabled
    else if s.dev.step ≠ 6#4 ∨ value.extractLsb' 56 8 ≠ 0#8 ∨ !s.namesLaunch s.dev.tlblaunch then .ok s
    else
      let (lo, len) := tlbinvRange value
      .ok ({ s with serial := s.serial + 1 }.startInv s.serial false true s.dev.tlblaunch lo len)) s

/-! ### PREEMPT and KILLG (R371, R377) -/

/-- The forms of PREEMPT and KILLG, as `formOf` gives them. -/
def preemptForm (d a : BitVec 6) : Form := { shape := [.ud .pair d, .blk 8 8 a], takes := { }, twice := some 6 }
def killgForm (d a : BitVec 6) : Form := { shape := [.ud .one d, .us .pair a], takes := { }, twice := some 6 }

/-- A gang that can still act: its teams have not all ended, or a relaunch of it is pending (R377). -/
def State.liveGang (s : State) (launch : Word) (g : Nat) : Option Gang :=
  s.gangs.find? (fun x => decide (x.launch = launch) && decide (x.num = g) && decide (x.st ≠ .ended))

/-- The area of a gang image, 8 MiB, lies in main memory (R371). -/
def areaIn (area : Nat) : Bool := inMain area && inMain (area + 0x7FFFFF)

/-- The answers that hold of a PREEMPT when it issues: no such gang, killed or relaunching, outside main memory, its own
launch (R371). -/
def State.preemptNow (s : State) (own launch : Word) (g area : Nat) : List Nat :=
  match s.liveGang launch g with
  | none => [1] ++ (if areaIn area then [] else [6])
  | some x =>
    (if x.kill.isSome ∨ x.st = .relaunchPending then [4] else []) ++ (if areaIn area then [] else [6]) ++
      (if launch = own then [7] else [])

/-- The crews of a gang stop issuing for a kill or a save (R362, R372). -/
def State.stopGang (s : State) (launch : Word) (g : Nat) : State :=
  { s with crews := s.crews.map (fun c =>
      if c.key.team.launch = launch ∧ c.key.team.gang = g then { c with stopped := true, group := none } else c) }

/-- PREEMPT.SAVE and PREEMPT.REST: the block is checked, the operation is handed to the control core, and the result pair
is pending until it is over (R371).  Where several statuses hold at once, `Config.pick` says which is given. -/
def preempt (save : Bool) (d a : BitVec 6) (c : Ctx) (s : State) : Res State := do
  let r (k : Nat) : Word := c.crew.u (a.toNat + k)
  let area := (c.crew.u64 (a.toNat + 2)).toNat
  let g := ((r 1).extractLsb' 0 16).toNat
  ensure (decide ((r 1).extractLsb' 16 16 = 0#16) &&
    (if save then decide (r 4 = 0#32) else decide ((r 4).extractLsb' 5 27 = 0#27)) &&
    decide (r 5 = 0#32) && decide (r 6 = 0#32) && decide (r 7 = 0#32) && decide (area % 4096 = 0)) invalid
  ensure c.launch.priv violation
  let now := s.preemptNow c.launch.id (r 0) g area
  match now with
  | x :: rest =>
    let st := ((x :: rest)[Config.pick s.free % (rest.length + 1)]?).getD x
    let st := if rest.isEmpty then x else st
    let s := c.go s (fun cr => cr.putU64 d.toNat (BitVec.ofNat 64 st))
    .ok { s with free := s.free + 1 }
  | [] =>
    let id := s.serial
    let op : PreemptOp := ⟨id, c.crew.key, d, save, area, (r 4).toNat⟩
    let s := s.addOp (c.plainOp id .preempt (some ⟨d.setWidth 7, 2⟩))
    let s := c.go s (fun cr => cr.mark id [.u d.toNat, .u (d.toNat + 1)])
    let s := s.mapGang (r 0) g (fun x => { x with todo := x.todo ++ [op] })
    .ok (if save then s.stopGang (r 0) g else s)

/-- PREEMPT.SAVE (R371). -/
def execPreemptSave (d a : BitVec 6) (s : State) : Host.Outcome State Fault Refusal :=
  issueF (preemptForm d a) (preempt true d a) s
/-- PREEMPT.REST (R371). -/
def execPreemptRest (d a : BitVec 6) (s : State) : Host.Outcome State Fault Refusal :=
  issueF (preemptForm d a) (preempt false d a) s

/-- What R364 reports where no group trapped. -/
def KillInfo.device (cause : Nat) : KillInfo where
  cause := BitVec.ofNat 8 cause
  core := 0xFFFF#16
  pos := 0xFF#8
  crew := 0xFF#8
  pc := 0xFFFFFFFF#32
  info := 0#64
  thread := 0xFF#8

/-- KILLG (R377). -/
def execKillg (d a : BitVec 6) (s : State) : Host.Outcome State Fault Refusal :=
  issueF (killgForm d a) (fun c s => do
    let l := c.crew.u a.toNat
    let x := c.crew.u (a.toNat + 1)
    ensure (decide (x.extractLsb' 16 16 = 0#16)) invalid
    ensure c.launch.priv violation
    let g := (x.extractLsb' 0 16).toNat
    match s.liveGang l g with
    | none => .ok (c.go s (fun cr => cr.putU d.toNat 1#32))
    | some _ =>
      if l = c.launch.id then .ok (c.go s (fun cr => cr.putU d.toNat 7#32))
      else .ok ((c.go s (fun cr => cr.putU d.toNat 0#32)).requestKill l g (KillInfo.device 12) false)) s

/-- KILLG.L: every gang of the launch, without relaunch (R377). -/
def execKillgL (d a : BitVec 6) (s : State) : Host.Outcome State Fault Refusal :=
  issueF (killgForm d a) (fun c s => do
    let l := c.crew.u a.toNat
    ensure c.launch.priv violation
    match s.launchOf l with
    | none => .ok (c.go s (fun cr => cr.putU d.toNat 1#32))
    | some _ =>
      if l = c.launch.id then .ok (c.go s (fun cr => cr.putU d.toNat 7#32))
      else
        let s := c.go s (fun cr => cr.putU d.toNat 0#32)
        let gs := s.gangs.filter (fun g => decide (g.launch = l) && decide (g.st ≠ .ended))
        let s := gs.foldl (fun s g => s.requestKill l g.num (KillInfo.device 12) true) s
        .ok (s.mapLaunch l (fun x => { x with endStatus := some 3#8 }))) s

end Sys2Proof.Machine
end

