-- ==== Sys2Proof/Machine/Gangs.lean ====
section
/-!
DEFINITION. The control core's steps for a gang: kill and relaunch (R362 to R365), die reset (R366), save and restore with
their images (R141, R142, R182, R323, R331, R371 to R376), and time-slice switches (R344).
-/

namespace Sys2Proof.Machine

/-! ### The members of a gang -/

/-- A team belongs to a gang. -/
def TeamKey.within (k : TeamKey) (launch : Word) (g : Nat) : Bool := decide (k.launch = launch) && decide (k.gang = g)

/-- Applies f to every crew of a gang, and to every team of it. -/
def State.mapGangCrews (s : State) (launch : Word) (g : Nat) (f : Crew → Crew) : State :=
  { s with crews := s.crews.map (fun c => if c.key.team.within launch g then f c else c) }
def State.mapGangTeams (s : State) (launch : Word) (g : Nat) (f : Team → Team) : State :=
  { s with teams := s.teams.map (fun t => if t.key.within launch g then f t else t) }

/-- A crew of which nothing is left to issue. -/
def Crew.emptied (c : Crew) : Crew :=
  { c with
    entries := []
    pend := []
    group := none
    wait := .free
    pop := none
    quotaW := none
    sealedB := []
    stopped := true }

/-- The walks with the misses that satisfy p alone; one without a miss is given up. -/
def Flight.keepMisses (f : Flight) (p : Miss → Bool) : List Walk :=
  (f.walks.map (fun w => { w with misses := w.misses.filter p })).filter (fun w => !w.misses.isEmpty)

/-- Nothing of the gang's teams that satisfy p stays in flight: requests, walks, copies, commands, fast operations, park
records (R362, R183, R241). -/
def Flight.drop (f : Flight) (p : TeamKey → Bool) : Flight :=
  { f with
    walks := f.keepMisses (fun m => match m.who with
      | .crew k _ _ => !p k.team
      | .copy id => !f.copies.any (fun c => decide (c.id = id) && p c.crew.team))
    ops := f.ops.filter (fun o => !p o.crew.team)
    copies := f.copies.filter (fun c => !p c.crew.team)
    cmds := f.cmds.filter (fun m => !p m.crew.team)
    fasts := f.fasts.filter (fun o => !p o.crew.team)
    parks := f.parks.filter (fun x => !p x.crew.team) }

/-- The leases of a gang join their queues' returned sets (R351); a bound queue offers an index again once no lease holds
it. -/
def State.returnLeases (s : State) (launch : Word) (g : Nat) : State :=
  let ls := ((s.teams.filter (fun t => t.key.within launch g)).flatMap (·.leases))
  let s := ls.foldl (fun s x => s.mapQueue x.queue (fun q => { q with returned := q.returned ++ [x.index] })) s
  s.mapGangTeams launch g (fun t => { t with leases := [] })

/-! ### Results of PREEMPT (R371) -/

/-- A PREEMPT is over: its pair receives the status and the size, unless its crew was killed meanwhile. -/
def State.answer (s : State) (p : PreemptOp) (status size : Nat) : State :=
  match s.opOf p.op with
  | some _ =>
    (s.mapCrew p.crew (fun c =>
      ((c.putU p.dest.toNat (BitVec.ofNat 32 status)).putU (p.dest.toNat + 1) (BitVec.ofNat 32 size)).unmark p.op)).dropOp p.op
  | none => s

/-- The gang's first PREEMPT is over; after a save that was not made, the gang goes on unless another stops it. -/
def State.answered (s : State) (g : Gang) (p : PreemptOp) (status size : Nat) : State :=
  let s := (s.answer p status size).mapGang g.launch g.num (fun x => { x with todo := x.todo.drop 1 })
  let stays := g.kill.isSome || (g.todo.drop 1).any (·.save) || decide (status = 5) || (p.save && decide (status = 0))
  if stays then s else s.mapGangCrews g.launch g.num (fun c => { c with stopped := c.gone })

/-! ### Kill (R362 to R365) -/

/-- The gang-killed notice (R364). -/
def KillInfo.notice (k : KillInfo) (launch : Word) (gang fate count : Nat) : List Byte :=
  noticeHead 5 launch ++ leBytes 2 gang ++ [k.cause, BitVec.ofNat 8 fate] ++ leBytes 2 k.core.toNat ++ [k.pos, k.crew] ++
    leBytes 4 k.pc.toNat ++ leBytes 8 k.info.toNat ++ [k.thread, BitVec.ofNat 8 count]

/-- What follows the kill of a gang: 1 it is relaunched, 2 it is at its limit (or its launch is, R359), 0 neither. -/
def Gang.fate (g : Gang) (l : Launch) : Nat :=
  if !g.again then 0
  else if g.forever then (if l.endStatus = some 2#8 then 2 else 0)
  else if g.count < l.retry ∧ l.endStatus = none then 1
  else 2

/-- The surviving gangs of a launch that ends with status 2 are killed first; the spec names no cause of these kills, so
`Config.pick` draws one of 8 to 12 (R359). -/
def State.killSurvivors (s : State) (launch : Word) (but : Nat) : State :=
  let k := KillInfo.device (8 + Config.pick s.free % 5)
  let s := { s with free := s.free + 1 }
  (s.gangs.filter (fun g => decide (g.launch = launch) && decide (g.num ≠ but) && decide (g.st ≠ .ended))).foldl
    (fun s g => s.requestKill launch g.num k true) s

/-- The kill of a gang: everything it has in flight is abandoned, leases return, teams end with their tiles undefined (R86),
the notice is posted, and it is relaunched, or not. -/
def State.killGang (s : State) (g : Gang) (k : KillInfo) (l : Launch) : State :=
  let fate := g.fate l
  let count := if fate = 1 then g.count + 1 else g.count
  let s := g.todo.foldl (fun s p => s.answer p 5 0) s
  let s := { s with fl := s.fl.drop (fun x => x.within g.launch g.num) }
  let s := s.returnLeases g.launch g.num
  let s := s.mapGangTeams g.launch g.num (fun t => { t with
    st := .ended, tiles := [], bmask := 0#32, barr := 0#32, garr := 0#32, mark := none, parkKeep := [], slice := none })
  let s := s.mapGangCrews g.launch g.num Crew.emptied
  let s := s.sweepFaults
  let s := s.post 4 (k.notice g.launch g.num fate count)
  let s := s.mapGang g.launch g.num (fun x => { x with
    count := count
    st := if fate = 1 then .relaunchPending else .ended
    kill := none
    again := false
    forever := false
    todo := [] })
  let s := s.mapLaunch g.launch (fun l => { l with
    relaunches := if fate = 1 then l.relaunches + 1 else l.relaunches
    endStatus := if fate = 2 then some (l.endStatus.getD 2#8) else l.endStatus })
  if fate = 2 ∧ l.endStatus = none then s.killSurvivors g.launch g.num else s

/-- GANG_KILL: the control core carries out a requested kill; a kill by KILLG waits for the PREEMPTs of the gang before it
(R362, R365, R377). -/
def execGangKill (gang : Nat) (s : State) : Host.Outcome State Fault Refusal :=
  event (fun s =>
    match s.gangs[gang]? with
    | some g =>
      match g.kill, s.launchOf g.launch with
      | some k, some l =>
        if k.cause = 12#8 ∧ !g.todo.isEmpty then .error .disabled else .ok (s.killGang g k l)
      | _, _ => .error .disabled
    | none => .error .disabled) s

/-! ### Relaunch (R363) -/

/-- A team has ended by EXIT in a gang that has not (R313). -/
def State.lingers (s : State) (t : Team) : Bool :=
  decide (t.st = .ended) && s.gangs.any (fun g => t.key.within g.launch g.num && decide (g.st = .running))

/-- A team holds its core's resources: it runs, or it has ended in a live gang whose logical cluster is on its cores
(R313). -/
def State.onCore (s : State) (t : Team) : Bool :=
  decide (t.st = .running) || (s.lingers t &&
    !(s.launchOf t.key.launch).any (fun l => l.sliced.contains (t.lcore / 8)))

/-- The types of the teams that hold resources of a core, but those of a gang. -/
def State.typesAt (s : State) (core : Nat) (launch : Word) (g : Nat) : List TeamType :=
  (s.teams.filter (fun t => decide (t.core = core) && s.onCore t && !t.key.within launch g)).filterMap
    (fun t => (s.launchOf t.key.launch).bind (fun l => l.types[t.type]?))

/-- The logical cluster of a gang. -/
def Launch.clusterOf (l : Launch) (g : Nat) : Nat :=
  ((l.places.find? (fun p => decide (p.gang = g))).map (fun p => p.lcore / 8)).getD 0

/-- Another gang of the logical cluster has live teams. -/
def State.clusterLive (s : State) (l : Launch) (c g : Nat) : Bool :=
  s.teams.any (fun t => decide (t.key.launch = l.id) && decide (t.key.gang ≠ g) && decide (t.lcore / 8 = c) &&
    decide (t.st ≠ .ended))

/-- The launch with its logical cluster c placed: where it is while another gang of it lives, else where R343 puts it
now. -/
def State.replace (s : State) (l : Launch) (c g : Nat) : Option Launch :=
  let n := (l.lcoresIn c).length
  let here := ((l.clusters.find? (fun x => decide (x.1 = c))).map (·.2)).getD 0
  if s.clusterLive l c g then (if n ≤ (s.coresOf here).length then some l else none)
  else
    let mine (o : Launch × Nat) : Bool := decide (o.1.id = l.id) && decide (o.2 = c)
    let others (p : Nat) : List (Launch × Nat) := (s.held p).filter (fun o => !mine o)
    (s.findCluster (fun p => (others p).length) c n).map (fun p =>
      let out := (others p).any (fun o => !together o.1 o.2 l c && !o.1.sliced.contains o.2)
      { l with
        clusters := l.clusters.map (fun x => if x.1 = c then (c, p) else x)
        sliced := l.sliced.filter (fun x => !decide (x = c)) ++ (if out then [c] else []) })

/-- The lines of the L1s and constant caches of some cores leave, and no fill of theirs in flight is installed (R109, R115,
R281, R287). -/
def State.clearWhere (s : State) (on : Nat → Bool) : State :=
  let s := s.spoilFills (fun o _ => on o.core)
  { s with fl := { s.fl with
      l1 := s.fl.l1.filter (fun x => !on x.core)
      konst := s.fl.konst.filter (fun x => !on x.core) } }
def State.clearCores (s : State) (cores : List Nat) : State := s.clearWhere cores.contains

/-- The cores of a list on which the launch has no team yet: they are placed in it anew (R186). -/
def State.joining (s : State) (launch : Word) (cores : List Nat) : List Nat :=
  cores.filter (fun k => !s.teams.any (fun t => decide (t.key.launch = launch) && decide (t.core = k) &&
    (match t.st with
      | .saved => false
      | _ => true)))

/-- GANG_RELAUNCH: the gang's teams are created again from the record, on the same logical cores, once cores are free for
them (R363); a core to which a team has moved discards its L1 and constant-cache lines (R287). -/
def execGangRelaunch (gang : Nat) (s : State) : Host.Outcome State Fault Refusal :=
  event (fun s =>
    match s.gangs[gang]? with
    | some g =>
      match s.launchOf g.launch with
      | some l =>
        if g.st ≠ .relaunchPending ∨ g.kill.isSome then .error .disabled
        else match s.replace l (l.clusterOf g.num) g.num with
          | none => .error .disabled
          | some l' =>
            let (ts, cs) := s.create l' (fun p => decide (p.gang = g.num))
            let fits := ts.all (fun t => decide (t.st = .sliced) || (match l.types[t.type]? with
              | some ty => (needOf (ty :: s.typesAt t.core g.launch g.num)).fits
              | none => true))
            if !fits then .error .disabled
            else
              let moved := ts.filter (fun t => !(s.teamOf t.key).any (fun o => decide (o.core = t.core)))
              let s := (s.mapLaunch g.launch (fun _ => l')).clearCores (moved.map (·.core))
              let s : State := { s with dev := s.dev.zeroCounts (s.joining g.launch (ts.map (·.core))) }
              .ok { s with
                gangs := s.gangs.map (fun x => if x.launch = g.launch ∧ x.num = g.num then { x with st := .running } else x)
                teams := s.teams.map (fun t => (ts.find? (fun x => decide (x.key = t.key))).getD t)
                crews := s.crews.map (fun c => (cs.find? (fun x => decide (x.key = c.key))).getD c) }
      | none => .error .disabled
    | none => .error .disabled) s

/-! ### Die reset (R366) -/

/-- Cores of a die leave a list of clocks or counters at their reset values. -/
def offDie {β : Type} (die : Nat) (core : Nat → Nat) (l : Cells β) : Cells β := Cells.keep (fun k => decide (dieOf (core k) ≠ die)) l

/-- DIE_RESET: every gang with a team on the die, or a device-held image of one, is killed with cause 11; the die's caches,
TLBs, park queues and ports are reset, and its cores are off. -/
def execDieReset (die : Bool) (reason : BitVec 8) (s : State) : Host.Outcome State Fault Refusal :=
  event (fun s =>
    let d := die.toNat
    if !s.dev.power || decide (1#8 < reason) || s.dev.diesDown.any (fun x => decide (x.1 = d)) then .error .disabled
    else
      let on (core : Nat) : Bool := decide (dieOf core = d)
      let hit := s.gangs.filter (fun g => s.teams.any (fun t => t.key.within g.launch g.num && on t.core &&
        (decide (t.st = .running) || decide (t.st = .sliced) || s.lingers t)))
      let s := hit.foldl (fun s g => s.requestKill g.launch g.num (KillInfo.device 11) false) s
      let dev := { s.dev with
        diesDown := s.dev.diesDown ++ [(d, reason.toNat, hit.length)]
        seqs := offDie d id s.dev.seqs
        counts := offDie d (· / 8) s.dev.counts
        rslv := offDie d (8 * ·) s.dev.rslv
        resetAt := (List.range 128).foldl (fun r i =>
          Cells.set 0 r (128 * d + i) (Cells.get 0 s.dev.clk (clusterOf (128 * d + i)))) s.dev.resetAt
        ports := s.dev.ports.map (fun p => if p.1 / 18 = d then (p.1, { p.2 with width := 0 }) else p)
        portsDown := s.dev.portsDown ++ ((s.dev.ports.filter (fun p => decide (p.1 / 18 = d) && p.2.trained)).map (·.1)) }
      let s := s.clearWhere on
      let fl := { s.fl with
        tlb := s.fl.tlb.filter (fun x => !on x.loc)
        xtlb := s.fl.xtlb.filter (fun x => !on (8 * x.loc))
        walks := s.fl.keepMisses (fun m => !on m.core)
        cmds := s.fl.cmds.filter (fun x => !on x.core)
        fasts := s.fl.fasts.filter (fun x => !on x.core)
        parks := s.fl.parks.filter (fun x => !on x.core) }
      .ok { s with dev := dev, fl := fl }) s

/-- A die's reset is over but for the enabling of its cores: its gangs have been killed, and its ports have retrained
(R366). -/
def State.dieDone (s : State) (d : Nat) : Bool :=
  s.gangs.all (fun g => g.kill.isNone || !s.teams.any (fun t => t.key.within g.launch g.num && decide (dieOf t.core = d))) &&
    s.dev.portsDown.all (fun p => decide (p / 18 ≠ d))

/-- DIE_RESET_COMPLETE: the die's cores are enabled again, within 3 s, and the notice is appended to queue 5. -/
def execDieResetComplete (die : Bool) (downus : BitVec 32) (s : State) : Host.Outcome State Fault Refusal :=
  event (fun s =>
    match s.dev.diesDown.find? (fun x => decide (x.1 = die.toNat)) with
    | some x =>
      if 3000000 < downus.toNat || !s.dieDone x.1 then .error .disabled
      else
        let s := { s with dev := { s.dev with diesDown := s.dev.diesDown.filter (fun y => !decide (y.1 = x.1)) } }
        .ok (s.post 5 (noticeHead 6 0#32 ++ [BitVec.ofNat 8 x.1, BitVec.ofNat 8 x.2.1] ++ leBytes 2 x.2.2 ++
          leBytes 4 downus.toNat))
    | none => .error .disabled) s

/-! ### Images: registers and control state -/

/-- n zero bytes. -/
def zeros (n : Nat) : List Byte := List.replicate n 0#8
/-- The bytes of a word. -/
def w4 (x : Word) : List Byte := leBytes 4 x.toNat

/-- The crew register image (R141). -/
def Crew.registers (c : Crew) : List Byte :=
  (List.range 64).flatMap (fun i => w4 (c.u i)) ++
  w4 0xFFFFFFFF#32 ++ (List.range 7).flatMap (fun i => w4 (Cells.get 0#32 c.preds (i + 1))) ++
  leBytes 4 c.quota ++ zeros 28 ++
  (List.range (8 * c.quota)).flatMap (fun r => (List.range 32).flatMap (fun k => w4 (c.v r k)))

/-- The record of a thread in the crew control image (R323). -/
def Crew.threadImage (c : Crew) (t : Nat) : List Byte :=
  match c.entryOf t with
  | none => zeros 6 ++ [1#8] ++ zeros 57
  | some e =>
    let ls := (Cells.get [] c.links t).reverse
    w4 e.pc ++ [e.prio.setWidth 8, BitVec.ofNat 8 ls.length, if e.blocked then 2#8 else 0#8,
      if e.raised.isSome then 1#8 else 0#8] ++ leBytes 4 e.age ++ zeros 20 ++
      (ls.flatMap (fun l => w4 (l.prio ++ (l.pc.extractLsb' 2 24 ++ 0#2))) ++ zeros 32).take 32

/-- The crew control image (R323). -/
def Crew.control (c : Crew) (prot : Bool) : List Byte :=
  w4 c.smask ++ w4 c.sarr ++ zeros 56 ++
  (List.range 32).flatMap (fun t => if prot && decide (16 ≤ t) then zeros 64 else c.threadImage t)

/-- The crew state (R375). -/
def Crew.stateImage (c : Crew) (prot : Bool) : List Byte :=
  let perThread (m : Cells Word) : List Byte :=
    (List.range 32).flatMap (fun t => if prot && decide (16 ≤ t) then zeros 4 else w4 (Cells.get 0#32 m t))
  leBytes 4 c.rm.toNat ++ leBytes 4 c.flags.toNat ++ leBytes 4 c.mnext.toNat ++ w4 c.cpyctr ++ w4 c.running ++
    [match c.wait with
      | .free => 0#8
      | .barT => 1#8
      | .gbar => 2#8] ++ zeros 3 ++
    w4 c.evec ++ w4 c.epc ++ w4 c.eprio ++ w4 c.ecause ++ leBytes 8 c.einfo.toNat ++ w4 c.tlblaunch ++ zeros 12 ++
    (List.range 16).flatMap (fun h => w4 (Cells.get 0#32 c.ordk h)) ++ perThread c.srctr ++ perThread c.batch ++ zeros 128

/-- A crew block (R375). -/
def Crew.block (c : Crew) (prot : Bool) : List Byte := c.stateImage prot ++ c.control prot ++ c.registers

/-! ### Images: teams -/

/-- The team register image (R142).  The descriptor word of an undefined tile is left open, and drawn from `pick`. -/
def Team.registers (t : Team) (draw : Nat → Nat) : List Byte :=
  (List.range 32).flatMap (fun i =>
    (match t.tile i with
      | some x => w4 x.desc
      | none => leBytes 4 (draw i)) ++ w4 (tileWord (t.tile i))) ++
  (List.range 16).flatMap (fun i => match t.region i with
    | some g => w4 g ++ w4 1#32
    | none => zeros 8)

/-- The team synchronisation image (R331).  E and C of an uninitialised point are left open, within their ranges. -/
def Team.sync (t : Team) (draw : Nat → Nat) : List Byte :=
  (List.range 24).flatMap (fun i =>
    let p := t.point i
    (if p.init then leBytes 4 (2 ^ 31 + (p.count - 1)) ++ leBytes 4 p.left
      else leBytes 4 (draw (32 + i) % 65536) ++ leBytes 4 (1 + draw (64 + i) % 65536)) ++ w4 p.phase ++ zeros 4) ++
  w4 t.bmask ++ w4 t.barr ++ w4 t.garr ++ w4 t.gphase ++ zeros 112

/-- The transform slots (R101); an empty slot is sixteen END words. -/
def Team.slots (t : Team) : List Byte :=
  (List.range 4).flatMap (fun i => ((Cells.get [] t.xprog i).flatMap w4 ++ zeros 64).take 64)

/-- Bytes of an operand in a chain (R173). -/
def Park.width (p : Park) : Nat := if p.fmt = 3#2 then 2 else if p.fmt = 1#2 then 8 else 4

/-- The payload of all records of a park (R172, R173); the bytes behind the slots of a chain are left open (FREE VALUE: log
entry 119). -/
def Park.payload (p : Park) : List Byte :=
  if p.chain then
    (List.range 32).flatMap (fun t => leBytes p.width (match p.args.find? (fun a => decide (a.1 % 32 = t + p.slot)) with
      | some a => a.2.1.toNat
      | none => 0)) ++ (List.range 288).map (fun i => Config.chainByte (p.major ++ p.sel ++ p.fmt ++ p.rm) (p.args.map (fun a => (a.1 - p.slot, a.2.1))) i)
  else match p.args with
    | a :: _ => leBytes 8 a.2.1.toNat ++ leBytes 8 a.2.2.1.toNat ++ leBytes 8 a.2.2.2.toNat ++ zeros 72
    | [] => zeros 96

/-- Record k of a park, at index `at0 + k` of an image, of n records (R172). -/
def Park.record (p : Park) (prot : Bool) (teamid at0 k : Nat) : List Byte :=
  let n := p.idx.length
  let second := prot && decide (16 ≤ p.slot)
  let thread := if p.chain then 0 else if prot then p.slot % 16 else p.slot
  let last := decide (k + 1 = n)
  let kind := if !p.chain then 1 else if k = 0 then 2 else 3
  let shift (m : BitVec 32) : Word := if second then m >>> 16 else m
  leBytes 2 (p.major.toNat * 1024 + p.sel.toNat * 32 + p.fmt.toNat * 8 + p.rm.toNat) ++
    leBytes 1 ((if second then 32 else 0) + thread) ++ leBytes 1 p.dest.toNat ++
    leBytes 1 (teamid * 32 + p.crew.crew) ++ leBytes 1 ((n - 1) * 4 + kind) ++
    leBytes 1 (if last then 64 else at0 + k + 1) ++ leBytes 1 1 ++ w4 p.seq ++ w4 (shift p.pmask) ++ w4 (shift p.amask) ++
    zeros 12 ++ (p.payload.drop (96 * k)).take 96

/-- The parks of a team in sequence order. -/
def State.parksOf (s : State) (k : TeamKey) : List Park :=
  sortBy (fun a b => a.seq.ult b.seq) (s.fl.parks.filter (fun p => decide (p.crew.team = k)))

/-- The park image (R182). -/
def parkImage (prot : Bool) (teamid : Nat) (ps : List Park) : List Byte :=
  let n := ps.foldl (fun n p => n + p.idx.length) 0
  let rs := ps.foldl (fun (acc : Nat × List Byte) p =>
    (acc.1 + p.idx.length, acc.2 ++ (List.range p.idx.length).flatMap (p.record prot teamid acc.1))) (0, [])
  leBytes 4 n ++ zeros 60 ++ rs.2

/-- The allocation of accumulator cells, as one FP32 region (R237, R241). -/
def Team.accImage (t : Team) : List Byte :=
  (List.range (4096 * t.accu)).flatMap (fun k => w4 (t.slot k)) ++ (List.range (4096 * t.accu)).map t.slotSt

/-- The offsets of the crew blocks, and the end of the last (R374). -/
def crewOffsets (cs : List Crew) : List (Nat × Nat) × Nat :=
  cs.foldl (fun (acc : List (Nat × Nat) × Nat) c =>
    (acc.1 ++ [(c.key.crew, acc.2)], acc.2 + 2944 + 1024 * c.quota)) ([], 0x2800)

/-- Bytes of a team's image, and the offsets of its scratchpad and accumulator parts (R374). -/
def Team.scroff (cs : List Crew) : Nat := (crewOffsets cs).2
def Team.accoff (t : Team) (cs : List Crew) : Nat := Team.scroff cs + 4096 * t.spu
def Team.imageSize (t : Team) (cs : List Crew) : Nat := t.accoff cs + 20480 * t.accu

/-- The team image (R374); `draw` gives the values left open. -/
def State.teamImage (s : State) (t : Team) (prot : Bool) (draw : Nat → Nat) : List Byte :=
  let cs := s.crewsOf t.key
  let off := crewOffsets cs
  let park := parkImage prot t.teamid (s.parksOf t.key)
  w4 t.key.launch ++ leBytes 2 t.lcore ++ leBytes 1 t.teamid ++ leBytes 1 t.key.pos ++ leBytes 2 t.key.gang ++
    leBytes 1 cs.length ++ leBytes 1 t.spu ++ leBytes 1 t.accu ++ leBytes 1 t.role.toNat ++ zeros 2 ++
    leBytes 4 (t.imageSize cs) ++ leBytes 4 (Team.scroff cs) ++ leBytes 4 (t.accoff cs) ++ zeros 36 ++
    (List.range 32).flatMap (fun c => leBytes 4 (((off.1.find? (fun p => decide (p.1 = c))).map (·.2)).getD 0)) ++ zeros 64 ++
    t.registers draw ++ zeros 128 ++ t.sync draw ++ t.slots ++ park ++ zeros (0x2800 - 0x600 - park.length) ++
    cs.flatMap (fun c => c.block prot) ++ (List.range (4096 * t.spu)).map t.scratchAt ++ t.accImage

/-- The teams of a gang in ascending gang position, with the offsets of their images (R373). -/
def State.imagesOf (s : State) (g : Gang) : List (Team × Nat) × Nat :=
  let ts := sortBy (fun a b => decide (a.key.pos < b.key.pos)) (s.teamsOf g.launch g.num)
  let r := ts.foldl (fun (acc : List (Team × Nat) × Nat × Nat) t =>
    let n := t.imageSize (s.crewsOf t.key)
    (acc.1 ++ [(t, acc.2.1)], (acc.2.1 + n + 4095) / 4096 * 4096, acc.2.1 + n)) ([], 4096, 4096)
  (r.1, r.2.2)

/-- The header of a gang image (R373). -/
def State.gangHeader (s : State) (g : Gang) : List Byte :=
  let im := s.imagesOf g
  let entry (p : Nat) : List Byte := match im.1.find? (fun x => decide (x.1.key.pos = p)) with
    | some x => leBytes 8 x.2 ++ leBytes 4 (x.1.imageSize (s.crewsOf x.1.key)) ++ leBytes 2 x.1.lcore ++ zeros 2
    | none => zeros 16
  w4 g.launch ++ leBytes 2 g.num ++ leBytes 1 im.1.length ++ zeros 1 ++ leBytes 8 im.2 ++
    (List.range 8).flatMap entry ++ zeros 3952

/-! ### Save (R372) -/

/-- Writes an image line by line; `foul` marks its poisoned 32-byte granules. -/
def State.writeImage (s : State) (area : Nat) (l : List Byte) (foul : Nat → Bool) (launch : Word) : State :=
  (List.range ((l.length + 127) / 128)).foldl (fun s i =>
    let part := (l.drop (128 * i)).take 128
    let p := (List.range 4).foldl (fun (m : BitVec 4) k => if foul (4 * i + k) then m ||| (1#4 <<< k) else m) 0#4
    s.homeWrite (area / 128 + i) (part.zipIdx.map (fun b => (b.2, b.1))) p launch) s

/-- Every line of an operation that a save or a switch waits for is delivered: what remains is a POP, a prefetch, the fetch of
a line of code, or lines of a CWR that are held at their homes (R271, R372). -/
def MOp.quiet (o : MOp) : Bool :=
  match o.kind with
  | .pop => true
  | .pref _ => true
  | .fetch => true
  | .cwr => o.reqs.all (fun r => decide (r.st = .delivered) || (decide (r.st = .held)))
  | _ => false

/-- Nothing that a save waits for is under way in the teams that satisfy p (R372), and no WRSR of TLBINV, which ends no group
before its completion (R369). -/
def State.quiet (s : State) (p : TeamKey → Bool) : Bool :=
  s.fl.ops.all (fun o => !p o.crew.team || o.quiet) && s.fl.copies.all (fun c => !p c.crew.team) &&
    s.fl.cmds.all (fun m => !p m.crew.team) && s.fl.fasts.all (fun f => !p f.crew.team) &&
    s.teams.all (fun t => !p t.key || (List.range 32).all (fun i => match t.tile i with
      | some x => decide (x.st = .empty) || decide (x.st = .ready)
      | none => true)) &&
    s.crews.all (fun c => !p c.key.team || (c.sealedB.all (fun b => !s.batchOpen c.key b) &&
      c.entries.all (fun e => s.fl.invs.all (fun i => !e.waits.contains i.id))))

/-- Threads of a crew go back to a pc, as an entry of their own. -/
def Crew.goBack (c : Crew) (m : BitVec 32) (pc : Word) : Crew :=
  let back := c.entries.filterMap (fun e =>
    if e.mask &&& m = 0#32 then none else some { e.issued with pc := pc, mask := e.mask &&& m, hold := .free, waits := [], blocked := false })
  let stay := c.entries.map (fun e => { e with mask := e.mask &&& ~~~m })
  { c with entries := settle (stay ++ back) }

/-- The threads whose lines of a CWR are held. -/
def MOp.heldMask (o : MOp) (prot : Bool) : BitVec 32 :=
  o.reqs.zipIdx.foldl (fun m r => if r.1.st = .held then
      m ||| maskOf ((o.accsOf r.2).map (fun a => if prot then a.slot % 16 else a.slot)) else m) 0#32

/-- Held CWRs are withdrawn: the threads whose lines were held replay from the group's first hint (R271, R288). -/
def State.withdraw (s : State) (p : TeamKey → Bool) : State :=
  let os := s.fl.ops.filter (fun o => p o.crew.team && decide (o.kind = .cwr))
  os.foldl (fun s o =>
    let prot := (s.launchOf o.crew.team.launch).any (·.prot)
    (s.mapCrew o.crew (fun c => (c.goBack (o.heldMask prot) o.pc).unmark o.id)).dropOp o.id) s

/-- A crew that leaves its core: walks and tickets are given up, a QUOTA issues afresh (R372). -/
def Crew.unheld (c : Crew) : Crew :=
  { c with
    entries := settle (c.entries.map (fun e => { e with hold := .free, waits := [] }))
    group := none
    quotaW := none }

/-- The threads of a crew's POP stand at the word after it: they have issued nothing since. -/
def Crew.atPop (c : Crew) (p : PopWait) : Bool :=
  c.entries.all (fun e => decide (e.mask &&& p.mask = 0#32) || decide (e.pc = p.next))

/-- A crew that is saved: a POP that waits issues afresh too, from its group's pc (R376); a crew that has issued on behind
its POP is saved waiting where it is (R355; DEDUCED: log entry 127). -/
def Crew.leave (c : Crew) : Crew :=
  let c := match c.pop with
    | some p => if c.atPop p then { (c.goBack p.mask p.pc).unmark p.op with pop := none } else c
    | none => c
  { c.unheld with sealedB := [] }

/-- The first uncorrectable word that the save of a team reads: a register, a row of cells, a park record (R132, R242,
R372). Of several words the one reported is the first of the crews' registers, else of the accumulator rows, else of the
park records (DESIGN CHOICE: log entry 136). -/
def State.saveError (s : State) (t : Team) : Option KillInfo :=
  let info (crew : BitVec 8) (x : Nat) : KillInfo := { KillInfo.device 8 with
    core := BitVec.ofNat 16 t.core, pos := BitVec.ofNat 8 t.key.pos, crew := crew, info := BitVec.ofNat 64 x }
  match (s.crewsOf t.key).find? (fun c => !c.vbad.isEmpty) with
  | some c => some (info (BitVec.ofNat 8 c.key.crew) (2 * 2 ^ 60 + c.vbad.headD 0))
  | none => match t.accBad with
    | r :: _ => some (info 0xFF#8 (3 * 2 ^ 60 + 32 * r))
    | [] => match (s.parksOf t.key).find? (·.bad) with
      | some p => some (info (BitVec.ofNat 8 p.crew.crew) (4 * 2 ^ 60 + p.idx.headD 0))
      | none => none

/-- The image of team t, as s0 holds it, is written at a, one write per line; poison of the scratchpad goes with it (R59,
R372). -/
def State.writeTeam (s s0 : State) (t : Team) (a : Nat) (prot : Bool) (draw : Nat → Nat) : State :=
  let lo := Team.scroff (s0.crewsOf t.key) / 32
  let foul (n : Nat) : Bool := decide (lo ≤ n) && decide (n < lo + 128 * t.spu) && t.foul (n - lo)
  s.writeImage a (s0.teamImage t prot draw) foul t.key.launch

/-- The images of a gang are written (R372, R373). -/
def State.writeGang (s : State) (g : Gang) (area : Nat) (prot : Bool) : State :=
  let im := s.imagesOf g
  let s0 := s
  let s := s.writeImage area (s0.gangHeader g) (fun _ => false) g.launch
  let s := im.1.foldl (fun s x =>
    s.writeTeam s0 x.1 (area + x.2) prot (fun i => Config.pick (s0.free + 96 * x.1.key.pos + i))) s
  { s with free := s.free + 768 }

/-- What the park records of a team need beside their image. -/
def State.keepParks (s : State) (k : TeamKey) : List (Bool × Word) :=
  (s.parksOf k).flatMap (fun p => p.idx.map (fun _ => (p.excl, p.pc)))

/-- The save of a gang that nothing is under way in. -/
def State.saveGang (s : State) (g : Gang) (p : PreemptOp) : State :=
  let mine (k : TeamKey) : Bool := k.within g.launch g.num
  let prot := (s.launchOf g.launch).any (·.prot)
  let s := s.withdraw mine
  let s := s.mapGangCrews g.launch g.num Crew.leave
  let s := s.mapGangTeams g.launch g.num (fun t => t.readScratch [(0, 4096 * t.spu)])
  match (s.teamsOf g.launch g.num).findSome? s.saveError with
  | some k => (s.requestKill g.launch g.num k false).answered { g with kill := some k } p 5 0
  | none =>
    let size := (s.imagesOf g).2
    let s := s.writeGang g p.area prot
    let keep := s.keepParks
    let s := s.mapGangTeams g.launch g.num (fun t => { t with st := .saved, parkKeep := keep t.key })
    let s := { s with fl := s.fl.drop mine }
    let s := s.sweepFaults
    let s := s.mapGang g.launch g.num (fun x => { x with st := .saved p.area false })
    s.answered g p 0 size

/-- A gang whose teams are time-sliced out. -/
def State.slicedGang (s : State) (g : Gang) : Bool := (s.teamsOf g.launch g.num).any (fun t => decide (t.st = .sliced))

/-- The status of a PREEMPT that cannot be made when the control core reaches it (R371): 1 the gang has ended, 4 it is
being relaunched or is sliced out, 2 it is saved already, or not saved. -/
def State.preemptLate (s : State) (g : Gang) (save : Bool) : Option Nat :=
  match g.st with
  | .ended => some 1
  | .relaunchPending => some 4
  | .saved _ _ => if save then some 2 else none
  | .running => if s.slicedGang g then some 4 else if save then none else some 2

/-- GANG_SAVE: the first PREEMPT of a gang, a save, is carried out once what R372 waits for has finished. -/
def execGangSave (gang : Nat) (s : State) : Host.Outcome State Fault Refusal :=
  event (fun s =>
    match s.gangs[gang]? with
    | some g =>
      match g.todo with
      | p :: _ =>
        if !p.save || (match g.kill with
            | some k => decide (k.cause ≠ 12#8)
            | none => false) then .error .disabled
        else match s.preemptLate g true with
          | some st => .ok (s.answered g p st 0)
          | none => if s.quiet (fun k => k.within g.launch g.num) then .ok (s.saveGang g p) else .error .disabled
      | [] => .error .disabled
    | none => .error .disabled) s

/-! ### Restore (R376) -/

/-- The registers of a crew from its image at a, its quota among them (R141). -/
def State.readRegisters (s : State) (c : Crew) (a : Nat) : Crew :=
  let word (o : Nat) : Word := s.wordAt (a + o)
  let q := min 12 (s.numAt (a + 0x120) 1 % 16)
  { c with
    quota := q
    uregs := Cells.setAll 0#32 [] ((List.range 64).map (fun i => (i, word (4 * i))))
    preds := Cells.setAll 0#32 [] ((List.range 7).map (fun i => (i + 1, word (0x104 + 4 * i))))
    vregs := Cells.setAll 0#32 [] ((List.range (256 * q)).map (fun i => (i, word (0x140 + 4 * i))))
    vbad := [] }

/-- A thread's record in a control image. -/
structure ThreadRec where
  thread : Nat
  entry  : Entry
  ended  : Bool
  links  : List Link
  deriving DecidableEq, Repr

/-- The record of a thread from a control image at a. A blocked record names no command and no operation: an MWAIT that
issues again from it finds no wait of its own, and answers at once if its id is free (DESIGN CHOICE: log entry 138). -/
def State.threadRec (s : State) (a t : Nat) : ThreadRec :=
  let b := a + 0x40 + 64 * t
  let n (o k : Nat) : Nat := s.numAt (b + o) k
  let depth := n 5 1 % 16
  let link (i : Nat) : Link :=
    let w := s.wordAt (b + 0x20 + 4 * i)
    ⟨(w.extractLsb' 2 24 ++ 0#2).setWidth 32, w.extractLsb' 26 6⟩
  { thread := t
    entry := {
      pc := s.wordAt b
      prio := BitVec.ofNat 6 (n 4 1)
      age := n 8 4 % 2048
      raised := if n 7 1 % 2 = 1 then some t else none
      blocked := decide (n 6 1 = 2)
      hold := .free
      waits := []
      mask := 1#32 <<< t
      yield := 0
      parkWait := none
      mwait := none
      popWait := none }
    ended := decide (n 6 1 = 1)
    links := ((List.range depth).map link).reverse }

/-- Two threads were in one entry (R323). -/
def sameEntry (a b : Entry) : Bool :=
  decide (a.pc = b.pc) && decide (a.prio = b.prio) && decide (a.age = b.age) && decide (a.raised.isSome = b.raised.isSome) &&
    decide (a.blocked = b.blocked)

/-- The entries of thread records: equal ones form one; raised entries take their positions in ascending order of their
lowest thread. -/
def rebuild (l : List Entry) : List Entry :=
  l.foldl (fun acc e => match findIx (sameEntry e) acc with
    | some n => match acc[n]? with
      | some x => acc.set n { x with mask := x.mask ||| e.mask }
      | none => acc
    | none => acc ++ [e]) []

/-- The frontier and links of a crew from its control image. -/
def State.readControl (s : State) (c : Crew) (a : Nat) (prot : Bool) : Crew :=
  let rs := (List.range (if prot then 16 else 32)).map (s.threadRec a)
  { c with
    smask := s.wordAt a
    sarr := s.wordAt (a + 4)
    entries := settle (rebuild ((rs.filter (fun r => !r.ended)).map (·.entry)))
    links := Cells.setAll [] [] (rs.map (fun r => (r.thread, r.links)))
    ended := maskOf ((rs.filter (·.ended)).map (·.thread)) }

/-- The crew state from its image. -/
def State.readCrewState (s : State) (c : Crew) (a : Nat) (prot : Bool) : Crew :=
  let word (o : Nat) : Word := s.wordAt (a + o)
  let perThread (o : Nat) : Cells Word :=
    Cells.setAll 0#32 [] ((List.range (if prot then 16 else 32)).map (fun t => (t, word (o + 4 * t))))
  { c with
    rm := (word 0).setWidth 3
    flags := (word 4).setWidth 5
    mnext := (word 8).setWidth 6
    cpyctr := word 0xC
    running := word 0x10
    wait := match s.numAt (a + 0x14) 1 with
      | 1 => .barT
      | 2 => .gbar
      | _ => .free
    evec := word 0x18
    epc := word 0x1C
    eprio := word 0x20
    ecause := word 0x24
    einfo := word 0x2C ++ word 0x28
    tlblaunch := word 0x30
    ordk := Cells.setAll 0#32 [] ((List.range 16).map (fun h => (h, word (0x40 + 4 * h))))
    srctr := perThread 0x80
    batch := perThread 0x100 }

/-- A crew back on a core; a POP with which it was saved waiting waits on (R355). -/
def State.readCrew (s : State) (c : Crew) (a : Nat) (prot : Bool) : Crew :=
  let c := s.readRegisters (s.readControl (s.readCrewState c a prot) (a + 0x200) prot) (a + 0xA40)
  let c := { c with
    sealedB := []
    pend := []
    group := none
    pop := c.pop.filter (fun p => !p.back)
    quotaW := none
    started := true
    stopped := false
    upset := false }
  match c.pop with
  | some p => c.mark p.op (popRegs p.dest)
  | none => c

/-- A tile from its saved word and state. -/
def tileOf (desc : Word) (st : Nat) : Option Tile :=
  if st / 4 % 2 = 1 then some { desc := desc, st := if st % 4 = 2 then .ready else .empty, owner := 0 } else none

/-- A team back on a core; its scratchpad keeps the poison its image carried (R376). -/
def State.readTeam (s : State) (t : Team) (a : Nat) (cs : List Crew) (core : Nat) : Team :=
  let word (o : Nat) : Word := s.wordAt (a + o)
  let scr := a + Team.scroff cs
  let acc := a + t.accoff cs
  let point (i : Nat) : Point :=
    let w := word (0x300 + 16 * i)
    if w.getLsbD 31 then ⟨true, (w.extractLsb' 0 16).toNat + 1, (word (0x304 + 16 * i)).toNat, word (0x308 + 16 * i)⟩
    else { Point.fresh with phase := word (0x308 + 16 * i) }
  let slot (i : Nat) : List Word :=
    let ws := (List.range 16).map (fun k => word (0x500 + 64 * i + 4 * k))
    if progOk ws then ws else []
  { t with
    core := core
    st := .running
    role := BitVec.ofNat 4 (s.numAt (a + 0xD) 1)
    scratch := Cells.setAll 0#8 [] ((List.range (4096 * t.spu)).map (fun i => (i, readByte s.mem.bytes (scr + i))))
    scPoison := Cells.setAll false [] ((List.range (128 * t.spu)).map (fun g =>
      (g, (s.lineMeta ((scr + 32 * g) / 128)).poison.getLsbD ((scr + 32 * g) % 128 / 32))))
    scBad := []
    acc := Cells.setAll 0#32 [] ((List.range (4096 * t.accu)).map (fun i => (i, s.wordAt (acc + 4 * i))))
    accSt := Cells.setAll 0#8 [] ((List.range (4096 * t.accu)).map (fun i =>
      (i, readByte s.mem.bytes (acc + 16384 * t.accu + i))))
    accBad := []
    tiles := cellsOf ((List.range 32).map (fun i => tileOf (word (0x100 + 8 * i)) (word (0x104 + 8 * i)).toNat))
    regions := cellsOf ((List.range 16).map (fun i =>
      if (word (0x204 + 8 * i)).getLsbD 0 then some (word (0x200 + 8 * i)) else none))
    points := Cells.setAll Point.fresh [] ((List.range 24).map (fun i => (i, point i)))
    bmask := word 0x480
    barr := word 0x484
    garr := word 0x488
    gphase := word 0x48C
    xprog := Cells.setAll [] [] ((List.range 4).map (fun i => (i, slot i)))
    parkKeep := []
    slice := none }

/-- The park that the record at index i of a park image begins: `idx` are its new places in the core's queue. -/
def State.readPark (s : State) (t : Team) (a i core : Nat) (idx : List Nat) (seq : Word) (prot : Bool) : Park :=
  let b := a + 0x640 + 128 * i
  let n (o k : Nat) : Nat := s.numAt (b + o) k
  let w := n 0 2
  let chain := decide (n 5 1 % 4 = 2)
  let second := prot && decide (n 2 1 / 32 % 2 = 1)
  let up := if second then 16 else 0
  let fmt := BitVec.ofNat 2 (w / 8)
  let amask := s.wordAt (b + 16)
  let width := if fmt = 3#2 then 2 else if fmt = 1#2 then 8 else 4
  let part (o : Nat) : Nat := readByte s.mem.bytes (b + o / 96 * 128 + 32 + o % 96) |>.toNat
  let operand (t : Nat) : Nat := (List.range width).foldr (fun j acc => acc * 256 + part (width * t + j)) 0
  let keep := (t.parkKeep[i]?).getD (false, 0xFFFFFFFF#32)
  let d (o : Nat) : DWord := BitVec.ofNat 64 (n o 8)
  let slot := if chain then up else n 2 1 % 32 + up
  { core := core
    idx := idx
    seq := seq
    crew := ⟨t.key, n 4 1 % 32⟩
    op := 0
    major := BitVec.ofNat 6 (w / 1024)
    sel := BitVec.ofNat 5 (w / 32)
    fmt := fmt
    rm := BitVec.ofNat 3 w
    dest := BitVec.ofNat 7 (n 3 1)
    slot := slot
    chain := chain
    excl := keep.1
    pmask := s.wordAt (b + 12) <<< up
    amask := amask <<< up
    args := if chain then (threadsOf amask).map (fun t => (t + up, BitVec.ofNat 64 (operand t), 0#64, 0#64))
      else [(slot, d 32, d 40, d 48)]
    stage := .queued
    bad := false
    pc := keep.2 }

/-- The indices of the image records that begin a park, with their numbers of records. -/
def State.parkStarts (s : State) (a : Nat) : List (Nat × Nat) :=
  let n := s.numAt (a + 0x600) 4 % 65
  (List.range n).filterMap (fun i =>
    let x := s.numAt (a + 0x640 + 128 * i + 5) 1
    if x % 4 = 3 then none else some (i, x / 4 % 4 + 1))

/-- The records of a team's park image go to the core's queue with fresh indices and sequence numbers; the registers they
name are pending (R141, R182). -/
def State.resubmit (s : State) (t : Team) (a core : Nat) (prot : Bool) : State :=
  (s.parkStarts a).foldl (fun s x =>
    let seq := Cells.get 0#32 s.dev.seqs core
    let p := s.readPark t a x.1 core ((s.parkFree core).take x.2) seq prot
    let old := s.fl.parks.find? (fun y => decide (y.crew = p.crew) && decide (y.dest = p.dest))
    let op := match old with
      | some y => y.op
      | none => s.serial
    let regs := fieldRegs p.dest (if resultFmt p.major p.sel p.fmt = 1#2 then 2 else 1)
    let s := { s with
      serial := s.serial + 1
      dev := { s.dev with seqs := Cells.set 0#32 s.dev.seqs core (seq + 1#32) }
      fl := { s.fl with parks := s.fl.parks ++ [{ p with op := op }] } }
    if old.isSome then s else s.mapCrew p.crew (fun c => c.mark op regs)) s

/-- The fields of a crew block that a restore reads: offset and length (R141, R323, R375). -/
def crewFields (prot : Bool) (q : Nat) : List (Nat × Nat) :=
  [(0, 0x180), (0x200, 8), (0x240, if prot then 1024 else 2048), (0xA40, 0x124), (0xB80, 1024 * q)]

/-- The fields of a team image at a, outside its scratchpad part, that a restore reads (R374; which they are is DEDUCED: log
entry 109). -/
def State.imageFields (s : State) (t : Team) (a : Nat) (prot : Bool) : List (Nat × Nat) :=
  let cs := s.crewsOf t.key
  let parks := min 64 (s.numAt (a + 0x600) 4)
  [(a + 0xD, 1), (a + 0x100, 0x180), (a + 0x300, 0x190), (a + 0x500, 0x100), (a + 0x600, 4), (a + 0x640, 128 * parks),
    (a + t.accoff cs, 20480 * t.accu)] ++
  (cs.zip (crewOffsets cs).1).flatMap (fun c => (crewFields prot c.1.quota).map (fun r => (a + c.2.2 + r.1, r.2)))

/-- The line of the first poisoned granule that a restore reads into a register or a cell (R60, R376). -/
def State.foulImage (s : State) (t : Team) (a : Nat) (prot : Bool) : Option Nat :=
  (s.imageFields t a prot).findSome? (fun r =>
    ((List.range ((r.1 % 32 + r.2 + 31) / 32)).map (r.1 / 32 + ·)).findSome? (fun g =>
      if (s.lineMeta (g / 4)).poison.getLsbD (g % 4) then some (g / 4) else none))

/-- What a poisoned image makes of the gang whose team it is (R364, R376). -/
def foulKill (t : Team) (core line : Nat) : KillInfo :=
  { KillInfo.device 8 with core := BitVec.ofNat 16 core, pos := BitVec.ofNat 8 t.key.pos, info := lineInfo line }

/-- A team comes back to a core from its image at a: its crews, its park records, and whether it had ended (R313, R376). -/
def State.restoreTeam (s : State) (x : Team) (a core : Nat) (prot : Bool) : State :=
  let cs := s.crewsOf x.key
  let off := crewOffsets cs
  let t := s.readTeam x a cs core
  let at1 (c : Crew) : Nat := a + ((off.1.find? (fun o => decide (o.1 = c.key.crew))).map (·.2)).getD 0x2800
  let crews := s.crews.map (fun c => if c.key.team = x.key then s.readCrew c (at1 c) prot else c)
  let mine := crews.filter (fun c => decide (c.key.team = x.key))
  let gone := mine.all Crew.gone
  let pops := mine.filterMap (fun c => c.pop.map (popOp c core))
  ({ s with crews := crews, fl := { s.fl with ops := s.fl.ops ++ pops } }.mapTeam x.key (fun _ => if gone then { t with st := .ended } else t)).resubmit x a core prot

/-- The restore of a saved gang onto cores, from the image at the PREEMPT's area. -/
def State.restoreGang (s : State) (g : Gang) (p : PreemptOp) (at0 : List (Team × Nat)) : State :=
  let prot := (s.launchOf g.launch).any (·.prot)
  let im := s.imagesOf g
  let core (t : Team) : Nat := ((at0.find? (fun y => decide (y.1.key = t.key))).map (·.2)).getD t.core
  let s := s.clearCores (at0.map (·.2))
  let s : State := { s with dev := s.dev.zeroCounts (s.joining g.launch (at0.map (·.2))) }
  let (s, _, _) := s.readRange p.area im.2 g.launch
  match im.1.findSome? (fun x => (s.foulImage x.1 (p.area + x.2) prot).map (foulKill x.1 (core x.1))) with
  | some k => (s.requestKill g.launch g.num k false).answered { g with kill := some k } p 5 0
  | none =>
    let s := im.1.foldl (fun s x => s.restoreTeam x.1 (p.area + x.2) (core x.1) prot) s
    let s := s.mapGang g.launch g.num (fun x => { x with st := .running })
    s.answered g p 0 im.2

/-- GANG_RESTORE: the first PREEMPT of a gang, a restore, is carried out; it waits for free park records (R182, R376). -/
def execGangRestore (gang : Nat) (s : State) : Host.Outcome State Fault Refusal :=
  event (fun s =>
    match s.gangs[gang]? with
    | some g =>
      match g.todo with
      | p :: _ =>
        if p.save || (match g.kill with
            | some k => decide (k.cause ≠ 12#8)
            | none => false) then .error .disabled
        else match s.preemptLate g false with
          | some st => .ok (s.answered g p st 0)
          | none =>
            let ts := sortBy (fun (a b : Team) => decide (a.lcore < b.lcore)) (s.teamsOf g.launch g.num)
            let at0 := ts.zip (s.coresOf p.cluster)
            let fits := decide (at0.length = ts.length) && at0.all (fun x =>
              match (s.launchOf g.launch).bind (fun l => l.types[x.1.type]?) with
              | some ty => (needOf (ty :: s.typesAt x.2 g.launch g.num)).fits
              | none => true)
            if !fits then .ok (s.answered g p 3 0)
            else
              let room := (s.imagesOf g).1.all (fun x =>
                match at0.find? (fun y => decide (y.1.key = x.1.key)) with
                | some y => decide (((s.parkStarts (p.area + x.2)).foldl (fun n z => n + z.2) 0) ≤ (s.parkFree y.2).length)
                | none => true)
              if room then .ok (s.restoreGang g p at0) else .error .disabled
      | [] => .error .disabled
    | none => .error .disabled) s

/-! ### Time slices (R344) -/

/-- The teams of a physical cluster in a state. -/
def State.teamsIn (s : State) (cluster : Nat) (st : TeamSt) : List Team :=
  s.teams.filter (fun t => decide (clusterOf t.core = cluster) && decide (t.st = st))

/-- An entry can be dispatched to a crew that waits in POP. -/
def State.servable (s : State) (c : Crew) : Bool :=
  match c.pop, s.teamOf c.key.team, s.launchOf c.key.team.launch with
  | some p, some t, some l => (s.chosen l t c.key p.sel).isSome
  | _, _, _ => false

/-- A crew waits in POP (R344): it has begun no group, waits in no phase, and every entry that is not blocked has been found to
wait for what its POP will write; until then it issues on (R355). -/
def Crew.inPop (c : Crew) : Bool :=
  match c.pop with
  | some p => c.group.isNone && decide (c.wait = .free) && c.entries.all (fun e =>
      e.blocked || (decide (e.hold = .free) && decide (e.popWait = some p.op)))
  | none => false

/-- The places of teams' images in the device's pool: those of a core one after another, 4 KiB apart at least (R375). -/
def State.slicePlaces (s : State) (ts : List Team) : List (Team × Nat) :=
  ts.foldl (fun (acc : List (Team × Nat)) t =>
    let next := match (acc.filter (fun x => decide (x.1.core = t.core))).getLast? with
      | some x => (x.2 + x.1.imageSize (s.crewsOf x.1.key) + 4095) / 4096 * 4096
      | none => Config.slicePool + Config.sliceStride * t.core
    acc ++ [(t, next)]) []

/-- Teams leave their cores for a time slice by the steps of R372: held CWRs are withdrawn, POPs issue afresh, and parked
lanes are not waited for.  A team whose save meets an uncorrectable error has its gang killed instead.  A crew keeps in State
what its POP waits for, by which R344 finds it work.  Answers also the state whose images are saved, and their places. -/
def State.sliceOut (s : State) (leaving : TeamKey → Bool) : State × State × List (Team × Nat) :=
  let s := s.withdraw leaving
  let pops := s.crews.map (·.pop)
  let s : State := { s with
    crews := s.crews.map (fun c => if leaving c.key.team then c.leave else c)
    teams := s.teams.map (fun t => if leaving t.key then t.readScratch [(0, 4096 * t.spu)] else t) }
  let goes := sortBy (fun (a b : Team) => decide (a.index < b.index)) (s.teams.filter (fun t => leaving t.key))
  let errs := goes.filterMap (fun t => (s.saveError t).map (fun k => (t.key, k)))
  let failed (k : TeamKey) : Bool := errs.any (fun x => k.within x.1.launch x.1.gang)
  let places := s.slicePlaces (goes.filter (fun t => !failed t.key))
  let s0 := s
  let place (k : TeamKey) : Option Nat := (places.find? (fun x => decide (x.1.key = k))).map (·.2)
  let s : State := { s with
    fl := s.fl.drop leaving
    crews := (s.crews.zip pops).map (fun x => if leaving x.1.key.team then
      { x.1 with pop := x.2.map (fun p => { p with back := x.1.pop.isNone }) } else x.1)
    teams := s.teams.map (fun t =>
      if leaving t.key then { t with
        st := if t.st = .running then .sliced else t.st
        slice := place t.key
        parkKeep := s0.keepParks t.key }
      else t) }
  (errs.foldl (fun s x => s.requestKill x.1.launch x.1.gang x.2 false) s.sweepFaults, s0, places)

/-- The images of teams that have left are written to the pool; those of the teams that come back lay there before, and
have been read (R375). -/
def State.sliceWrite (s s0 : State) (places : List (Team × Nat)) : State :=
  let prot (k : TeamKey) : Bool := (s0.launchOf k.launch).any (·.prot)
  let s := places.zipIdx.foldl (fun s x =>
    s.writeTeam s0 x.1.1 x.1.2 (prot x.1.1.key) (fun i => Config.pick (s0.free + 96 * x.2 + i))) s
  { s with free := s.free + 96 * places.length }

/-- The records that a team's image would put back into its core's park queue. -/
def State.parksIn (s : State) (t : Team) : Nat :=
  match t.slice with
  | some a => (s.parkStarts a).foldl (fun n z => n + z.2) 0
  | none => 0

/-- Every core has free park records for the teams that come back to it (R182). -/
def State.parkRoom (s : State) (coming : List Team) : Bool :=
  coming.all (fun t => decide (((coming.filter (fun u => decide (u.core = t.core))).foldl (fun n u => n + s.parksIn u) 0) ≤
    (s.parkFree t.core).length))

/-- Teams come back from the pool by the steps of R376; one that has never run starts as it was created. -/
def State.sliceIn (s : State) (coming : List Team) : State :=
  coming.foldl (fun s t =>
    let prot := (s.launchOf t.key.launch).any (·.prot)
    let back (s : State) : State := s.mapTeam t.key (fun t => { t with
      st := if t.st = .sliced then .running else t.st
      slice := none })
    match t.slice with
    | none => back s
    | some a =>
      let (s, _, _) := s.readRange a (t.imageSize (s.crewsOf t.key)) t.key.launch
      match s.foulImage t a prot with
      | some ln => (back s).requestKill t.key.launch t.key.gang (foulKill t t.core ln) false
      | none => s.restoreTeam t a t.core prot) s

/-- TIME_SLICE_SWITCH: at a task boundary the logical cluster that runs on a physical cluster leaves and the other comes
back, their images in the device's own pool (R344, R375); it waits for the park records that the other needs (R182). -/
def execTimeSliceSwitch (cluster : Nat) (s : State) : Host.Outcome State Fault Refusal :=
  event (fun s =>
    match s.teamsIn cluster .sliced with
    | [] => .error .disabled
    | x :: _ =>
      let mine (t : Team) : Bool := decide (t.key.launch = x.key.launch) && decide (t.lcore / 8 = x.lcore / 8)
      let held := (s.held cluster).filter (fun o => !(decide (o.1.id = x.key.launch) && decide (o.2 = x.lcore / 8)))
      let goes := s.teams.filter (fun t => decide (clusterOf t.core = cluster) && s.onCore t &&
        held.any (fun o => decide (o.1.id = t.key.launch) && decide (o.2 = t.lcore / 8)))
      let coming := s.teams.filter (fun t => decide (clusterOf t.core = cluster) && mine t &&
        (decide (t.st = .sliced) || (s.lingers t && t.slice.isSome)))
      let leaving (k : TeamKey) : Bool := goes.any (fun t => decide (t.key = k))
      let comes (k : TeamKey) : Bool := coming.any (fun t => decide (t.key = k))
      let live := s.crews.filter (fun c => leaving c.key.team && !c.gone)
      let idle := live.all (fun c => c.inPop && !s.servable c && !c.stopped)
      let work := s.crews.any (fun c => comes c.key.team && !c.gone && (s.servable c || !c.started))
      if !(idle && work && s.quiet leaving && decide (s.coresOf cluster ≠ [])) then .error .disabled
      else
        let mark (l : Launch) : Launch :=
          let out := (held.filter (fun o => decide (o.1.id = l.id))).map (·.2)
          let back (c : Nat) : Bool := decide (l.id = x.key.launch) && decide (c = x.lcore / 8)
          { l with sliced := (l.sliced.filter (fun c => !back c) ++ out).eraseDups }
        let (s, s0, places) := s.sliceOut leaving
        let s := { s with launches := s.launches.map mark }
        if s.parkRoom coming then .ok (((s.clearCores (s.coresOf cluster)).sliceIn coming).sliceWrite s0 places)
        else .error .disabled) s

end Sys2Proof.Machine
end

