-- ==== Sys2Proof/Machine/Fabric.lean ====
section
/-!
DEFINITION. What comes from outside the part: requests of other devices and the fabric's own steps (R294 to R303), the
host's accesses (R304 to R311, R346), bring-up and resets (R306, R378 to R380), monitor samples with thermal stretching
(R381 to R384), and the loss of power.
-/

namespace Sys2Proof.Machine

/-! ### Requests of other devices (R297, R301) -/

/-- The device accepts the request (R297). -/
def State.admits (s : State) (r : RemoteReq) : Bool :=
  decide (r.key = s.dev.domkey.setWidth 16) && lineExists r.line &&
    (match r.op with
      | .flip => false
      | .heat => false
      | _ => true)

/-- Offsets of a request lie in its line. -/
def offsetsIn (l : List Nat) (n : Nat) : Bool := !l.isEmpty && l.all (fun o => decide (o + n ≤ 128))

/-- The request is one that a port can carry: bytes and steps inside one line, a known operation (R295). -/
def farSound : RemoteOp → Bool
  | .write bytes _ => offsetsIn (bytes.map (·.1)) 1
  | .atomic op steps => decide (op ≤ 12) && offsetsIn (steps.map (·.1)) (OpKind.atomic op false false).bytes
  | .fadd dbl _ steps => offsetsIn (steps.map (·.1)) (if dbl then 8 else 4)
  | .msadd _ _ _ _ steps => offsetsIn (steps.map (·.1)) 2
  | .cwr _ bytes => offsetsIn (bytes.map (·.1)) 1
  | _ => true

/-- A command of another device that computes on the line: operands read, poison left for the requester to consume, one
write if it wrote (R60, R254). -/
def State.farCompute (s : State) (line : Nat) (offs : List Nat) (f : Line → BitVec 12 → CmdOut) : State × RemoteResp :=
  let gr := granulesOf offs
  let s := s.commandRead line gr 0#32
  let m := s.lineMeta line
  let old := s.lineAt line
  if m.poison &&& gr ≠ 0#4 then (s.takeCycle line, .line old old m.ver (m.poison &&& gr) false 0#5)
  else
    let out := f old m.ver
    let s := if out.bytes.isEmpty then s.takeCycle line else s.homeWrite line out.bytes 0#4 0#32
    let ver := if out.bytes.isEmpty then m.ver else m.ver + 1#12
    (s, .line (s.lineAt line) old ver 0#4 (!out.bytes.isEmpty) out.flags)

/-- Bytes that steps of n bytes touch. -/
def stepOffsets (l : List Nat) (n : Nat) : List Nat := l.flatMap (fun o => (List.range n).map (o + ·))

/-- A request that is admitted is performed at the line's home; none is answered while a CWR is held (R267). -/
def State.performFar (s : State) (r : RemoteReq) : Res State :=
  let old := s.lineAt r.line
  let send (x : State × RemoteResp) : Res State := .ok (x.1.sendFar r.sender r.tag x.2)
  match r.op with
  | .read =>
    let s := s.homeRead r.line allGranules 0#32
    send (s, s.farAnswer r.line old false 0#5)
  | .vers =>
    let s := s.homeRead r.line allGranules 0#32
    send (s, s.farAnswer r.line old false 0#5)
  | .write bytes poison =>
    let s := s.checkVersion r.line 0#32
    let ver := (s.lineMeta r.line).ver + 1#12
    let s := s.homeWrite r.line bytes poison 0#32
    send (s, .line (s.lineAt r.line) old ver (s.lineMeta r.line).poison true 0#5)
  | .atomic op steps =>
    let n := (OpKind.atomic op false false).bytes
    send (s.farCompute r.line (stepOffsets (steps.map (·.1)) n) (fun l _ =>
      atomicSteps l op (steps.map (fun p => (p.1, p.2.1.toNat % 2 ^ (8 * n), p.2.2.toNat % 2 ^ (8 * n))))))
  | .fadd dbl rm steps =>
    let n := if dbl then 8 else 4
    send (s.farCompute r.line (stepOffsets (steps.map (·.1)) n) (fun l _ =>
      fpSteps l dbl rm (steps.map (fun p => (p.1, p.2.toNat % 2 ^ (8 * n))))))
  | .msadd half rm seed key steps =>
    send (s.farCompute r.line (stepOffsets (steps.map (·.1)) 2) (fun l v =>
      msaddSteps l half rm seed v (steps.map (fun p => (key.toNat / 128, p.1, p.2.toNat)))))
  | .cwr expect bytes =>
    let s := s.checkVersion r.line 0#32
    let v := (s.lineMeta r.line).ver
    let h : FarCwr := ⟨r.sender, r.tag, r.line, expect, bytes, s.serial⟩
    let s := { s with serial := s.serial + 1 }
    if v = expect then
      let s := s.homeWrite r.line bytes 0#4 0#32
      send (s, .line (s.lineAt r.line) old (v + 1#12) (s.lineMeta r.line).poison true 0#5)
    else if later expect v ∧ 64 ≤ s.heldAt (homeOf r.line) then .error .disabled
    else .ok (s.farLine h)
  | .flip => .error .disabled
  | .heat => .error .disabled

/-- REMOTE_REQUEST: a request arrives over the fabric; a replayed one gets its answer again, one that R297 does not allow
is refused, every other is performed. -/
def execRemoteRequest (req : RemoteReq) (s : State) : Host.Outcome State Fault Refusal :=
  event (fun s =>
    if !s.dev.ready || !s.dev.portsOn || !farSound req.op then .error .disabled
    else match s.fl.fabTags.find? (fun x => decide (x.1 = req.sender) && decide (x.2.1 = req.tag)) with
      | some x => .ok { s with dev := { s.dev with out := s.dev.out ++ [OutMsg.fabric req.sender req.tag x.2.2] } }
      | none =>
        if s.fl.far.any (fun h => decide (h.sender = req.sender) && decide (h.tag = req.tag)) then .ok s
        else if s.admits req then s.performFar req
        else .ok (s.sendFar req.sender req.tag .refused)) s

/-- An operation has an unanswered request to a device. -/
def MOp.awaits (o : MOp) (device : Nat) : Bool :=
  o.reqs.any (fun r => (decide (r.st = .sent) || decide (r.st = .held)) && (match r.target with
    | .remote d _ => decide (d = device)
    | _ => false))
/-- A copy has an unanswered request to a device. -/
def Copy.awaits (c : Copy) (device : Nat) : Bool :=
  c.lines.any (fun l => !l.done && (match l.asked with
    | some (.remote d _) => decide (d = device)
    | _ => false))

/-- FABRIC_TIMEOUT: no response came within 2 ms; every outstanding request of the gang at a position to the device fails,
and the gang is killed with cause 10 (R301).  DESIGN CHOICE (log entry 121): of several requests the notice names the crew, core
and pc of the oldest operation, else of the oldest copy. -/
def execFabricTimeout (gang device : Nat) (s : State) : Host.Outcome State Fault Refusal :=
  event (fun s =>
    match s.gangs[gang]? with
    | none => .error .disabled
    | some g =>
      let mine (k : CrewKey) : Bool := k.team.within g.launch g.num
      let os := s.fl.ops.filter (fun o => mine o.crew && o.awaits device)
      let cs := s.fl.copies.filter (fun c => mine c.crew && c.awaits device)
      let t : Trap := { cause := 10, info := BitVec.ofNat 64 device }
      let who : Option (Nat × CrewKey × Word) := match os, cs with
        | o :: _, _ => some (o.core, o.crew, o.pc)
        | [], c :: _ => some (c.core, c.crew, c.pc)
        | [], [] => none
      match who with
      | none => .error .disabled
      | some (core, k, pc) =>
        if device = 2047 then .error .disabled
        else
          let s := os.foldl (fun s o => s.dropOp o.id) s
          let s := cs.foldl (fun s c => s.dropCopy c.id) s
          .ok (s.trapAfter core k pc t)) s

/-! ### Ports (R294, R303) -/

def Port.off : Port where
  width := 0
  trained := false

/-- A port has trained, or retrained. -/
def Device.setPort (d : Device) (n : Nat) (p : Port) : Device :=
  { d with ports := Cells.set Port.off d.ports n p, portsDown := d.portsDown.filter (fun x => !decide (x = n)) }

/-- LINK_RETRAIN: a port that has trained before has retrained, and posts its notice to queue 3. -/
def execLinkRetrain (port width cause : BitVec 8) (downns : BitVec 32) (peer : BitVec 16) (s : State) :
    Host.Outcome State Fault Refusal :=
  event (fun s =>
    let lanes := [0#8, 1#8, 2#8, 4#8]
    if !s.dev.power || !(Cells.get Port.off s.dev.ports port.toNat).trained || !lanes.contains width ||
        decide (3#8 < cause) || decide (2046#16 < peer) then .error .disabled
    else
      let s := { s with dev := s.dev.setPort port.toNat ⟨width.toNat, true⟩ }
      .ok (s.post 3 (noticeHead 4 0#32 ++ [port, width, cause, 0#8] ++ leBytes 4 downns.toNat ++ leBytes 2 peer.toNat))) s

/-- PORT_TRAINING_COMPLETE: the first training of a port after the write of DEVID, which posts no notice (R378). -/
def execPortTrainingComplete (port width : BitVec 8) (s : State) : Host.Outcome State Fault Refusal :=
  event (fun s =>
    let lanes := [1#8, 2#8, 4#8]
    if !s.dev.power || !s.dev.portsOn || decide (35#8 < port) || !lanes.contains width ||
        (Cells.get Port.off s.dev.ports port.toNat).trained then .error .disabled
    else .ok { s with dev := s.dev.setPort port.toNat ⟨width.toNat, true⟩ }) s

/-! ### The host's window (R307) -/

/-- Something leaves for the host. -/
def State.tell (s : State) (m : OutMsg) : State := { s with dev := { s.dev with out := s.dev.out ++ [m] } }

/-- The physical address of a BAR2 offset. -/
def Device.window (d : Device) (off : BitVec 45) : Nat := d.winbase.toNat + off.toNat

/-- n bytes from an offset lie in BAR2, and at least one is named. -/
def Device.inBar2 (d : Device) (off : BitVec 45) (n : Nat) : Bool :=
  d.ready && decide (1 ≤ n) && decide (off.toNat + n ≤ 2 ^ d.bar2lg)

/-- A TLBINV of the host is under way: a posted write that is not performed, which no later read and no later write of QTAIL
overtakes (R76, R308). -/
def State.hostPosted (s : State) : Bool := s.fl.invs.any (·.host)

/-- HOST_BAR2_READ: served at the homes; a poisoned granule returns all ones, marked poisoned; a byte that does not exist
completes with Completer Abort (R60, R307). -/
def execHostBar2Read (off : BitVec 45) (len : Nat) (s : State) : Host.Outcome State Fault Refusal :=
  event (fun s =>
    if !s.dev.inBar2 off len || s.hostPosted then .error .disabled
    else
      let a := s.dev.window off
      if (List.range len).any (fun i => !paExists (a + i)) then .ok (s.tell .hostAbort)
      else
        let (s, bytes, foul) := s.readRange a len 0#32
        .ok (s.tell (.hostRead (if foul then List.replicate len 0xFF#8 else bytes) foul))) s

/-- HOST_BAR2_WRITE: one write per line touched (R46, R307). -/
def execHostBar2Write (off : BitVec 45) (bytes : List (BitVec 8)) (s : State) : Host.Outcome State Fault Refusal :=
  event (fun s =>
    if !s.dev.inBar2 off bytes.length then .error .disabled
    else
      let a := s.dev.window off
      if (List.range bytes.length).any (fun i => !paExists (a + i)) then .ok (s.tell .hostAbort)
      else .ok (s.writeRange a bytes 0#32)) s

/-! ### BAR0 (R305, R306, R311, R346) -/

/-- A write of DEVID: 2,047 is ignored, and so is any write while a launch runs; the ports begin to train (R297, R306,
R378). -/
def State.writeDevid (s : State) (v : Word) : State :=
  let id := v &&& 0x7FF#32
  if !s.launches.isEmpty || decide (id = 0x7FF#32) then s
  else { s with dev := { s.dev with devid := id, portsOn := true } }

/-- A write of DOMKEY (R297); bits [31:16] are not kept (DESIGN CHOICE: log entry 120). -/
def State.writeDomkey (s : State) (v : Word) : State :=
  if s.launches.isEmpty then { s with dev := { s.dev with domkey := v &&& 0xFFFF#32 } } else s

/-- The MSI-X message of a queue, if its binding is enabled (R311). -/
def State.interrupt (s : State) (q : Nat) : State :=
  let bind := Cells.get 0#32 s.dev.msix q
  if bind.getLsbD 7 then s.tell (.msix (bind.setWidth 6)) else s

/-- What follows when the host has added the entry at index i to a queue: its message, and in queue 2 the release of the
ticket that a page-mapped entry names (R74, R311, R348). -/
def State.hostEntry (s : State) (q : Queue) (i : Word) : State :=
  let s := s.interrupt q.num
  if q.num = 2 then
    let (s, e, foul) := s.readRange (q.at i) 32 0#32
    if !foul && decide (e[0]? = some 3#8) then s.releaseTicket ((e[8]?).getD 0#8).toNat else s
  else s

/-- A write of QTAIL (R346). -/
def State.writeQtail (s : State) (n : Nat) (t : Word) : State :=
  match s.queueOf n with
  | some q =>
    let k := (t - q.tail).toNat
    if q.hostVis ∧ k ≤ q.slots - (q.tail - q.head).toNat then
      let s := s.mapQueue n (fun q => { q with tail := t })
      (List.range k).foldl (fun s i => s.hostEntry q (q.tail + BitVec.ofNat 32 i)) s
    else s
  | none => s

/-- An MSI-X binding; one with a bit set that must be 0 is ignored (R311). -/
def Device.bind (d : Device) (q : Nat) (v : Word) : Device :=
  if v &&& 0xFFFFFF40#32 = 0#32 then { d with msix := Cells.set 0#32 d.msix q v } else d

/-- A write of TLBINV by the host, for the launch TLBLAUNCH names (R76). -/
def State.writeTlbinv (s : State) (v : DWord) : State :=
  if v.extractLsb' 56 8 ≠ 0#8 ∨ !s.namesLaunch s.dev.tlblaunch then s
  else
    let (lo, len) := tlbinvRange v
    { s with serial := s.serial + 1 }.startInv s.serial false true s.dev.tlblaunch lo len

/-- DEVID: the host's write of the device identifier (R297, R378). -/
def execDevid (value : BitVec 32) (s : State) : Host.Outcome State Fault Refusal :=
  event (fun s => if s.dev.power then .ok (s.writeDevid value) else .error .disabled) s

/-- QTAIL: the host's write of a queue's tail; before BOOTSTAT reports ready it is ignored (R308, R346, R378). -/
def execQtail (q : BitVec 9) (t : BitVec 32) (s : State) : Host.Outcome State Fault Refusal :=
  event (fun s =>
    if !s.dev.power || s.hostPosted then .error .disabled
    else if s.dev.ready then .ok (s.writeQtail q.toNat t) else .ok s) s

/-- The window base that a value gives at a BAR2 size of 2^n bytes: a multiple of the size, and 0 at 32 TiB (R305, R307);
DEDUCED: at that size a write of any other value is ignored (log entry 111). -/
def winFit (n : Nat) (v : DWord) : DWord := if n = 45 then 0#64 else BitVec.ofNat 64 (v.toNat / 2 ^ n * 2 ^ n)

/-- A write to BAR0 of 4 or 8 bytes at an aligned offset, once the device is ready. -/
def State.writeBar0 (s : State) (off : Nat) (wide : Bool) (v : DWord) : State :=
  let low : Word := v.setWidth 32
  let upper := decide (off % 8 = 4)
  if off = 0x18 then s.writeTlbinv v
  else if off = 0x20 then
    if v.toNat % 2 ^ 45 = 0 then { s with dev := { s.dev with hostbase := v } } else s
  else if off = 0x28 then
    if winFit s.dev.bar2lg v = v then { s with dev := { s.dev with winbase := v } } else s
  else if 0x10000 ≤ off ∧ off < 0x10800 then
    let k := (off - 0x10000) / 4
    let d := s.dev.bind k low
    { s with dev := if wide then d.bind (k + 1) (v.extractLsb' 32 32) else d }
  else if upper then s
  else if off = 0x00 then s.writeDevid low
  else if off = 0x08 then s.writeDomkey low
  else if off = 0x10 then { s with dev := { s.dev with fabctl := v &&& 1#64 } }
  else if off = 0x30 then { s with dev := { s.dev with tlblaunch := low } }
  else if 0x100000 ≤ off ∧ off < 0x101000 then s.writeQtail ((off - 0x100000) / 8) low
  else s

/-- Offsets of the registers that take 8-byte accesses only. -/
def wideOnly (off : Nat) : Bool := decide (0x18 ≤ off) && decide (off < 0x30)

/-- The head and the tail of a queue as the host reads them: QTAIL of a queue that it does not see reads zero (R346), and so
does QHEAD of one that no launch declares (DESIGN CHOICE: log entry 122). -/
def State.qhead (s : State) (n : Nat) : Word := ((s.queueOf n).map (·.head)).getD 0#32
def State.qtail (s : State) (n : Nat) : Word := ((s.queueOf n).map (fun q => if q.hostVis then q.tail else 0#32)).getD 0#32

/-- What the 8-byte slot of BAR0 at an offset reads as (R305, R306, R311, R346, R381). -/
def State.bar0At (s : State) (off : Nat) : DWord :=
  let low (w : Word) : DWord := w.setWidth 64
  if off = 0x00 then low s.dev.devid
  else if off = 0x08 then low s.dev.domkey
  else if off = 0x10 then s.dev.fabctl
  else if off = 0x20 then s.dev.hostbase
  else if off = 0x28 then s.dev.winbase
  else if off = 0x30 then low s.dev.tlblaunch
  else if 0x10000 ≤ off ∧ off < 0x10800 then
    let k := (off - 0x10000) / 4
    Cells.get 0#32 s.dev.msix (k + 1) ++ Cells.get 0#32 s.dev.msix k
  else if 0x100000 ≤ off ∧ off < 0x101000 then low (s.qtail ((off - 0x100000) / 8))
  else if 0x101000 ≤ off ∧ off < 0x102000 then low (s.qhead ((off - 0x101000) / 8))
  else if 0x200000 ≤ off ∧ off < 0x400000 then
    let n := 256 + (off - 0x200000) / 8
    low (if srMonitor n then s.dev.monitor n else 0#32)
  else 0#64

/-- A read of BAR0: 4 or 8 bytes, aligned, and 8 where R305 asks for it; it completes after every earlier write (R305, R308). -/
def State.readBar0 (s : State) (off size : Nat) : State :=
  if s.hostPosted then s
  else if (size ≠ 4 ∧ size ≠ 8) ∨ off % size ≠ 0 ∨ 2 ^ 22 < off + size ∨ (size = 4 ∧ wideOnly off = true) then
    s.tell .hostUnsupported
  else s.tell (.hostRead (leBytes size ((s.bar0At (off / 8 * 8)).toNat >>> (8 * (off % 8)))) false)

/-- BAR0_REGISTER_WRITE: a write of 4 or 8 bytes; one that is not aligned, or is narrow where R305 forbids it, completes
with Unsupported Request; before the device is ready only DEVID and DOMKEY take a write (R305, R378). -/
def execBar0RegisterWrite (off : BitVec 22) (wide : Bool) (value : BitVec 64) (s : State) :
    Host.Outcome State Fault Refusal :=
  event (fun s =>
    let o := off.toNat
    if !s.dev.power then .error .disabled
    else if o % (if wide then 8 else 4) ≠ 0 ∨ (!wide ∧ wideOnly o) then .ok (s.tell .hostUnsupported)
    else if 0x100000 ≤ o ∧ o < 0x101000 ∧ s.hostPosted then .error .disabled
    else if s.dev.ready ∨ o = 0 ∨ o = 8 then .ok (s.writeBar0 o wide value)
    else .ok s) s

/-- BAR2_SIZE_CHANGE: the bits of WINBASE below the new size are cleared, and at 32 TiB all of them (R304, R305, R307). -/
def execBar2SizeChange (log2 : BitVec 6) (s : State) : Host.Outcome State Fault Refusal :=
  event (fun s =>
    let n := log2.toNat
    if !s.dev.power || decide (n < 30) || decide (45 < n) then .error .disabled
    else
      .ok { s with dev := { s.dev with bar2lg := n, winbase := winFit n s.dev.winbase } }) s

/-! ### Bring-up (R306, R378 to R380) -/

/-- The last completed step of a bring-up that ends with a failure cause: 1 stack and 2 SRAM training fail in step 3, 3
the fuse read in step 2. -/
def failStep (fail : BitVec 4) : BitVec 4 := if fail = 0#4 then 6#4 else if fail = 3#4 then 1#4 else 2#4

/-- The registers after the sequence of R378.  The fuses are what they were; TEMP, VOLT, PROC, POWER and STRETCH keep
their last sample, and the corrected-error counters start from zero. -/
def Device.broughtUp (d : Device) (fail : BitVec 4) : Device :=
  { Device.reset with
    step := failStep fail
    fail := fail
    fusedOff := d.fusedOff
    enabled := d.enabled
    monitors := Cells.keep (fun n => decide (n < 306) || decide (448 ≤ n)) d.monitors
    out := d.out }

/-- The whole machine after the sequence of R378; what remains is the model's own scheduling. -/
def State.bringUp (s : State) (fail : BitVec 4) : State :=
  { State.reset with
    dev := s.dev.broughtUp fail
    agenda := s.agenda
    serial := s.serial
    free := s.free }

/-- The sequence of R378 begins, to go step by step: before step 1 completes BOOTSTAT shows step 0 and every other register has
its reset value (R306), and nothing of what ran before is left (DESIGN CHOICE: log entry 110). -/
def State.beginBoot (s : State) (fail : BitVec 4) : State :=
  let t := s.bringUp 0#4
  { t with mem := s.mem, dev := { t.dev with step := 0#4, boot := some fail } }

/-- The next step of the sequence of R378 completes, or the sequence ends with its failure cause (R380). -/
def State.bootNext (s : State) : State :=
  match s.dev.boot with
  | none => s
  | some f =>
    if f ≠ 0#4 ∧ s.dev.step = failStep f then { s with dev := { s.dev with fail := f, boot := none } }
    else
      let k := s.dev.step + 1#4
      let s := { s with dev := { s.dev with step := k, boot := if k = 6#4 then none else some f } }
      if k = 4#4 then { s with
        mem := Mem.reset
        dev := { s.dev with monitors := Cells.keep (fun n => decide (n < 306) || decide (448 ≤ n)) s.dev.monitors } }
      else if k = 5#4 then { s with queues := [Queue.seven], dev := { s.dev with rp := [], rings := [] } }
      else s

/-- A failure cause of R382. -/
def failOk (fail : BitVec 4) : Bool := fail.ule 3#4

/-- POWER_ON: bring-up from no power (R378). -/
def execPowerOn (fail : BitVec 4) (s : State) : Host.Outcome State Fault Refusal :=
  event (fun s => if !s.dev.power && failOk fail then .ok (s.bringUp fail) else .error .disabled) s
/-- FUNDAMENTAL_RESET: PCIe fundamental reset performs the whole sequence (R378). -/
def execFundamentalReset (fail : BitVec 4) (s : State) : Host.Outcome State Fault Refusal :=
  event (fun s => if s.dev.power && failOk fail then .ok (s.bringUp fail) else .error .disabled) s
/-- FUNCTION_LEVEL_RESET: PCIe function-level reset performs the whole sequence (R378). -/
def execFunctionLevelReset (fail : BitVec 4) (s : State) : Host.Outcome State Fault Refusal :=
  event (fun s => if s.dev.power && failOk fail then .ok (s.bringUp fail) else .error .disabled) s

/-- Power is gone: nothing is kept but the fuses. -/
def State.powerOff (s : State) : State :=
  { s.bringUp 0#4 with dev := { (s.dev.broughtUp 0#4) with power := false, step := 0#4, monitors := [] } }

/-- BOARD_POWER_REMOVAL: the board's own sensor reads 135 degrees and it removes power (R384). -/
def execBoardPowerRemoval (s : State) : Host.Outcome State Fault Refusal :=
  event (fun s => if s.dev.power then .ok s.powerOff else .error .disabled) s
/-- POWER_LOSS: power goes off; the fused values are read again at power-on (R379). -/
def execPowerLoss (s : State) : Host.Outcome State Fault Refusal :=
  event (fun s => if s.dev.power then .ok s.powerOff else .error .disabled) s

/-! ### Monitors and stretching (R382 to R384) -/

/-- The monitors that samples write: TEMP, VOLT, PROC and POWER, with their zero bits. -/
def sampled (n : Nat) (v : Word) : Bool :=
  let short := decide (v.extractLsb' 16 16 = 0#16)
  if n < 256 then false
  else if n < 304 then short
  else if n < 306 then true
  else decide (n = 449) && short

/-- The stretch level of a cluster (R383). -/
def Device.level (d : Device) (c : Nat) : Nat :=
  ((Cells.get 0#32 d.monitors (458 + c / 16)).extractLsb' (2 * (c % 16)) 2).toNat

/-- The STRETCH word with a cluster's level. -/
def Device.setLevel (d : Device) (c k : Nat) : Device :=
  let n := 458 + c / 16
  let sh := 2 * (c % 16)
  let w := (Cells.get 0#32 d.monitors n &&& ~~~(3#32 <<< sh)) ||| (BitVec.ofNat 32 k <<< sh)
  { d with monitors := Cells.set 0#32 d.monitors n w }

/-- The threshold of a level, in sixteenths of a degree (R383). -/
def threshold (k : Nat) : Int := 16 * (100 + 10 * ((k : Int) - 1))

/-- The level after a sample: it rises to the highest whose threshold is reached, or falls by one when TEMP is more than
5 degrees below the threshold of the present one. -/
def nextLevel (level : Nat) (t : Int) : Nat :=
  let up := if threshold 3 ≤ t then 3 else if threshold 2 ≤ t then 2 else if threshold 1 ≤ t then 1 else 0
  if level < up then up
  else if 0 < level ∧ t < threshold level - 80 then level - 1
  else level

/-- MONITOR_SAMPLE: a monitor takes a value; a TEMP sample re-evaluates its cluster's level, and a change appends a thermal
notice to queue 6. -/
def execMonitorSample (number : BitVec 9) (value : BitVec 32) (s : State) : Host.Outcome State Fault Refusal :=
  event (fun s =>
    let n := number.toNat
    if !s.dev.power || !sampled n value then .error .disabled
    else
      let dev := { s.dev with monitors := Cells.set 0#32 s.dev.monitors n value }
      if n < 288 then
        let c := n - 256
        let prev := dev.level c
        let next := nextLevel prev (value.setWidth 16).toInt
        if next = prev then .ok { s with dev := dev }
        else .ok ({ s with dev := dev.setLevel c next }.post 6
          (noticeHead 7 0#32 ++ [BitVec.ofNat 8 c, BitVec.ofNat 8 next, BitVec.ofNat 8 prev, 0#8] ++
            leBytes 2 (value.setWidth 16).toNat))
      else .ok { s with dev := dev }) s

end Sys2Proof.Machine
end

