-- ==== Sys2Proof/Machine/Integer.lean ====
section
/-!
DEFINITION. The integer, bit, address, compare and select instructions (R188 to R195), one meaning per row over the
values of Operands.lean.
-/

namespace Sys2Proof.Machine

/-- IADD: d := a + b (R189). -/
def execIadd (d a b : BitVec 7) (s : State) : Host.Outcome State Fault Refusal :=
  issueCrew (.iadd d a b) (bin d a b (· + ·)) s

/-- IADDC: carry out of a + b (R189). -/
def execIaddc (d a b : BitVec 7) (s : State) : Host.Outcome State Fault Refusal :=
  issueCrew (.iaddc d a b) (bin d a b carryOut) s

/-- ISUB: d := a - b (R189). -/
def execIsub (d a b : BitVec 7) (s : State) : Host.Outcome State Fault Refusal :=
  issueCrew (.isub d a b) (bin d a b (· - ·)) s

/-- ISUBB: borrow out of a - b (R189). -/
def execIsubb (d a b : BitVec 7) (s : State) : Host.Outcome State Fault Refusal :=
  issueCrew (.isubb d a b) (bin d a b borrowOut) s

/-- IMIN_I32: signed minimum (R189). -/
def execIminI32 (d a b : BitVec 7) (s : State) : Host.Outcome State Fault Refusal :=
  issueCrew (.iminI32 d a b) (bin d a b minS) s

/-- IMIN_Z32: unsigned minimum (R189). -/
def execIminZ32 (d a b : BitVec 7) (s : State) : Host.Outcome State Fault Refusal :=
  issueCrew (.iminZ32 d a b) (bin d a b minU) s

/-- IMAX_I32: signed maximum (R189). -/
def execImaxI32 (d a b : BitVec 7) (s : State) : Host.Outcome State Fault Refusal :=
  issueCrew (.imaxI32 d a b) (bin d a b maxS) s

/-- IMAX_Z32: unsigned maximum (R189). -/
def execImaxZ32 (d a b : BitVec 7) (s : State) : Host.Outcome State Fault Refusal :=
  issueCrew (.imaxZ32 d a b) (bin d a b maxU) s

/-- AND: a and b (R189). -/
def execAnd (d a b : BitVec 7) (s : State) : Host.Outcome State Fault Refusal :=
  issueCrew (.and d a b) (bin d a b (· &&& ·)) s

/-- OR: a or b (R189). -/
def execOr (d a b : BitVec 7) (s : State) : Host.Outcome State Fault Refusal :=
  issueCrew (.or d a b) (bin d a b (· ||| ·)) s

/-- XOR: a xor b (R189). -/
def execXor (d a b : BitVec 7) (s : State) : Host.Outcome State Fault Refusal :=
  issueCrew (.xor d a b) (bin d a b (· ^^^ ·)) s

/-- ANDN: a and not b (R189). -/
def execAndn (d a b : BitVec 7) (s : State) : Host.Outcome State Fault Refusal :=
  issueCrew (.andn d a b) (bin d a b (fun x y => x &&& ~~~y)) s

/-- SHL: shift left, 0 from count 32 on (R189). -/
def execShl (d a b : BitVec 7) (s : State) : Host.Outcome State Fault Refusal :=
  issueCrew (.shl d a b) (bin d a b shl) s

/-- SHR: shift right (R189). -/
def execShr (d a b : BitVec 7) (s : State) : Host.Outcome State Fault Refusal :=
  issueCrew (.shr d a b) (bin d a b shr) s

/-- SAR: arithmetic shift right (R189). -/
def execSar (d a b : BitVec 7) (s : State) : Host.Outcome State Fault Refusal :=
  issueCrew (.sar d a b) (bin d a b sar) s

/-- IABS: |a|; -2^31 stays (R189). -/
def execIabs (d a : BitVec 7) (s : State) : Host.Outcome State Fault Refusal :=
  issueCrew (.iabs d a) (un d a absW) s

/-- IADD_64: d := a + b on pairs (R189). -/
def execIadd64 (d a b : BitVec 7) (s : State) : Host.Outcome State Fault Refusal :=
  issueCrew (.iadd64 d a b) (bin64 d a b (· + ·)) s

/-- IADDC_64: carry out as a 64-bit value (R189). -/
def execIaddc64 (d a b : BitVec 7) (s : State) : Host.Outcome State Fault Refusal :=
  issueCrew (.iaddc64 d a b) (bin64 d a b carryOut) s

/-- ISUB_64: d := a - b (R189). -/
def execIsub64 (d a b : BitVec 7) (s : State) : Host.Outcome State Fault Refusal :=
  issueCrew (.isub64 d a b) (bin64 d a b (· - ·)) s

/-- ISUBB_64: borrow out as a 64-bit value (R189). -/
def execIsubb64 (d a b : BitVec 7) (s : State) : Host.Outcome State Fault Refusal :=
  issueCrew (.isubb64 d a b) (bin64 d a b borrowOut) s

/-- IMIN_I64: signed minimum (R189). -/
def execIminI64 (d a b : BitVec 7) (s : State) : Host.Outcome State Fault Refusal :=
  issueCrew (.iminI64 d a b) (bin64 d a b minS) s

/-- IMIN_Z64: unsigned minimum (R189). -/
def execIminZ64 (d a b : BitVec 7) (s : State) : Host.Outcome State Fault Refusal :=
  issueCrew (.iminZ64 d a b) (bin64 d a b minU) s

/-- IMAX_I64: signed maximum (R189). -/
def execImaxI64 (d a b : BitVec 7) (s : State) : Host.Outcome State Fault Refusal :=
  issueCrew (.imaxI64 d a b) (bin64 d a b maxS) s

/-- IMAX_Z64: unsigned maximum (R189). -/
def execImaxZ64 (d a b : BitVec 7) (s : State) : Host.Outcome State Fault Refusal :=
  issueCrew (.imaxZ64 d a b) (bin64 d a b maxU) s

/-- AND_64: a and b (R189). -/
def execAnd64 (d a b : BitVec 7) (s : State) : Host.Outcome State Fault Refusal :=
  issueCrew (.and64 d a b) (bin64 d a b (· &&& ·)) s

/-- OR_64: a or b (R189). -/
def execOr64 (d a b : BitVec 7) (s : State) : Host.Outcome State Fault Refusal :=
  issueCrew (.or64 d a b) (bin64 d a b (· ||| ·)) s

/-- XOR_64: a xor b (R189). -/
def execXor64 (d a b : BitVec 7) (s : State) : Host.Outcome State Fault Refusal :=
  issueCrew (.xor64 d a b) (bin64 d a b (· ^^^ ·)) s

/-- ANDN_64: a and not b (R189). -/
def execAndn64 (d a b : BitVec 7) (s : State) : Host.Outcome State Fault Refusal :=
  issueCrew (.andn64 d a b) (bin64 d a b (fun x y => x &&& ~~~y)) s

/-- IABS_64: |a| of a pair (R189). -/
def execIabs64 (d a : BitVec 7) (s : State) : Host.Outcome State Fault Refusal :=
  issueCrew (.iabs64 d a) (vec2 d (fun c t => absW (c.src64 a t))) s

/-- SHL_64: shift of a pair by a single count register (R188, R189). -/
def execShl64 (d a b : BitVec 7) (s : State) : Host.Outcome State Fault Refusal :=
  issueCrew (.shl64 d a b) (vec2 d (fun c t => shl (c.src64 a t) (c.src b t))) s

/-- SHR_64: shift of a pair by a single count register (R188, R189). -/
def execShr64 (d a b : BitVec 7) (s : State) : Host.Outcome State Fault Refusal :=
  issueCrew (.shr64 d a b) (vec2 d (fun c t => shr (c.src64 a t) (c.src b t))) s

/-- SAR_64: shift of a pair by a single count register (R188, R189). -/
def execSar64 (d a b : BitVec 7) (s : State) : Host.Outcome State Fault Refusal :=
  issueCrew (.sar64 d a b) (vec2 d (fun c t => sar (c.src64 a t) (c.src b t))) s

/-- IADDI: with the immediate of R30 (R190). -/
def execIaddi (d a : BitVec 7) (i : BitVec 12) (s : State) : Host.Outcome State Fault Refusal :=
  issueCrew (.iaddi d a i) (binI d a i true (· + ·)) s

/-- ANDI: with the immediate of R30 (R190). -/
def execAndi (d a : BitVec 7) (i : BitVec 12) (s : State) : Host.Outcome State Fault Refusal :=
  issueCrew (.andi d a i) (binI d a i false (· &&& ·)) s

/-- ORI: with the immediate of R30 (R190). -/
def execOri (d a : BitVec 7) (i : BitVec 12) (s : State) : Host.Outcome State Fault Refusal :=
  issueCrew (.ori d a i) (binI d a i false (· ||| ·)) s

/-- XORI: with the immediate of R30 (R190). -/
def execXori (d a : BitVec 7) (i : BitVec 12) (s : State) : Host.Outcome State Fault Refusal :=
  issueCrew (.xori d a i) (binI d a i false (· ^^^ ·)) s

/-- SHLI: shift by imm12[4:0] (R190). -/
def execShli (d a : BitVec 7) (c : BitVec 5) (s : State) : Host.Outcome State Fault Refusal :=
  issueCrew (.shli d a c) (fun x => do
    shiftHint x.grp.hints 0
    un d a (fun v => shl v (c.setWidth 32)) x) s

/-- SHRI: shift by imm12[4:0] (R190). -/
def execShri (d a : BitVec 7) (c : BitVec 5) (s : State) : Host.Outcome State Fault Refusal :=
  issueCrew (.shri d a c) (fun x => do
    shiftHint x.grp.hints 1
    un d a (fun v => shr v (c.setWidth 32)) x) s

/-- SARI: shift by imm12[4:0] (R190). -/
def execSari (d a : BitVec 7) (c : BitVec 5) (s : State) : Host.Outcome State Fault Refusal :=
  issueCrew (.sari d a c) (fun x => do
    shiftHint x.grp.hints 2
    un d a (fun v => sar v (c.setWidth 32)) x) s

/-- ICMPI: compare with the sign-extended immediate (R190). -/
def execIcmpi (c : BitVec 3) (s0 : BitVec 1) (p : BitVec 3) (a : BitVec 7) (i : BitVec 12) (s : State) : Host.Outcome State Fault Refusal :=
  issueCrew (.icmpi c s0 p a i) (fun x => do
    let v ← imm12 x.grp.hints i true
    vecP p (fun cr t => intCond c (s0 = 1#1) (cr.src a t) v) x) s

/-- IMUL: low word of the product (R192). -/
def execImul (d a b : BitVec 7) (s : State) : Host.Outcome State Fault Refusal :=
  issueCrew (.imul d a b) (bin d a b (· * ·)) s

/-- IMULH_I32: high word, signed (R192). -/
def execImulhI32 (d a b : BitVec 7) (s : State) : Host.Outcome State Fault Refusal :=
  issueCrew (.imulhI32 d a b) (bin d a b (mulHigh true)) s

/-- IMULH_Z32: high word, unsigned (R192). -/
def execImulhZ32 (d a b : BitVec 7) (s : State) : Host.Outcome State Fault Refusal :=
  issueCrew (.imulhZ32 d a b) (bin d a b (mulHigh false)) s

/-- IMAD: a * b + c (R192). -/
def execImad (d a b : BitVec 7) (s : State) : Host.Outcome State Fault Refusal :=
  issueCrew (.imad d a b) (fun x => vec1 d (fun c t => c.src a t * c.src b t + c.src (x.third d) t) x) s

/-- IMADW_I32: a * b + c in 64 bits (R192). -/
def execImadwI32 (d a b : BitVec 7) (s : State) : Host.Outcome State Fault Refusal :=
  issueCrew (.imadwI32 d a b) (fun x => vec2 d (fun c t => mulWide true (c.src a t) (c.src b t) (c.src64 (x.third d) t)) x) s

/-- IMADW_Z32: a * b + c in 64 bits (R192). -/
def execImadwZ32 (d a b : BitVec 7) (s : State) : Host.Outcome State Fault Refusal :=
  issueCrew (.imadwZ32 d a b) (fun x => vec2 d (fun c t => mulWide false (c.src a t) (c.src b t) (c.src64 (x.third d) t)) x) s

/-- IDIV_I32: with the corners of R192. -/
def execIdivI32 (d a b : BitVec 7) (s : State) : Host.Outcome State Fault Refusal :=
  issueCrew (.idivI32 d a b) (bin d a b (divW true)) s

/-- IDIV_Z32: with the corners of R192. -/
def execIdivZ32 (d a b : BitVec 7) (s : State) : Host.Outcome State Fault Refusal :=
  issueCrew (.idivZ32 d a b) (bin d a b (divW false)) s

/-- IREM_I32: with the corners of R192. -/
def execIremI32 (d a b : BitVec 7) (s : State) : Host.Outcome State Fault Refusal :=
  issueCrew (.iremI32 d a b) (bin d a b (remW true)) s

/-- IREM_Z32: with the corners of R192. -/
def execIremZ32 (d a b : BitVec 7) (s : State) : Host.Outcome State Fault Refusal :=
  issueCrew (.iremZ32 d a b) (bin d a b (remW false)) s

/-- POPC: number of 1 bits (R193). -/
def execPopc (d a : BitVec 7) (s : State) : Host.Outcome State Fault Refusal :=
  issueCrew (.popc d a) (un d a (fun x => BitVec.ofNat 32 (popCount x))) s

/-- CLZ: leading zeros (R193). -/
def execClz (d a : BitVec 7) (s : State) : Host.Outcome State Fault Refusal :=
  issueCrew (.clz d a) (un d a clz) s

/-- CTZ: trailing zeros (R193). -/
def execCtz (d a : BitVec 7) (s : State) : Host.Outcome State Fault Refusal :=
  issueCrew (.ctz d a) (un d a ctz) s

/-- BREV: bit reversal (R193). -/
def execBrev (d a : BitVec 7) (s : State) : Host.Outcome State Fault Refusal :=
  issueCrew (.brev d a) (un d a BitVec.reverse) s

/-- ROT: left rotation by b[4:0] (R193). -/
def execRot (d a b : BitVec 7) (s : State) : Host.Outcome State Fault Refusal :=
  issueCrew (.rot d a b) (bin d a b (fun x y => x.rotateLeft (y.extractLsb' 0 5).toNat)) s

/-- FUNNEL: bits [63:32] of (b, a) shifted left by c[5:0] (R193). -/
def execFunnel (d a b : BitVec 7) (s : State) : Host.Outcome State Fault Refusal :=
  issueCrew (.funnel d a b) (fun x => vec1 d (fun c t => funnel (c.src a t) (c.src b t) (c.src (x.third d) t)) x) s

/-- BFX_I32: signed field (R193). -/
def execBfxI32 (d a b : BitVec 7) (s : State) : Host.Outcome State Fault Refusal :=
  issueCrew (.bfxI32 d a b) (bin d a b (bfx true)) s

/-- BFX_Z32: unsigned field (R193). -/
def execBfxZ32 (d a b : BitVec 7) (s : State) : Host.Outcome State Fault Refusal :=
  issueCrew (.bfxZ32 d a b) (bin d a b (bfx false)) s

/-- BFI: insert into c (R193). -/
def execBfi (d a b : BitVec 7) (s : State) : Host.Outcome State Fault Refusal :=
  issueCrew (.bfi d a b) (fun x => vec1 d (fun c t => bfi (c.src a t) (c.src b t) (c.src (x.third d) t)) x) s

/-- ICMP_32: 32-bit compare (R195). -/
def execIcmp32 (c : BitVec 3) (s0 : BitVec 1) (p : BitVec 3) (a b : BitVec 7) (s : State) : Host.Outcome State Fault Refusal :=
  issueCrew (.icmp32 c s0 p a b) (vecP p (fun cr t => intCond c (s0 = 1#1) (cr.src a t) (cr.src b t))) s

/-- ICMP_64: 64-bit compare (R195). -/
def execIcmp64 (c : BitVec 3) (s0 : BitVec 1) (p : BitVec 3) (a b : BitVec 7) (s : State) : Host.Outcome State Fault Refusal :=
  issueCrew (.icmp64 c s0 p a b) (vecP p (fun cr t => intCond c (s0 = 1#1) (cr.src64 a t) (cr.src64 b t))) s

/-- SEL: a where pN, else b (R195). -/
def execSel (d a b : BitVec 7) (n : BitVec 3) (s : State) : Host.Outcome State Fault Refusal :=
  issueCrew (.sel d a b n) (vec1 d (fun c t => if c.p n.toNat t then c.src a t else c.src b t)) s

/-- LEA_PAIR: a + ext(b) * 2^n on a pair (R195). -/
def execLeaPair (d a b : BitVec 7) (e : BitVec 1) (n : BitVec 3) (s : State) : Host.Outcome State Fault Refusal :=
  issueCrew (.leaPair d a b e n) (vec2 d (fun c t => leaPair (e = 1#1) n.toNat (c.src64 a t) (c.src b t))) s

/-- LEA_32: a + b * 2^n (R195). -/
def execLea32 (d a b : BitVec 7) (e : BitVec 1) (n : BitVec 3) (s : State) : Host.Outcome State Fault Refusal :=
  issueCrew (.lea32 d a b e n) (bin d a b (fun x y => x + (y <<< n.toNat))) s

end Sys2Proof.Machine
end

