-- ==== Sys2Proof/Machine/Dispatch.lean ====
section
/-!
DEFINITION. The dispatch of every row of the opcode table to its meaning.
-/

namespace Sys2Proof.Machine

/-- The meaning of an instruction word that the crew at `cur` issues, or of a step of the machine. -/
def exec (i : Instr) (s : State) : Host.Outcome State Fault Refusal :=
  match i with
  | .trap b => Sys2Proof.Machine.execTrap b s
  | .rdsr d n m => Sys2Proof.Machine.execRdsr d n m s
  | .wrsr a n m => Sys2Proof.Machine.execWrsr a n m s
  | .wrsrTlbinv a => Sys2Proof.Machine.execWrsrTlbinv a s
  | .hintImm p => Sys2Proof.Machine.execHintImm p s
  | .hintG s1 p => Sys2Proof.Machine.execHintG s1 p s
  | .hintC r => Sys2Proof.Machine.execHintC r s
  | .hintCScale a b => Sys2Proof.Machine.execHintCScale a b s
  | .hintRm r => Sys2Proof.Machine.execHintRm r s
  | .hintSc s1 => Sys2Proof.Machine.execHintSc s1 s
  | .hintDep c s1 f => Sys2Proof.Machine.execHintDep c s1 f s
  | .bra g s1 p d => Sys2Proof.Machine.execBra g s1 p d s
  | .jmp p d => Sys2Proof.Machine.execJmp p d s
  | .call p d => Sys2Proof.Machine.execCall p d s
  | .brx a b => Sys2Proof.Machine.execBrx a b s
  | .setprio b => Sys2Proof.Machine.execSetprio b s
  | .syncC a => Sys2Proof.Machine.execSyncC a s
  | .barT a => Sys2Proof.Machine.execBarT a s
  | .rvinit a b => Sys2Proof.Machine.execRvinit a b s
  | .rvarr d b => Sys2Proof.Machine.execRvarr d b s
  | .rvwait a b => Sys2Proof.Machine.execRvwait a b s
  | .quotaGive a b => Sys2Proof.Machine.execQuotaGive a b s
  | .quotaTake a b => Sys2Proof.Machine.execQuotaTake a b s
  | .pop d a => Sys2Proof.Machine.execPop d a s
  | .popTry d a => Sys2Proof.Machine.execPopTry d a s
  | .push d a => Sys2Proof.Machine.execPush d a s
  | .fin a => Sys2Proof.Machine.execFin a s
  | .qstat d a => Sys2Proof.Machine.execQstat d a s
  | .qctl a b => Sys2Proof.Machine.execQctl a b s
  | .iadd d a b => Sys2Proof.Machine.execIadd d a b s
  | .iaddc d a b => Sys2Proof.Machine.execIaddc d a b s
  | .isub d a b => Sys2Proof.Machine.execIsub d a b s
  | .isubb d a b => Sys2Proof.Machine.execIsubb d a b s
  | .iminI32 d a b => Sys2Proof.Machine.execIminI32 d a b s
  | .iminZ32 d a b => Sys2Proof.Machine.execIminZ32 d a b s
  | .imaxI32 d a b => Sys2Proof.Machine.execImaxI32 d a b s
  | .imaxZ32 d a b => Sys2Proof.Machine.execImaxZ32 d a b s
  | .iabs d a => Sys2Proof.Machine.execIabs d a s
  | .and d a b => Sys2Proof.Machine.execAnd d a b s
  | .or d a b => Sys2Proof.Machine.execOr d a b s
  | .xor d a b => Sys2Proof.Machine.execXor d a b s
  | .andn d a b => Sys2Proof.Machine.execAndn d a b s
  | .shl d a b => Sys2Proof.Machine.execShl d a b s
  | .shr d a b => Sys2Proof.Machine.execShr d a b s
  | .sar d a b => Sys2Proof.Machine.execSar d a b s
  | .iadd64 d a b => Sys2Proof.Machine.execIadd64 d a b s
  | .iaddc64 d a b => Sys2Proof.Machine.execIaddc64 d a b s
  | .isub64 d a b => Sys2Proof.Machine.execIsub64 d a b s
  | .isubb64 d a b => Sys2Proof.Machine.execIsubb64 d a b s
  | .iminI64 d a b => Sys2Proof.Machine.execIminI64 d a b s
  | .iminZ64 d a b => Sys2Proof.Machine.execIminZ64 d a b s
  | .imaxI64 d a b => Sys2Proof.Machine.execImaxI64 d a b s
  | .imaxZ64 d a b => Sys2Proof.Machine.execImaxZ64 d a b s
  | .iabs64 d a => Sys2Proof.Machine.execIabs64 d a s
  | .and64 d a b => Sys2Proof.Machine.execAnd64 d a b s
  | .or64 d a b => Sys2Proof.Machine.execOr64 d a b s
  | .xor64 d a b => Sys2Proof.Machine.execXor64 d a b s
  | .andn64 d a b => Sys2Proof.Machine.execAndn64 d a b s
  | .shl64 d a b => Sys2Proof.Machine.execShl64 d a b s
  | .shr64 d a b => Sys2Proof.Machine.execShr64 d a b s
  | .sar64 d a b => Sys2Proof.Machine.execSar64 d a b s
  | .iaddi d a i1 => Sys2Proof.Machine.execIaddi d a i1 s
  | .andi d a i1 => Sys2Proof.Machine.execAndi d a i1 s
  | .ori d a i1 => Sys2Proof.Machine.execOri d a i1 s
  | .xori d a i1 => Sys2Proof.Machine.execXori d a i1 s
  | .shli d a c => Sys2Proof.Machine.execShli d a c s
  | .shri d a c => Sys2Proof.Machine.execShri d a c s
  | .sari d a c => Sys2Proof.Machine.execSari d a c s
  | .icmpi c s1 p a i1 => Sys2Proof.Machine.execIcmpi c s1 p a i1 s
  | .imul d a b => Sys2Proof.Machine.execImul d a b s
  | .imulhI32 d a b => Sys2Proof.Machine.execImulhI32 d a b s
  | .imulhZ32 d a b => Sys2Proof.Machine.execImulhZ32 d a b s
  | .imad d a b => Sys2Proof.Machine.execImad d a b s
  | .imadwI32 d a b => Sys2Proof.Machine.execImadwI32 d a b s
  | .imadwZ32 d a b => Sys2Proof.Machine.execImadwZ32 d a b s
  | .idivI32 d a b => Sys2Proof.Machine.execIdivI32 d a b s
  | .idivZ32 d a b => Sys2Proof.Machine.execIdivZ32 d a b s
  | .iremI32 d a b => Sys2Proof.Machine.execIremI32 d a b s
  | .iremZ32 d a b => Sys2Proof.Machine.execIremZ32 d a b s
  | .popc d a => Sys2Proof.Machine.execPopc d a s
  | .clz d a => Sys2Proof.Machine.execClz d a s
  | .ctz d a => Sys2Proof.Machine.execCtz d a s
  | .brev d a => Sys2Proof.Machine.execBrev d a s
  | .rot d a b => Sys2Proof.Machine.execRot d a b s
  | .funnel d a b => Sys2Proof.Machine.execFunnel d a b s
  | .bfxI32 d a b => Sys2Proof.Machine.execBfxI32 d a b s
  | .bfxZ32 d a b => Sys2Proof.Machine.execBfxZ32 d a b s
  | .bfi d a b => Sys2Proof.Machine.execBfi d a b s
  | .icmp32 c s1 p a b => Sys2Proof.Machine.execIcmp32 c s1 p a b s
  | .icmp64 c s1 p a b => Sys2Proof.Machine.execIcmp64 c s1 p a b s
  | .sel d a b n => Sys2Proof.Machine.execSel d a b n s
  | .leaPair d a b e s1 => Sys2Proof.Machine.execLeaPair d a b e s1 s
  | .lea32 d a b e s1 => Sys2Proof.Machine.execLea32 d a b e s1 s
  | .uadd d a b w => Sys2Proof.Machine.execUadd d a b w s
  | .usub d a b w => Sys2Proof.Machine.execUsub d a b w s
  | .umul d a b => Sys2Proof.Machine.execUmul d a b s
  | .umad d a b => Sys2Proof.Machine.execUmad d a b s
  | .uand d a b w => Sys2Proof.Machine.execUand d a b w s
  | .uor d a b w => Sys2Proof.Machine.execUor d a b w s
  | .uxor d a b w => Sys2Proof.Machine.execUxor d a b w s
  | .ushl d a b w => Sys2Proof.Machine.execUshl d a b w s
  | .ushr d a b w => Sys2Proof.Machine.execUshr d a b w s
  | .usar d a b w => Sys2Proof.Machine.execUsar d a b w s
  | .ucmpI d a b c => Sys2Proof.Machine.execUcmpI d a b c s
  | .ucmpZ d a b c => Sys2Proof.Machine.execUcmpZ d a b c s
  | .usel d a b w => Sys2Proof.Machine.execUsel d a b w s
  | .uld d a w => Sys2Proof.Machine.execUld d a w s
  | .uaddi d a i1 => Sys2Proof.Machine.execUaddi d a i1 s
  | .umovi d i1 => Sys2Proof.Machine.execUmovi d i1 s
  | .mov d a => Sys2Proof.Machine.execMov d a s
  | .movi d i1 => Sys2Proof.Machine.execMovi d i1 s
  | .movu d a w => Sys2Proof.Machine.execMovu d a w s
  | .movs w d a n => Sys2Proof.Machine.execMovs w d a n s
  | .rfal w d a => Sys2Proof.Machine.execRfal w d a s
  | .shfl d a b => Sys2Proof.Machine.execShfl d a b s
  | .bfly d a m => Sys2Proof.Machine.execBfly d a m s
  | .crewAll p s1 q => Sys2Proof.Machine.execCrewAll p s1 q s
  | .crewAny p s1 q => Sys2Proof.Machine.execCrewAny p s1 q s
  | .crewSame p s1 q => Sys2Proof.Machine.execCrewSame p s1 q s
  | .crewMask d s1 q => Sys2Proof.Machine.execCrewMask d s1 q s
  | .matchB d a => Sys2Proof.Machine.execMatchB d a s
  | .matchB64 d a => Sys2Proof.Machine.execMatchB64 d a s
  | .redux d a t => Sys2Proof.Machine.execRedux d a t s
  | .scan d a t => Sys2Proof.Machine.execScan d a t s
  | .scanEx d a t => Sys2Proof.Machine.execScanEx d a t s
  | .matchF d a t => Sys2Proof.Machine.execMatchF d a t s
  | .fadd d a b t => Sys2Proof.Machine.execFadd d a b t s
  | .fsub d a b t => Sys2Proof.Machine.execFsub d a b t s
  | .fmul d a b t => Sys2Proof.Machine.execFmul d a b t s
  | .fmin d a b t => Sys2Proof.Machine.execFmin d a b t s
  | .fmax d a b t => Sys2Proof.Machine.execFmax d a b t s
  | .fabs d a t => Sys2Proof.Machine.execFabs d a t s
  | .fneg d a t => Sys2Proof.Machine.execFneg d a t s
  | .fscale d a b t => Sys2Proof.Machine.execFscale d a b t s
  | .fma d a b t => Sys2Proof.Machine.execFma d a b t s
  | .fdiv d a b t => Sys2Proof.Machine.execFdiv d a b t s
  | .fsqrt d a t => Sys2Proof.Machine.execFsqrt d a t s
  | .frsq d a t => Sys2Proof.Machine.execFrsq d a t s
  | .frcp d a t => Sys2Proof.Machine.execFrcp d a t s
  | .fexp d a t => Sys2Proof.Machine.execFexp d a t s
  | .fexp2 d a t => Sys2Proof.Machine.execFexp2 d a t s
  | .fexp10 d a t => Sys2Proof.Machine.execFexp10 d a t s
  | .fexpm1 d a t => Sys2Proof.Machine.execFexpm1 d a t s
  | .flog d a t => Sys2Proof.Machine.execFlog d a t s
  | .flog2 d a t => Sys2Proof.Machine.execFlog2 d a t s
  | .flog10 d a t => Sys2Proof.Machine.execFlog10 d a t s
  | .flog1p d a t => Sys2Proof.Machine.execFlog1p d a t s
  | .fsin d a t => Sys2Proof.Machine.execFsin d a t s
  | .fcos d a t => Sys2Proof.Machine.execFcos d a t s
  | .ftan d a t => Sys2Proof.Machine.execFtan d a t s
  | .fsinpi d a t => Sys2Proof.Machine.execFsinpi d a t s
  | .fcospi d a t => Sys2Proof.Machine.execFcospi d a t s
  | .fatan d a t => Sys2Proof.Machine.execFatan d a t s
  | .ftanh d a t => Sys2Proof.Machine.execFtanh d a t s
  | .ferf d a t => Sys2Proof.Machine.execFerf d a t s
  | .fcbrt d a t => Sys2Proof.Machine.execFcbrt d a t s
  | .fatan2 d a b t => Sys2Proof.Machine.execFatan2 d a b t s
  | .fhypot d a b t => Sys2Proof.Machine.execFhypot d a b t s
  | .fpow d a b => Sys2Proof.Machine.execFpow d a b s
  | .fdot2 d a b t => Sys2Proof.Machine.execFdot2 d a b t s
  | .fdot4 d a b t => Sys2Proof.Machine.execFdot4 d a b t s
  | .fcmp c p a b t => Sys2Proof.Machine.execFcmp c p a b t s
  | .fclass d a t => Sys2Proof.Machine.execFclass d a t s
  | .frnd d a t => Sys2Proof.Machine.execFrnd d a t s
  | .fexpo d a t => Sys2Proof.Machine.execFexpo d a t s
  | .cvt d a x y => Sys2Proof.Machine.execCvt d a x y s
  | .cvtiF2i d a x y => Sys2Proof.Machine.execCvtiF2i d a x y s
  | .cvtiI2f d a x y => Sys2Proof.Machine.execCvtiI2f d a x y s
  | .quant d a b => Sys2Proof.Machine.execQuant d a b s
  | .deq d a b => Sys2Proof.Machine.execDeq d a b s
  | .pack d a w => Sys2Proof.Machine.execPack d a w s
  | .unpack d a w => Sys2Proof.Machine.execUnpack d a w s
  | .amaxPush d a b => Sys2Proof.Machine.execAmaxPush d a b s
  | .amaxScale d a b => Sys2Proof.Machine.execAmaxScale d a b s
  | .ld d a z o => Sys2Proof.Machine.execLd d a z o s
  | .st d s1 a z => Sys2Proof.Machine.execSt d s1 a z s
  | .lds d a z => Sys2Proof.Machine.execLds d a z s
  | .sts d s1 a z => Sys2Proof.Machine.execSts d s1 a z s
  | .ldv d a z => Sys2Proof.Machine.execLdv d a z s
  | .stv d s1 a z => Sys2Proof.Machine.execStv d s1 a z s
  | .ldc d a z o => Sys2Proof.Machine.execLdc d a z o s
  | .ldw d w a z => Sys2Proof.Machine.execLdw d w a z s
  | .stw d s1 a z => Sys2Proof.Machine.execStw d s1 a z s
  | .wmerge d a b => Sys2Proof.Machine.execWmerge d a b s
  | .wall d => Sys2Proof.Machine.execWall d s
  | .atomAdd d a b w => Sys2Proof.Machine.execAtomAdd d a b w s
  | .redAdd d a b w => Sys2Proof.Machine.execRedAdd d a b w s
  | .atomMin d a b z => Sys2Proof.Machine.execAtomMin d a b z s
  | .redMin d a b z => Sys2Proof.Machine.execRedMin d a b z s
  | .atomMax d a b z => Sys2Proof.Machine.execAtomMax d a b z s
  | .redMax d a b z => Sys2Proof.Machine.execRedMax d a b z s
  | .atomAnd d a b => Sys2Proof.Machine.execAtomAnd d a b s
  | .redAnd d a b => Sys2Proof.Machine.execRedAnd d a b s
  | .atomOr d a b => Sys2Proof.Machine.execAtomOr d a b s
  | .redOr d a b => Sys2Proof.Machine.execRedOr d a b s
  | .atomXor d a b => Sys2Proof.Machine.execAtomXor d a b s
  | .redXor d a b => Sys2Proof.Machine.execRedXor d a b s
  | .atomExch32 d a b => Sys2Proof.Machine.execAtomExch32 d a b s
  | .atomExch64 d a b => Sys2Proof.Machine.execAtomExch64 d a b s
  | .atomCas32 d a b => Sys2Proof.Machine.execAtomCas32 d a b s
  | .atomCas64 d a b => Sys2Proof.Machine.execAtomCas64 d a b s
  | .atomfAddS d a b => Sys2Proof.Machine.execAtomfAddS d a b s
  | .atomfAddD d a b => Sys2Proof.Machine.execAtomfAddD d a b s
  | .atomfRedS d a b => Sys2Proof.Machine.execAtomfRedS d a b s
  | .atomfRedD d a b => Sys2Proof.Machine.execAtomfRedD d a b s
  | .ordAtom c a b => Sys2Proof.Machine.execOrdAtom c a b s
  | .ordClose d a => Sys2Proof.Machine.execOrdClose d a s
  | .resv d b => Sys2Proof.Machine.execResv d b s
  | .msaddBf d a b => Sys2Proof.Machine.execMsaddBf d a b s
  | .msaddH d a b => Sys2Proof.Machine.execMsaddH d a b s
  | .cwr d a b => Sys2Proof.Machine.execCwr d a b s
  | .vers d a => Sys2Proof.Machine.execVers d a s
  | .flip d a => Sys2Proof.Machine.execFlip d a s
  | .ldRs d a z => Sys2Proof.Machine.execLdRs d a z s
  | .stRs32 d a b => Sys2Proof.Machine.execStRs32 d a b s
  | .stRs64 d a b => Sys2Proof.Machine.execStRs64 d a b s
  | .pref a l => Sys2Proof.Machine.execPref a l s
  | .pfenceS d => Sys2Proof.Machine.execPfenceS d s
  | .discLine a => Sys2Proof.Machine.execDiscLine a s
  | .tiledef a b => Sys2Proof.Machine.execTiledef a b s
  | .tiledefClr b => Sys2Proof.Machine.execTiledefClr b s
  | .tilestat d b => Sys2Proof.Machine.execTilestat d b s
  | .trel b => Sys2Proof.Machine.execTrel b s
  | .cpy a b => Sys2Proof.Machine.execCpy a b s
  | .cpyMc d a b => Sys2Proof.Machine.execCpyMc d a b s
  | .cpyOut a => Sys2Proof.Machine.execCpyOut a s
  | .cpyCvt a b => Sys2Proof.Machine.execCpyCvt a b s
  | .xform a b => Sys2Proof.Machine.execXform a b s
  | .xprog a b => Sys2Proof.Machine.execXprog a b s
  | .seal d => Sys2Proof.Machine.execSeal d s
  | .waitb d b => Sys2Proof.Machine.execWaitb d b s
  | .mma m n a b c f => Sys2Proof.Machine.execMma m n a b c f s
  | .mmaG m n a b c f => Sys2Proof.Machine.execMmaG m n a b c f s
  | .mmaCv m n a b c f => Sys2Proof.Machine.execMmaCv m n a b c f s
  | .mmas m n a b c f => Sys2Proof.Machine.execMmas m n a b c f s
  | .accdef a r => Sys2Proof.Machine.execAccdef a r s
  | .accdefClr r => Sys2Proof.Machine.execAccdefClr r s
  | .accz r => Sys2Proof.Machine.execAccz r s
  | .accrd d a c r => Sys2Proof.Machine.execAccrd d a c r s
  | .accrdSt d a c r => Sys2Proof.Machine.execAccrdSt d a c r s
  | .accwr s1 a c r => Sys2Proof.Machine.execAccwr s1 a c r s
  | .accdrain d a r w => Sys2Proof.Machine.execAccdrain d a r w s
  | .accsave d a r => Sys2Proof.Machine.execAccsave d a r s
  | .mwait d i1 => Sys2Proof.Machine.execMwait d i1 s
  | .nop => Sys2Proof.Machine.execNop s
  | .eret => Sys2Proof.Machine.execEret s
  | .ret => Sys2Proof.Machine.execRet s
  | .yield => Sys2Proof.Machine.execYield s
  | .exit => Sys2Proof.Machine.execExit s
  | .gbar => Sys2Proof.Machine.execGbar s
  | .pfenceC => Sys2Proof.Machine.execPfenceC s
  | .discL1 => Sys2Proof.Machine.execDiscL1 s
  | .discK => Sys2Proof.Machine.execDiscK s
  | .rslvWait => Sys2Proof.Machine.execRslvWait s
  | .preemptSave d a => Sys2Proof.Machine.execPreemptSave d a s
  | .preemptRest d a => Sys2Proof.Machine.execPreemptRest d a s
  | .killg d a => Sys2Proof.Machine.execKillg d a s
  | .killgL d a => Sys2Proof.Machine.execKillgL d a s
  | .stRs8 d a b => Sys2Proof.Machine.execStRs8 d a b s
  | .stRs16 d a b => Sys2Proof.Machine.execStRs16 d a b s
  | .stRs128 d a b => Sys2Proof.Machine.execStRs128 d a b s
  | .cpyCvtOut a => Sys2Proof.Machine.execCpyCvtOut a s
  | .xformOut a => Sys2Proof.Machine.execXformOut a s
  | .accload d a r => Sys2Proof.Machine.execAccload d a r s
  | .rslvStat d n => Sys2Proof.Machine.execRslvStat d n s
  | .entryRaised crew thread => Sys2Proof.Machine.execEntryRaised crew thread s
  | .yieldExpire crew thread => Sys2Proof.Machine.execYieldExpire crew thread s
  | .rvarrCount op => Sys2Proof.Machine.execRvarrCount op s
  | .quotaMove crew => Sys2Proof.Machine.execQuotaMove crew s
  | .fastResult op => Sys2Proof.Machine.execFastResult op s
  | .resolverAccept core record => Sys2Proof.Machine.execResolverAccept core record s
  | .resolverSettle core record => Sys2Proof.Machine.execResolverSettle core record s
  | .exactStageSettle core record => Sys2Proof.Machine.execExactStageSettle core record s
  | .matrixCommandStart cmd => Sys2Proof.Machine.execMatrixCommandStart cmd s
  | .matrixCommandRetire cmd => Sys2Proof.Machine.execMatrixCommandRetire cmd s
  | .matrixEscalationSettle cmd cell => Sys2Proof.Machine.execMatrixEscalationSettle cmd cell s
  | .homeCommand op line => Sys2Proof.Machine.execHomeCommand op line s
  | .stackFill line => Sys2Proof.Machine.execStackFill line s
  | .patrolScrub line => Sys2Proof.Machine.execPatrolScrub line s
  | .tableWalk walk => Sys2Proof.Machine.execTableWalk walk s
  | .ticketAssign => Sys2Proof.Machine.execTicketAssign s
  | .tlbinvComplete inv => Sys2Proof.Machine.execTlbinvComplete inv s
  | .loadResponse op => Sys2Proof.Machine.execLoadResponse op s
  | .storePerformed op line => Sys2Proof.Machine.execStorePerformed op line s
  | .requestRetry op line => Sys2Proof.Machine.execRequestRetry op line s
  | .speculativeRequest crew va path => Sys2Proof.Machine.execSpeculativeRequest crew va path s
  | .copyLine copy line => Sys2Proof.Machine.execCopyLine copy line s
  | .tileReady copy => Sys2Proof.Machine.execTileReady copy s
  | .tileDrained team tile => Sys2Proof.Machine.execTileDrained team tile s
  | .batchFinish crew thread batch => Sys2Proof.Machine.execBatchFinish crew thread batch s
  | .amaxRingPush op => Sys2Proof.Machine.execAmaxRingPush op s
  | .ordUpdateAccept op update => Sys2Proof.Machine.execOrdUpdateAccept op update s
  | .heatCloseCount op => Sys2Proof.Machine.execHeatCloseCount op s
  | .remoteRequest req => Sys2Proof.Machine.execRemoteRequest req s
  | .remoteResponse op line resp => Sys2Proof.Machine.execRemoteResponse op line resp s
  | .fabricTimeout gang device => Sys2Proof.Machine.execFabricTimeout gang device s
  | .linkRetrain port width cause downns peer => Sys2Proof.Machine.execLinkRetrain port width cause downns peer s
  | .hostBar2Read off len => Sys2Proof.Machine.execHostBar2Read off len s
  | .hostBar2Write off bytes => Sys2Proof.Machine.execHostBar2Write off bytes s
  | .devid value => Sys2Proof.Machine.execDevid value s
  | .hostTlbinv value => Sys2Proof.Machine.execHostTlbinv value s
  | .qtail q t => Sys2Proof.Machine.execQtail q t s
  | .bar0RegisterWrite off wide value => Sys2Proof.Machine.execBar0RegisterWrite off wide value s
  | .launchRequest => Sys2Proof.Machine.execLaunchRequest s
  | .launchStart => Sys2Proof.Machine.execLaunchStart s
  | .timeSliceSwitch cluster => Sys2Proof.Machine.execTimeSliceSwitch cluster s
  | .dispatch crew => Sys2Proof.Machine.execDispatch crew s
  | .roleGovernor launch => Sys2Proof.Machine.execRoleGovernor launch s
  | .noticeAppend q => Sys2Proof.Machine.execNoticeAppend q s
  | .launchEnd launch => Sys2Proof.Machine.execLaunchEnd launch s
  | .gangKill gang => Sys2Proof.Machine.execGangKill gang s
  | .gangRelaunch gang => Sys2Proof.Machine.execGangRelaunch gang s
  | .dieReset die reason => Sys2Proof.Machine.execDieReset die reason s
  | .dieResetComplete die downus => Sys2Proof.Machine.execDieResetComplete die downus s
  | .gangSave gang => Sys2Proof.Machine.execGangSave gang s
  | .gangRestore gang => Sys2Proof.Machine.execGangRestore gang s
  | .powerOn fail => Sys2Proof.Machine.execPowerOn fail s
  | .fundamentalReset fail => Sys2Proof.Machine.execFundamentalReset fail s
  | .functionLevelReset fail => Sys2Proof.Machine.execFunctionLevelReset fail s
  | .monitorSample number value => Sys2Proof.Machine.execMonitorSample number value s
  | .boardPowerRemoval => Sys2Proof.Machine.execBoardPowerRemoval s
  | .portTrainingComplete port width => Sys2Proof.Machine.execPortTrainingComplete port width s
  | .bar2SizeChange log2 => Sys2Proof.Machine.execBar2SizeChange log2 s
  | .powerLoss => Sys2Proof.Machine.execPowerLoss s

end Sys2Proof.Machine
end

