-- ==== Sys2Proof/Machine/Sched.lean ====
section
/-!
DEFINITION. What happens next: the fetch and issue of one word of a group (R31, R315 to R319), the environment's moves
(replacement, bit errors, clocks, reads and writes of single granules), and, where the agenda names nothing, a default choice.
-/

namespace Sys2Proof.Machine

/-! ### The issue of one word -/

/-- A group that begins at an entry's pc. -/
def Entry.begin (e : Entry) : Group where
  thread := lowThread e.mask
  first := e.pc
  pc := e.pc
  hints := Hints.empty

/-- An entry held by a translation holds its whole crew (R71, R72). -/
def Entry.translating (e : Entry) : Bool :=
  match e.hold with
  | .walk => true
  | .page _ _ => true
  | _ => false

/-- A crew to which the core may offer a slot: it is not stopped, waits in no phase and for no translation, and its team
is on its core. -/
def State.mayIssue (s : State) (n : Nat) : Bool :=
  match s.crews[n]? with
  | some c =>
    !c.stopped && decide (c.wait = .free) && !c.entries.isEmpty && !(c.entries.any Entry.translating) &&
      (match s.teamOf c.key.team with
        | some t => decide (t.st = .running) && s.dev.coreOn t.core
        | none => false)
  | none => false

/-- The word at the group's pc is fetched, decoded and executed; a fetch that fails, or an invalid word, is the group's
trap or miss (R26, R315). -/
noncomputable def issueOne (n choice : Nat) (s : State) : Host.Outcome State Fault Refusal :=
  let s := { s with cur := n }
  match s.context with
  | .ok (_, _, t, l, g, _) =>
    let s := s.fetchTouch t.core l g.pc
    match s.fetch t.core l g.pc choice with
    | .error e => finishIssue s (.error e)
    | .ok w =>
      match decode w with
      | .ok i => exec i s
      | .error _ => finishIssue s (.error (.trap { cause := 1 }))
  | .error _ => .fault .noCrew

/-- A crew with its group begun at an entry. -/
def State.beginGroup (s : State) (n : Nat) (e : Entry) : State :=
  match s.crews[n]? with
  | some c => s.setCrew n { c with group := some e.begin }
  | none => s

/-- The group that crew n stands in, its entry, and the instruction that its next word is. -/
noncomputable def State.wordOf (n choice : Nat) (s : State) : Option (Group × Entry × Instr) :=
  let s := { s with cur := n }
  match s.context with
  | .ok (_, _, t, l, g, e) =>
    match (s.fetchTouch t.core l g.pc).fetch t.core l g.pc choice with
    | .ok w => match decode w with
      | .ok i => some (g, e, i)
      | .error _ => none
    | .error _ => none
  | .error _ => none

/-! ### Fused sequences (R216, R217) -/

/-- Instruction j may follow i in a fused sequence: the rows of R216's table. -/
def fuses (i j : Instr) : Bool :=
  match i with
  | .fmul d _ _ t => match j with
    | .fadd _ a b u => decide (t = u) && (decide (a = d) || decide (b = d))
    | _ => false
  | .fadd d _ _ t => match j with
    | .fmax _ a b u => decide (t = u) && ((decide (a = d) && decide (b = 127#7)) || (decide (b = d) && decide (a = 127#7)))
    | _ => false
  | .cvt d _ m _ => match j with
    | .cvt _ a _ y => decide (a = d) && decide (y = m)
    | _ => false
  | .iadd d _ _ => match j with
    | .leaPair _ a b _ _ => decide (a = d) || decide (b = d)
    | .lea32 _ a b _ _ => decide (a = d) || decide (b = d)
    | _ => false
  | .iadd64 d _ _ => match j with
    | .leaPair _ a b _ _ => decide (a = d) || decide (b = d)
    | .lea32 _ a b _ _ => decide (a = d) || decide (b = d)
    | _ => false
  | .icmp32 _ _ p _ _ => match j with
    | .sel _ _ _ n => decide (n = p)
    | _ => false
  | .icmp64 _ _ p _ _ => match j with
    | .sel _ _ _ n => decide (n = p)
    | _ => false
  | _ => false

/-- The words that may follow an instruction in a fused sequence. -/
def fuseLimit (i : Instr) : Nat :=
  match i with
  | .fmul _ _ _ _ => 2
  | .fadd _ _ _ _ => 1
  | .cvt _ _ _ _ => 1
  | .iadd _ _ _ => 1
  | .iadd64 _ _ _ => 1
  | .icmp32 _ _ _ _ _ => 1
  | .icmp64 _ _ _ _ _ => 1
  | _ => 0

/-- Behind instruction i, which crew n has just issued from the word at pc for the threads m, the words that fuse with it
issue at once: the same entry issues them, without hints, and none traps, misses or waits (R216, R217). -/
noncomputable def State.fuse (n : Nat) (m : BitVec 32) : Nat → Nat → Instr → Word → State → State
  | 0, _, _, _, t => t
  | fuel + 1, choice, i, pc, t =>
    match t.crews[n]? with
    | some c =>
      match c.entryOf (lowThread m) with
      | some e =>
        let u := t.beginGroup n e
        match u.wordOf n choice with
        | some (_, _, j) =>
          if c.group = none ∧ c.stopped = false ∧ t.waited = false ∧ e.mask = m ∧ e.pc = pc + 4#32 ∧ fuses i j = true then
            match issueOne n choice u with
            | .next v => match v.crews[n]? with
              | some x =>
                if v.waited = false ∧ x.stopped = false ∧ x.evec = c.evec then
                  State.fuse n m fuel (choice / 65536) j e.pc v
                else t
              | none => t
            | _ => t
          else t
        | none => t
      | none => t
    | none => t

/-- One word issues and, where it begins a fused sequence, the words fused with it; `choice` picks the value each fetch
returns, 16 bits for each word. -/
noncomputable def issueFused (n choice : Nat) (s : State) : Host.Outcome State Fault Refusal :=
  match issueOne n choice s with
  | .next t => match s.wordOf n choice with
    | some (g, e, i) =>
      .next (if g.hints.count = 0 then t.fuse n e.mask (fuseLimit i) (choice / 65536) i g.pc else t)
    | none => .next t
  | r => r

/-- The group at an entry is tried word by word: nothing where no rule makes it wait, else the machine as the wait leaves
it (R316). -/
noncomputable def trial (n : Nat) : Nat → State → Option State
  | 0, _ => none
  | fuel + 1, s =>
    match issueOne n 0 s with
    | .next t =>
      if t.waited then some t
      else match t.crews[n]? with
        | some c => if c.group.isSome then trial n fuel t else none
        | none => none
    | _ => none

/-- An entry that a trial found waiting keeps since when it waits for park records, what its MWAIT waits on, or for which POP's
registers it waits (R174, R239, R344). -/
def Crew.noteWait (c : Crew) (thread : Nat) (e : Entry) : Crew :=
  c.mapEntry thread (fun x => { x with parkWait := e.parkWait, mwait := e.mwait, popWait := e.popWait })

/-- Tries the entries that may be ready, one after another: the machine with the waits noted, and the ready ones (R316). -/
noncomputable def State.survey (s : State) (n : Nat) : List Entry → State × List Entry
  | [] => (s, [])
  | e :: rest =>
    match trial n 6 (s.beginGroup n e) with
    | none =>
      let r := s.survey n rest
      (r.1, e :: r.2)
    | some t =>
      let th := lowThread e.mask
      match t.crews[n]?, s.crews[n]? with
      | some x, some c => match x.entryOf th with
        | some w => ({ s.setCrew n (c.noteWait th w) with serial := t.serial }).survey n rest
        | none => s.survey n rest
      | _, _ => s.survey n rest

/-- The order of R316: raised entries by position, then priority, then pc. -/
def Entry.before (a b : Entry) : Bool :=
  let rank := decide (b.prio.ult a.prio) || (decide (a.prio = b.prio) && a.pc.ult b.pc)
  match a.raised, b.raised with
  | some x, some y => decide (x < y) || (decide (x = y) && rank)
  | some _, none => true
  | none, some _ => false
  | none, none => rank

/-- The entry that ranks first. -/
def firstEntry (l : List Entry) : Option Entry :=
  l.foldl (fun acc e => match acc with
    | none => some e
    | some b => if e.before b then some e else some b) none

/-- The entries that are neither blocked nor held. -/
def Crew.looseEntries (c : Crew) : List Entry := c.entries.filter (fun e => e.loose && e.waits.isEmpty)

/-- Every YIELD of a crew ends: none of its entries is ready (R322). -/
def State.endYields (s : State) (n : Nat) : State :=
  match s.crews[n]? with
  | some c => s.setCrew n c.awake
  | none => s

/-- The ready entries of a crew; where only one may be ready it is taken without a trial.  A YIELD ends after 16
opportunities, and when no other entry is ready: then those that only a YIELD held back are ready (R322). -/
noncomputable def State.readyEntries (s : State) (n : Nat) (c : Crew) : State × List Entry :=
  match c.looseEntries with
  | [] => (s.endYields n, [])
  | [e] => if e.yield = 0 then (s, [e]) else (s.endYields n, [e.awake])
  | es =>
    let r := s.survey n es
    let now := r.2.filter (fun e => decide (e.yield ≤ 1))
    if now.isEmpty then (r.1.endYields n, r.2.map Entry.awake) else (r.1, now)

/-- The entries a crew passes over grow older, yields run down, and the opportunity is counted (R316, R318, R322). -/
def Crew.passed (c : Crew) (older : List Entry) (thread : Nat) : Crew :=
  { c with
    raises := c.raises + 1
    entries := c.entries.map (fun e =>
      if e.mask.getLsbD thread then e
      else
        let e := if 1 < e.yield then { e with yield := e.yield - 1 } else e
        if older.any (fun x => decide (x.mask = e.mask)) then { e with age := min 1024 (e.age + 1) } else e) }

/-- A crew's entry whose age has reached 1,024 and which is not raised. -/
def Crew.overAged (c : Crew) : Option Nat :=
  (c.entries.find? (fun e => decide (1024 ≤ e.age) && e.raised.isNone)).map (fun e => lowThread e.mask)

/-- The crew at position n has an issue opportunity: an over-aged entry is raised first; else it goes on with its group,
or begins the group of the entry that ranks first, and one word issues, with the words fused with it. A group that ends in
a translation miss before a word of it issued passes the other entries over too (DESIGN CHOICE: log entry 139). -/
noncomputable def issueStep (n choice : Nat) (s : State) : Host.Outcome State Fault Refusal :=
  if s.mayIssue n then
    match s.crews[n]? with
    | some c =>
      match c.overAged with
      | some t => exec (.entryRaised n t) s
      | none =>
        let (s, es) := s.readyEntries n c
        let s1 := match s.crews[n]? with
          | some c => if c.group.isSome then s else match firstEntry es with
            | some e => s.beginGroup n e
            | none => s
          | none => s
        match s1.crews[n]? with
        | some c1 => match c1.group with
          | some g =>
            let other (e : Entry) : Bool := !e.mask.getLsbD g.thread
            let older := es.filter other
            if older.isEmpty && !(c1.looseEntries.any (fun e => other e && decide (1 < e.yield))) then issueFused n choice s1
            else match issueOne n choice s1 with
              | .next t => if t.waited then .next t else issueFused n choice (s1.setCrew n (c1.passed older g.thread))
              | r => r
          | none => .next { s1 with waited := true }
        | none => .next s1
    | none => .next s
  else .next { s with waited := true }

/-! ### The environment -/

/-- Replacement, bit errors, clocks, and what an engine does before the step that would do it by default; a move that names nothing changes nothing. -/
def State.environment (s : State) (m : Move) : State :=
  match m with
  | .evictL1 core line =>
    { s with fl := { s.fl with l1 := s.fl.l1.filter (fun x => !(decide (x.core = core) && decide (x.line = line))) } }
  | .evictK core line =>
    { s with fl := { s.fl with konst := s.fl.konst.filter (fun x => !(decide (x.core = core) && decide (x.line = line))) } }
  | .evictL2 line => { s with mem := { s.mem with resident := s.mem.resident.filter (fun x => !decide (x = line)) } }
  | .evictRemote die dev line =>
    { s with fl := { s.fl with l2 := s.fl.l2.filter (fun x =>
        !(decide (x.die = die) && decide (x.dev = dev) && decide (x.line = line))) } }
  | .evictTlb core va =>
    { s with fl := { s.fl with tlb := s.fl.tlb.filter (fun x => !(decide (x.loc = core) && decide (x.va = va))) } }
  | .evictXtlb cl va =>
    { s with fl := { s.fl with xtlb := s.fl.xtlb.filter (fun x => !(decide (x.loc = cl) && decide (x.va = va))) } }
  | .errLine line g hard =>
    if lineExists line ∧ g < 4 then
      let m := s.lineMeta line
      let b := 1#4 <<< g
      s.setMeta line (if hard then { m with bad := m.bad ||| b } else { m with soft := m.soft ||| b })
    else s
  | .errScratch team w =>
    match s.teams[team]? with
    | some t => if 4 * w < 4096 * t.spu then s.setTeam team { t with scBad := t.scBad ++ [w] } else s
    | none => s
  | .errReg crew r =>
    match s.crews[crew]? with
    | some c => if r < 8 * c.quota then s.setCrew crew { c with vbad := c.vbad ++ [r] } else s
    | none => s
  | .errAcc team row =>
    match s.teams[team]? with
    | some t => if 32 * row < 4096 * t.accu then s.setTeam team { t with accBad := t.accBad ++ [row] } else s
    | none => s
  | .errPark core i =>
    { s with fl := { s.fl with parks := s.fl.parks.map (fun p =>
        if p.core = core ∧ p.idx.contains i then { p with bad := true } else p) } }
  | .errSlot crew r slot v =>
    match s.crews[crew]? with
    | some c =>
      if r < 8 * c.quota ∧ slot < 32 ∧ (s.launchOf c.key.team.launch).any (·.prot) then
        s.setCrew crew { c with vregs := Cells.set 0#32 c.vregs (32 * r + slot) v }
      else s
    | none => s
  | .bar0Read off size => s.readBar0 off size
  | .bar0Odd _ size => if size = 4 ∨ size = 8 then s else s.tell .hostUnsupported
  | .bootNext => s.bootNext
  | .errTwice crew =>
    match s.crews[crew]? with
    | some c => if (s.launchOf c.key.team.launch).any (·.prot) then s.setCrew crew { c with upset := true } else s
    | none => s
  | .tick cl => if cl < 32 then { s with dev := { s.dev with clk := Cells.set 0 s.dev.clk cl (Cells.get 0 s.dev.clk cl + 1) } } else s
  | .reach copy => s.reachLine copy
  | .take copy word => s.takeWord copy word
  | .single op slot => s.singleSlot op slot
  | .land copy tile word => s.landWord copy tile word
  | .peek cmd word => s.peekWord cmd word
  | .keep copy line => s.keepLine copy line
  | .farHold op line => s.farHeld op line
  | .evictCode launch dev line =>
    { s with fl := { s.fl with code := s.fl.code.filter (fun x =>
        !(decide (x.launch = launch) && decide (x.dev = dev) && decide (x.line = line))) } }
  | .baseTick => { s with dev := { s.dev with bclk := s.dev.bclk + 1 }, mem := { s.mem with taken := [] } }
  | _ => s

/-- One move.  A step that the spec does not let happen now is dropped; without power there are only power-on and
nothing. -/
noncomputable def runMove (m : Move) (s : State) : Host.Outcome State Fault Refusal :=
  match m with
  | .event i =>
    match exec i s with
    | .refused _ => .next s
    | r => r
  | .issue n choice => if s.dev.power then issueStep n choice s else .next s
  | .boot fail => if failOk fail then .next (s.beginBoot fail) else .next s
  | _ => if s.dev.power then .next (s.environment m) else .next s

/-! ### The default choice -/

/-- The steps of an operation in flight.  A rejected request is retried until it is aged, so that it comes to a reserved
entry; an aged one is retried when it would be taken, so that none keeps others from their turn (R114, R290). -/
noncomputable def MOp.due (s : State) (o : MOp) : List Instr :=
  o.reqs.zipIdx.flatMap (fun r => match r.1.st with
    | .rejected => if r.1.aged.isNone || s.retryTakes o r.2 r.1 then [.requestRetry o.id r.2] else []
    | .sent => [.homeCommand o.id r.2]
    | .performed => [.storePerformed o.id r.2]
    | _ => []) ++
  (match o.kind with
    | .rvarr _ => [.rvarrCount o.id]
    | .amaxPush _ _ _ _ => [.amaxRingPush o.id]
    | .ordAtom _ => (List.range o.accs.length).map (.ordUpdateAccept o.id)
    | .ordClose _ _ _ => [.heatCloseCount o.id]
    | .scStore _ _ => (List.range o.reqs.length).map (.storePerformed o.id)
    | .flip _ _ => (List.range (max 1 o.reqs.length)).map (.storePerformed o.id)
    | _ => [.loadResponse o.id])

/-- The steps of a copy in flight. -/
noncomputable def Copy.due (c : Copy) : List Instr :=
  (c.lines.zipIdx.filter (fun l => !l.1.done)).map (fun l => .copyLine c.id l.2) ++ [.tileReady c.id]

/-- The steps of matrix commands, staged operations and park records. -/
noncomputable def State.engineDue (s : State) : List Instr :=
  s.fl.cmds.flatMap (fun m => m.left.map (fun x => .matrixEscalationSettle m.id x.1) ++
    [.matrixCommandStart m.id, .matrixCommandRetire m.id]) ++
  s.fl.fasts.map (fun f => .fastResult f.id) ++
  s.fl.parks.flatMap (fun p => match p.stage with
    | .queued => [.resolverAccept p.core (p.idx.headD 0)]
    | .resolver => [.resolverSettle p.core (p.idx.headD 0)]
    | .exact => [.exactStageSettle p.core (p.idx.headD 0)])

/-- The steps of crews and teams: sealed batches, quota moves, dispatches, the end of a YIELD, drained tiles. -/
noncomputable def State.crewDue (s : State) : List Instr :=
  s.crews.zipIdx.flatMap (fun c =>
    c.1.sealedB.map (fun b => .batchFinish c.2 b.thread b.number.toNat) ++
    (if c.1.quotaW.isSome then [.quotaMove c.2] else []) ++ (if c.1.pop.isSome then [.dispatch c.2] else []) ++
    (c.1.entries.filter (fun e => decide (e.yield = 1))).map (fun e => .yieldExpire c.2 (lowThread e.mask))) ++
  s.teams.zipIdx.flatMap (fun t => (t.1.tiles.filter (fun e => (e.2.any (fun x => decide (x.st = .draining))))).map
    (fun e => .tileDrained t.2 e.1))

/-- The control core's steps: notices, gangs, launches, the governor, time slices. -/
noncomputable def State.controlDue (s : State) : List Instr :=
  s.dev.held.map (fun h => .noticeAppend h.1) ++
  (List.range s.gangs.length).flatMap (fun g => [.gangKill g, .gangSave g, .gangRestore g, .gangRelaunch g]) ++
  [.launchRequest, .launchStart] ++ s.launches.map (fun l => .launchEnd l.id) ++
  (s.launches.filter (·.gov)).map (fun l => .roleGovernor l.id) ++
  ((s.teams.filter (fun t => decide (t.st = .sliced))).map (fun t => .timeSliceSwitch (clusterOf t.core))).eraseDups

/-- The steps of the machine itself that may be due, in the order in which the default choice tries them.  Replacement,
scrubs, speculation, errors, samples, resets and what comes from outside are never due: only the agenda names them. -/
noncomputable def State.due (s : State) : List Instr :=
  s.fl.walks.map (fun w => .tableWalk w.id) ++ s.fl.invs.map (fun i => .tlbinvComplete i.id) ++
  s.fl.ops.flatMap (MOp.due s) ++ s.fl.copies.flatMap Copy.due ++ s.engineDue ++ s.crewDue ++
  (if s.fl.faults.any (fun f => decide (f.ticket = 0)) then [.ticketAssign] else []) ++ s.controlDue

/-- The first step of the list that the spec lets happen. -/
noncomputable def firstDue (s : State) : List Instr → Option (Host.Outcome State Fault Refusal)
  | [] => none
  | i :: r => match exec i s with
    | .refused _ => firstDue s r
    | o => some o

/-- The first position at or after `from`, among n positions in rotation, whose crew may issue. -/
def State.nextCrew (s : State) (start : Nat) : Option Nat :=
  let n := s.crews.length
  ((List.range n).map (fun i => (start + i) % n)).find? s.mayIssue

/-- The default choice: the next step of a sequence of R378 under way, else a step that is due, else the next crew in rotation (R317), else nothing. -/
noncomputable def defaultMove (s : State) : Host.Outcome State Fault Refusal :=
  if !s.dev.power then .next s
  else if s.dev.boot.isSome then .next s.bootNext
  else match firstDue s s.due with
    | some o => o
    | none => match s.nextCrew s.turn with
      | some n => issueStep n 0 { s with turn := n + 1 }
      | none => .next s

/-- What step does: the head of the agenda, else the default choice. -/
noncomputable def advance (s : State) : Host.Outcome State Fault Refusal :=
  match s.agenda with
  | m :: rest => runMove m { s with agenda := rest }
  | [] => defaultMove s

/-! ### Placing an instruction where the machine fetches next -/

/-- The team type of a placed instruction: one crew that may name every vector register. -/
def loadType : TeamType where
  pc := 0#32
  prio := 0#6
  crews := 1
  quota := 12
  spu := 62
  accu := 16
  role := 0#4
  rmask := 1#16
  resv := 32#32
  tiles := List.replicate 32 0xFFFFFFFF#32
  accs := List.replicate 16 0xFFFFFFFF#32

/-- A running launch of one gang, one team and one crew, on logical core 0: privileged, its code the one word at virtual
address 0. -/
def loadLaunch (id : Word) (start : Nat) : Launch where
  id := id
  codebase := 0
  database := 0
  codelen := 4
  pt0 := 0x1000000
  seed := 0#64
  det := false
  prot := false
  priv := true
  gov := false
  vzero := false
  tag := 0#32
  retry := 0
  rings := 0#64
  cq := 8
  args := List.replicate 8 0#32
  types := [loadType]
  places := [⟨0, 0, 0, 0⟩]
  grants := []
  dvs := []
  heats := []
  clusters := [(0, 0)]
  sliced := []
  relaunches := 0
  endStatus := none
  start := start

/-- The leaf that maps the first 64 KiB of the loaded launch for execution, to the physical address of its code. -/
def loadLeaf : DWord := 0x02000012#64

/-- The physical address of the loaded code. -/
def loadAt : Nat := 0x02000000

/-- The machine with a launch of one crew loaded as if it had just started (log entry 9), whose code is the given bytes,
and whose crew issues next. -/
def State.load (s : State) (bytes : List Byte) : State :=
  let id := s.dev.nextLid
  let key : TeamKey := ⟨id, 0, 0⟩
  let l := loadLaunch id s.mem.history.length
  let s := s.reside (loadAt / 128)
  { s with
    dev := { s.dev with nextLid := id + 1#32 }
    mem := { s.mem with bytes := bytes.zipIdx.foldl (fun m p => writeByte m (loadAt + p.2) p.1) s.mem.bytes }
    fl := { s.fl with tlb := s.fl.tlb ++ [⟨0, id, 0, 16, loadLeaf, false⟩] }
    launches := s.launches ++ [l]
    gangs := s.gangs ++ [Gang.start id 0]
    teams := s.teams ++ [loadType.team 0 key 0 0 0]
    crews := s.crews ++ [loadType.crew l ⟨key, 0⟩ 0#32]
    agenda := [.issue s.crews.length 0] }

end Sys2Proof.Machine
end

