-- ==== Sys2Proof/Machine/Step.lean ====
section
/-!
DEFINITION. One step of the machine, and the placing of an instruction where the next step fetches.
-/

namespace Sys2Proof.Machine

/-- One step: the move at the head of the agenda, else the default choice (log entry 6). -/
noncomputable def step (s : State) : Host.Outcome State Fault Refusal := advance s

/-- s with the instruction of the given bits loaded where the next step fetches (log entry 9). -/
def State.withFetchWord (s : State) (_nbits w : Nat) : State := s.load (leBytes 4 w)

end Sys2Proof.Machine
end

