-- ==== Sys2Proof/Safety.lean ====
section
/-!
DEFINITION. What counts as a safe step and as a sound state, and the vocabulary of the statements: when an instruction
word issues, and what the machine is after it.
-/

namespace Sys2Proof.Machine

/-- A step that stops neither with a fault nor with a refusal. -/
def State.runs (s : State) : Prop := ∃ t, step s = .next t

/-- The memory and the metadata of its lines keep their canonical forms. -/
def State.sound (s : State) : Bool := memWf s.mem.bytes && Cells.wf LineMeta.clean s.mem.lines

/-- A crew's registers hold nothing at or above its quota (R128, R130). -/
def Crew.regsFit (c : Crew) : Bool := c.vregs.all (fun e => decide (e.1 < 256 * c.quota))

/-- No crew's registers hold anything at or above its quota. -/
abbrev State.regsFit (s : State) : Prop := ∀ c ∈ s.crews, c.regsFit = true

/-! ### Numbers -/

/-- m * 2^e and n * 2^k are the same number. -/
abbrev SameNumber (m : Nat) (e : Int) (n : Nat) (k : Int) : Prop := m * 2 ^ (e - k).toNat = n * 2 ^ (k - e).toNat

/-- A number in units of 2^z, for a z that is not above its exponent; 0 for what is not finite. -/
def Num.units (x : Num) (z : Int) : Int :=
  match x with
  | .fin s m e => (if s then -1 else 1) * (m * 2 ^ (e - z).toNat : Nat)
  | _ => 0

/-- z is not above the exponent of a nonzero finite number of the list. -/
abbrev UnitsFor (z : Int) (l : List Num) : Prop := ∀ s m e, Num.fin s m e ∈ l → m ≠ 0 → z ≤ e

/-- The magnitude, in units of 2^z, of point k of the grid G(f) of R155, counted from zero: the points of the largest codes
go on past the largest finite value. -/
def Fmt.point (f : Fmt) (k : Nat) (z : Int) : Nat :=
  if k < 2 ^ f.mb then k * 2 ^ (f.emin - f.mb - z).toNat
  else (2 ^ f.mb + k % 2 ^ f.mb) * 2 ^ ((k / 2 ^ f.mb : Nat) - (f.bias : Int) - f.mb - z).toNat

/-- A number of magnitude x between the neighbouring magnitudes l and h rounds to h (R155, R157): `odd` says that the last
mantissa bit of l is 1, and r is the mixing word of SR. -/
def roundsAway (rm : BitVec 3) (neg : Bool) (r : Word) (odd : Bool) (l x h : Nat) : Bool :=
  match rm.toNat with
  | 0 => decide (l + h < 2 * x) || (decide (2 * x = l + h) && odd)
  | 1 => false
  | 2 => !neg
  | 3 => neg
  | 4 => decide (l + h ≤ 2 * x)
  | _ => if neg then decide ((h - x) * 2 ^ 32 ≤ r.toNat * (h - l)) else decide (r.toNat * (h - l) < (x - l) * 2 ^ 32)

/-- The sum of numbers, rounded once (R201, R214): NaN operands, infinities of both signs, an infinity, the sign of an exact
zero, and else the exact sum, which is taken in units of 2^z; `r` is the mixing word of SR. -/
def sumRounded (f : Fmt) (rm : BitVec 3) (l : List Num) (z : Int) (r : Word := 0#32) : Nat × BitVec 5 :=
  let opposed := decide (Num.inf false ∈ l ∧ Num.inf true ∈ l)
  if opposed || l.any Num.isNan then (f.nan, if opposed || l.any Num.isSig then flInvalid else 0#5)
  else if Num.inf false ∈ l then (f.inf false, 0#5)
  else if Num.inf true ∈ l then (f.inf true, 0#5)
  else
    let v : Int := (l.map (fun x => x.units z)).sum
    if v = 0 then
      (f.zero (decide (l ≠ []) && (decide (rm = 3#3) || l.all (fun x => x.isZero && x.neg))), 0#5)
    else f.round rm r (magOf (decide (v < 0)) v.natAbs z)

/-- Every nonzero bit of every finite addend lies at most 120 positions below the leading bit of the largest (R210). -/
abbrev Held (l : List Num) (z : Int) : Prop :=
  ∀ x ∈ l, ∀ y ∈ l, 2 ^ ((y.units z).natAbs.log2 - 120) ∣ (x.units z).natAbs

/-- A lane holds the sum of the addends l, rounded once, and is decided without the test where its form never parks, where an
addend is no finite number, and where all addends are held (R209, R210, R214). -/
abbrev SumLane (f : Fmt) (rm : BitVec 3) (parks : Bool) (l : List Num) (x : Lane) : Prop :=
  ∀ z, UnitsFor z l → (x.bits, x.flags) = sumRounded f rm l z ∧
    (x.test = none ↔ parks = false ∨ (∃ y ∈ l, y.isNan = true ∨ y.isInf = true) ∨ Held l z)

/-- The product of two numbers that are not NaN and not 0 times infinity (R203). -/
def product (x y : Num) : Num :=
  match x, y with
  | .fin s m e, .fin t n g => .fin (xor s t) (m * n) (e + g)
  | a, b => .inf (xor a.neg b.neg)

/-- x lies below y: two values that are not NaN, the finite ones compared in units of 2^z (R212). -/
abbrev Num.Below (x y : Num) (z : Int) : Prop :=
  (x = .inf true ∧ y ≠ .inf true) ∨ (y = .inf false ∧ x ≠ .inf false) ∨
    (x.isInf = false ∧ y.isInf = false ∧ x.units z < y.units z)

/-- 0 times infinity (R203). -/
def zeroTimesInf (x y : Num) : Bool := (x.isZero && y.isInf) || (x.isInf && y.isZero)

/-- An enclosure lies in the cell of a number of 200 bits: between z.m and z.m + 1 units of 2^z.e, on the side of z's sign
(R1). -/
def Enc.inCell (x : Enc) (z : Mag) : Prop :=
  z.sticky = true ∧ 2 ^ 199 ≤ z.m ∧ z.m < 2 ^ 200 ∧ x.e ≤ z.e ∧
    (z.neg = false → (z.m * 2 ^ (z.e - x.e).toNat : Nat) ≤ x.lo ∧ x.hi ≤ ((z.m + 1) * 2 ^ (z.e - x.e).toNat : Nat)) ∧
    (z.neg = true → x.hi ≤ -((z.m * 2 ^ (z.e - x.e).toNat : Nat) : Int) ∧
      -(((z.m + 1) * 2 ^ (z.e - x.e).toNat : Nat) : Int) ≤ x.lo)

/-- The number x to round for an exact value (R1): the value where it is known; else the cell in which its enclosure lies at
the first of the precisions 320, 640, 1280, … at which there is one, and, with none, the number of `Enc.point`. -/
def Value.Rounds (v : Value) (x : Mag) : Prop :=
  match v with
  | .known y => x = y
  | .enclosed g =>
    (∃ j, (∃ E, g (320 * 2 ^ j) = some E ∧ E.inCell x) ∧ ∀ i < j, ∀ E, g (320 * 2 ^ i) = some E → ∀ z, ¬ E.inCell z) ∨
      ((∀ i E, g (320 * 2 ^ i) = some E → ∀ z, ¬ E.inCell z) ∧ x = ((g 20480).getD ⟨0, 0, 0⟩).point)

/-- A crew in which the results of lanes are written to their slots of a field, and their flags raised (R156, R175, R179). -/
def Crew.landed (c : Crew) (t : BitVec 2) (d : BitVec 7) (l : List (Nat × Lane)) : Crew :=
  (c.putF t d (l.map (fun p => (p.1, p.2.bits)))).orFlags (orAll (l.map (fun p => p.2.flags)))

/-- Slot k of an operation will fail the rounding test: a member's lane of k has a test, which the fast result, drawn for the
lane, or for the first lane of a REDUX, fails (R168, R169). -/
abbrev FastOp.Parks (o : FastOp) (prot : Bool) (k : Nat) : Prop :=
  ∃ as ∈ memberArgs prot o.args, ∃ ln x b first,
    (lanesOf o.major o.sel o.fmt o.rm o.excl as).head? = some first ∧
    (k, ln) ∈ lanesOf o.major o.sel o.fmt o.rm o.excl as ∧ ln.test = some (x, b) ∧
    testFails (fmtOf (resultFmt o.major o.sel o.fmt)) o.rm x b
      (Config.fastError (o.draw + if o.major = 0x16#6 ∧ o.sel.ult 20#5 = true then first.1 else k)) = true

/-! ### The issue of a word -/

/-- The crew whose word is issued stands at a group of a live entry, in a team of a launch: `c` names them. -/
abbrev Stands (s : State) (c : Ctx) : Prop :=
  c.n = s.cur ∧ s.crews[s.cur]? = some c.crew ∧ c.crew.group = some c.grp ∧
    s.teamOf c.crew.key.team = some c.team ∧ s.launchOf c.crew.key.team.launch = some c.launch ∧
    c.crew.entryOf c.grp.thread = some c.ent ∧ c.next = c.grp.pc + 4#32 ∧ c.late = none ∧
    c.act = c.ent.mask &&& maskOf ((threadsOf c.ent.mask).filter (c.crew.guard c.grp.hints.g))

/-- The group's hints fit an instruction of form f, and SR is in force only where it may be (R28, R29, R155). -/
abbrev HintsFit (f : Form) (c : Ctx) : Prop :=
  c.grp.hints.fit f = true ∧ c.grp.hints.cOk f = true ∧ (f.takes.noSr = true → c.rm ≠ 5#3)

/-- The registers that an instruction of form f names lie inside the quota, and none is pending or uncorrectable (R128,
R132, R134). -/
abbrev RegsFree (f : Form) (c : Ctx) : Prop :=
  inQuota c.crew.quota (formRegs f c.grp.hints) = true ∧
    (∀ r ∈ formRegs f c.grp.hints, c.crew.pending r = false) ∧
    (∀ k ∈ c.crew.vbad, PReg.v k ∉ formRegs f c.grp.hints)

/-- In a protected launch both members of every thread agree on the guard (R139). -/
abbrev GuardsAgree (c : Ctx) : Prop :=
  c.launch.prot = true → ∀ t ∈ threadsOf c.ent.mask,
    c.crew.guard c.grp.hints.g t = c.crew.guard c.grp.hints.g (t + 16)

/-- What a protected launch computes twice of an instruction of form f comes out the same (R83, R139, R240). -/
abbrev TwiceAgree (f : Form) (c : Ctx) : Prop := f.twice.isSome = true → c.launch.prot = true → c.crew.upset = false

/-- An instruction of form f issues at s: `c` is what it finds, and none of the checks of R28, R29, R128, R132, R134 and
R139 stops it.  Every condition is one on the state and the operands alone. -/
abbrev Issues (f : Form) (s : State) (c : Ctx) : Prop :=
  Stands s c ∧ HintsFit f c ∧ RegsFree f c ∧ GuardsAgree c ∧ TwiceAgree f c

/-- The machine after an instruction whose effect is to leave its crew as cr, whose entry then goes on to the next word. -/
def Ctx.done (c : Ctx) (s : State) (cr : Crew) : State :=
  { s.setCrew c.n (cr.advance c.grp c.next) with waited := false }

/-- The crew after a vector instruction that gives every slot of an active thread the value f of the slot (R187). -/
def Ctx.vec (c : Ctx) (d : BitVec 7) (f : Nat → Word) : Crew := c.crew.putV d (c.slots.map (fun t => (t, f t)))
/-- The same with 64-bit values in pairs. -/
def Ctx.vec64 (c : Ctx) (d : BitVec 7) (f : Nat → DWord) : Crew := c.crew.putV64 d (c.slots.map (fun t => (t, f t)))
/-- The crew after an instruction that gives a predicate the truth value f of every slot of an active thread (R20). -/
def Ctx.vecPred (c : Ctx) (p : BitVec 3) (f : Nat → Bool) : Crew := c.crew.putP p.toNat (c.slots.map (fun t => (t, f t)))

/-- In a protected launch both members of every active thread have the same value f (R139). -/
abbrev MembersAgree {α : Type} (c : Ctx) (f : Nat → α) : Prop := c.launch.prot = true → ∀ t ∈ c.threads, f t = f (t + 16)

/-- An access of the issuing crew at va, with rights n, reaches p: through the vault window, or through a TLB entry that
gives the rights (R63, R68, R79). -/
abbrev Reaches (s : State) (c : Ctx) (n : Need) (va : DWord) (p : PAddr) : Prop :=
  va.toNat < 2 ^ 56 ∧
    ((inWindow va.toNat = true ∧ n.x = false ∧ granted c.launch (va.toNat - Config.windowBase) = true ∧
        p = .vault (Config.vaultBase + (va.toNat - Config.windowBase))) ∨
      (inWindow va.toNat = false ∧ ∃ t, s.tlbFind c.team.core c.launch.id va.toNat = some t ∧ n.ok t.leaf = true ∧
        p = leafAddr t.leaf t.lg va.toNat t.sel))

/-- The accesses of the slots, of `size` bytes at ea, are aligned, reach the addresses p, and the instruction accepts those;
in a protected launch both members of a thread reach one target (R75, R124). -/
abbrev Placed (s : State) (c : Ctx) (slots : List Nat) (size : Nat) (n : Need) (accept : PAddr → Bool) (ea : Nat → DWord)
    (p : Nat → PAddr) : Prop :=
  (∀ k ∈ slots, (ea k).toNat % size = 0 ∧ Reaches s c n (ea k) (p k) ∧ accept (p k) = true) ∧
    (c.launch.prot = true → ∀ t ∈ c.threads, (p t).target = (p (t + 16)).target)

/-- What issues with an operation that goes to memory: t is s with one operation more, numbered by s's serial number, whose
accesses are `as` (slot, address, data, second operand), each in a request for its target's line; `pend` is pending for it,
the issuing crew is otherwise `own`, its own entry aside, every other crew is as it was, and memory is untouched (R112,
R123, R134, R274). -/
def Sent (s t : State) (c : Ctx) (own : Crew) (kind : OpKind) (vdest udest : Option RegDest) (mask : BitVec 32)
    (as : List (Nat × DWord × BitVec 128 × BitVec 128)) (target : Nat → Target) (pend : List PReg) : Prop :=
  t.mem = s.mem ∧ t.dev = s.dev ∧ t.launches = s.launches ∧ t.teams = s.teams ∧ t.gangs = s.gangs ∧ t.queues = s.queues ∧
    t.serial = s.serial + 1 ∧ t.fl.ops.length = s.fl.ops.length + 1 ∧
    (∃ o, t.fl.ops.getLast? = some o ∧ o.id = s.serial ∧ o.crew = c.crew.key ∧ o.core = c.team.core ∧ o.kind = kind ∧
      o.mask = mask ∧ o.vdest = vdest ∧ o.udest = udest ∧ o.rm = c.rm ∧ o.scope = c.scope ∧
      o.accs.map (fun a => (a.slot, a.va, a.data, a.aux)) = as ∧
      (∀ a ∈ o.accs, ∃ r, o.reqs[a.req]? = some r ∧ r.target = target a.slot ∧ r.refused = false)) ∧
    (∃ cr, t.crews[c.n]? = some cr ∧ (∀ r ∈ pend, cr.pending r = true) ∧ cr.group = none ∧
      ({ cr with
        entries := own.entries
        group := own.group
        started := own.started
        pend := own.pend } : Crew) = own) ∧
    (∀ (n : Nat) (x : Crew), s.crews[n]? = some x → x.key ≠ c.crew.key → t.crews[n]? = some x)

/-- The newest operation makes one request for each line (R112). -/
def OnePerLine (t : State) : Prop :=
  ∀ o, t.fl.ops.getLast? = some o → o.reqs.Pairwise (fun q r => q.target ≠ r.target)

/-- The fields that every copy descriptor at s(a) must have right at issue: the witness's form, an address and, where the
copy has rows, a row stride that are multiples of 4, and zero outside the fields of s(a+3) that the mnemonic uses (R92). -/
abbrev DescFits (c : Ctx) (a : BitVec 6) (used : Word) (rows : Bool) : Prop :=
  witOk (c.crew.u64 (a.toNat + 6)) = true ∧ (c.crew.u64 a.toNat).toNat % 4 = 0 ∧
    (rows = true → (c.crew.u (a.toNat + 2)).toNat % 4 = 0) ∧ c.crew.u (a.toNat + 3) &&& ~~~used = 0#32

/-- The machine t after a copy cp has issued: it is the newest copy in flight, its crew goes on with the pair of a CPY.MC
pending and, under SR, its copy counter advanced, and memory is untouched (R81, R87, R96, R97). -/
def CopyIssued (s t : State) (c : Ctx) (cp : Copy) (pend : List PReg) (sr : Bool) : Prop :=
  t.mem = s.mem ∧ t.dev = s.dev ∧ t.launches = s.launches ∧ t.gangs = s.gangs ∧ t.serial = s.serial + 1 ∧
    t.fl.copies = s.fl.copies ++ [cp] ∧ t.fl.ops = s.fl.ops ∧
    t.crews = (c.done s { c.crew.mark s.serial pend with
      cpyctr := if sr then c.crew.cpyctr + 1#32 else c.crew.cpyctr }).crews

/-- The machine t after a matrix command cmd has issued (R228). -/
def CommandIssued (s t : State) (c : Ctx) (cmd : Cmd) : Prop :=
  t.mem = s.mem ∧ t.teams = s.teams ∧ t.gangs = s.gangs ∧ t.fl.cmds = s.fl.cmds ++ [cmd] ∧ cmd.id = s.serial ∧
    cmd.crew = c.crew.key ∧ cmd.core = c.team.core ∧ cmd.ident = c.crew.mnext ∧ cmd.rm = c.rm ∧ cmd.started = false ∧
    t.crews = (c.done s { c.crew with mnext := c.crew.mnext + 1#6 }).crews

/-- Registers that a value of n bytes takes. -/
def regsOf (n : Nat) : Nat := if n ≤ 4 then 1 else n / 4

/-- The value that the latest of the bytes (place, byte) gives a place; `old` where none names it. -/
def lastByte (bytes : List (Nat × Byte)) (x : Nat) (old : Byte) : Byte :=
  ((bytes.filter (fun p => decide (p.1 = x))).getLast?.map (·.2)).getD old

/-- A number of n bytes, laid out from an offset on (R15). -/
def numBytes (off n v : Nat) : List (Nat × Byte) := (List.range n).map (fun k => (off + k, BitVec.ofNat 8 (v / 256 ^ k)))

/-- `old` is the number of n bytes that a command finds at an offset of its line, where the earlier threads have left the
bytes of A (R254). -/
abbrev CmdOut.Finds (A : CmdOut) (l : Line) (off n old : Nat) : Prop :=
  old < 256 ^ n ∧ ∀ k < n, BitVec.ofNat 8 (old / 256 ^ k) = lastByte A.bytes (off + k) (lineByte l (off + k))

/-- What the command of line request i computes from its line, thread by thread: the atomics of R255 and R256 and MSADD. -/
abbrev Computes (o : MOp) (i : Nat) (l : Line) (ver : BitVec 12) (seed : DWord) (out : CmdOut) : Prop :=
  (∃ op ret det n, o.kind = .atomic op ret det ∧ n = (if op ∈ [1, 10, 12] then 8 else 4) ∧
    out = atomicSteps l op ((o.accsOf i).map (fun a =>
      (a.va.toNat % 128, a.data.toNat % 256 ^ n, a.aux.toNat % 256 ^ n)))) ∨
  (∃ dbl ret n, o.kind = .atomf dbl ret ∧ n = (if dbl then 8 else 4) ∧
    out = fpSteps l dbl o.rm ((o.accsOf i).map (fun a => (a.va.toNat % 128, a.data.toNat % 256 ^ n)))) ∨
  (∃ half, o.kind = .msadd half ∧ out = msaddSteps l half o.rm seed ver ((o.accsOf i).map (fun a =>
    (a.va.toNat / 128, a.va.toNat % 128, a.data.toNat % 2 ^ 16))))

/-- What line request x.2 of an operation x.1 has become. -/
def State.reqAt (s : State) (x : MOp × Nat) : Option LReq := (s.opOf x.1.id).bind (fun o => o.reqs[x.2]?)

/-- When a held CWR arrived at its home. -/
def arrival (x : MOp × Nat) : Nat := ((x.1.reqs[x.2]?).bind (·.aged)).getD 0

/-- The CWRs of this device that are held for a line are the line requests of `hs`, in order of arrival (R267). -/
abbrev HoldsOn (s : State) (ln : Nat) (hs : List (MOp × Nat)) : Prop :=
  s.fl.ops.Pairwise (fun p q => p.id ≠ q.id) ∧ (∀ p ∈ s.fl.ops, p.id ≠ 0) ∧ (∀ h ∈ s.fl.far, h.line ≠ ln) ∧
    hs.Pairwise (fun x y => arrival x < arrival y) ∧
    ∀ p j, (p, j) ∈ hs ↔ p ∈ s.fl.ops ∧ ∃ r, p.reqs[j]? = some r ∧ r.st = .held ∧ r.target = .home ln

/-- t is s after a write of line ln, at version v, with the bytes `out`, and the holds `hs` examined (R46, R267): the holds ps
have performed, each at the version that it expects, one after another, and of at most 64 holds, which is what a home holds, the
first to arrive of those that expect one version; every other hold is held still, and waits for a later version, or has failed
at a version that is not its own and than which its own is not later. -/
def WroteLine (s t : State) (ln : Nat) (v : BitVec 12) (out : List (Nat × Byte)) (hs : List (MOp × Nat)) : Prop :=
  ∃ ps : List (MOp × Nat), (∀ x ∈ ps, x ∈ hs) ∧
    (t.lineMeta ln).ver = v + 1#12 + BitVec.ofNat 12 ps.length ∧
    (∀ a, readByte t.mem.bytes a = lastByte ((out ++ ps.flatMap (fun x => x.1.storeBytes x.2 4)).map
      (fun p => (128 * ln + p.1, p.2))) a (readByte s.mem.bytes a)) ∧
    (∀ k x, ps[k]? = some x → x.1.expects x.2 = v + 1#12 + BitVec.ofNat 12 k ∧
      (∃ q, t.reqAt x = some q ∧ q.st = .performed ∧ q.wrote = true ∧ q.ver = x.1.expects x.2 + 1#12) ∧
      (hs.length ≤ 64 → ∀ y ∈ hs, y.1.expects y.2 = x.1.expects x.2 → y = x ∨ arrival x < arrival y)) ∧
    ∀ x ∈ hs, x ∉ ps →
      (t.reqAt x = s.reqAt x ∧ later (x.1.expects x.2) (t.lineMeta ln).ver = true) ∨
      (∃ m ≤ ps.length, ∃ q, t.reqAt x = some q ∧ q.st = .performed ∧ q.wrote = false ∧
        q.ver = v + 1#12 + BitVec.ofNat 12 m ∧ x.1.expects x.2 ≠ q.ver ∧ later (x.1.expects x.2) q.ver = false)

/-- The memory element and the scratchpad byte of element e of a transform (R102). -/
def transformAt (prog : List Word) (esz e : Nat) : Int × Nat :=
  ((prog.foldl (fun (x : Int × Nat) w => if w.toNat / 2 ^ 30 = 1 then
      (x.1 + (x.2 % (w.toNat / 2 ^ 18 % 2 ^ 12 + 1) : Nat) * (w.extractLsb' 0 18).toInt, x.2 / (w.toNat / 2 ^ 18 % 2 ^ 12 + 1))
    else x) (0, e)).1,
   prog.foldl (fun p w => if w.toNat / 2 ^ 30 = 2 then
      p ^^^ (p / 2 ^ (w.toNat / 2 ^ 16 % 64) % 2 ^ (w.toNat / 64 % 16) * 2 ^ (w.toNat / 2 ^ 10 % 64)) else p) (e * esz))

/-- The bytes that a copy moves in its order, each with the place at which it lands, and the flags of its conversions; `src`
gives its source bytes (R96, R98, R102).  A memory place is a virtual address; a scratchpad place counts from the tile's first
byte, or is the source's offset. -/
def Copy.moved (cp : Copy) (seed : DWord) (src : Nat → Byte) : List (Nat × Byte) × BitVec 5 :=
  match cp.kind with
  | .plain => ((List.range cp.rows).flatMap (fun i => (List.range cp.rowb).map (fun k =>
      if cp.out then (cp.rowVa i + k, src (cp.spa + i * cp.sstr + k)) else (cp.spa + i * cp.sstr + k, src (cp.rowVa i + k)))), 0#5)
  | .convert df sf rm key ctr =>
    let wd := (fmtCode df.toNat).width
    let ws := (fmtCode sf.toNat).width
    let n := 8 * cp.rowb / (if cp.out then ws else wd)
    let x (i : Nat) : Nat := ((List.range (if cp.out then cp.rowb else n * ws / 8)).map (fun k =>
      (src ((if cp.out then cp.spa + i * cp.sstr else cp.rowVa i) + k)).toNat * 256 ^ k)).sum
    let y (i j : Nat) : Nat × BitVec 5 := convFloat (fmtCode df.toNat) rm (mixLow seed (key ||| BitVec.ofNat 64 (i * n + j)) ctr)
      ((fmtCode sf.toNat).read (x i / 2 ^ (ws * j) % 2 ^ ws))
    ((List.range cp.rows).flatMap (fun i => numBytes (if cp.out then cp.rowVa i else i * cp.sstr) (n * wd / 8)
      ((List.range n).map (fun j => (y i j).1 % 2 ^ wd * 2 ^ (wd * j))).sum),
     orAll ((List.range cp.rows).flatMap (fun i => (List.range n).map (fun j => (y i j).2))))
  | .xform esz prog => ((List.range (progCount prog)).flatMap (fun e =>
      let m := (cp.mva + BitVec.ofInt 64 ((transformAt prog esz e).1 * esz)).toNat
      let p := cp.spa + (transformAt prog esz e).2
      (List.range esz).map (fun k => if cp.out then (m + k, src (p + k)) else (p + k, src (m + k)))), 0#5)

/-- The machine t after an instruction that did not make its group wait. -/
def State.ran (t : State) : State := { t with waited := false }

/-- The pc at which a thread of a crew stands; none once it has ended (R314). -/
def Crew.pcOf (c : Crew) (t : Nat) : Option Word := (c.entryOf t).map (·.pc)

/-- A crew with the link stacks of several threads replaced (R320). -/
def Crew.setLinks (c : Crew) (l : List (Nat × List Link)) : Crew := { c with links := Cells.setAll [] c.links l }

/-- A crew with its batch counters and its sealed batches replaced (R99). -/
def Crew.sealed (c : Crew) (batch : Cells Word) (l : List Batch) : Crew := { c with batch := batch, sealedB := l }

/-- No thread stands in two entries of a frontier (R314). -/
abbrev EntriesApart (l : List Entry) : Prop := l.Pairwise (fun x y => x.mask &&& y.mask = 0#32)

/-- The immediate that an instruction of the I or UI format uses (R30): the 12 bits extended, or with HINT.IMM the payload
above the low ten bits. -/
def immOf (h : Hints) (i : BitVec 12) (signed : Bool) : Word :=
  match h.imm with
  | none => if signed then i.signExtend 32 else i.setWidth 32
  | some p => p ++ i.extractLsb' 0 10

/-- With HINT.IMM the field bits above the low ten are zero (R30). -/
abbrev ImmFits {w : Nat} (h : Hints) (i : BitVec w) : Prop := h.imm.isSome = true → i.toNat < 1024

/-- t holds the given bytes from a on, at most 32, with zeros after them up to the 32nd; every other byte is as in s. -/
def Written (s t : State) (a : Nat) (bytes : List Byte) : Prop :=
  ∀ x, readByte t.mem.bytes x = if a ≤ x ∧ x < a + 32 then (bytes[x - a]?).getD 0#8 else readByte s.mem.bytes x

/-- The slot at a is one granule of a line without uncorrectable granules, on which no CWR is held. -/
abbrev SlotClean (s : State) (a : Nat) : Prop :=
  s.sound = true ∧ a % 32 = 0 ∧ (s.lineMeta (a / 128)).bad = 0#4 ∧ s.holdsOf (a / 128) = []

/-- No line holds an error or poison, and no CWR is held. -/
abbrev MemoryClean (s : State) : Prop :=
  s.sound = true ∧ (∀ ln, (s.lineMeta ln).bad = 0#4 ∧ (s.lineMeta ln).poison = 0#4) ∧ ∀ ln, s.holdsOf ln = []

/-- The granule that the entry at index i of a queue lies in is poisoned. -/
abbrev EntryPoisoned (s : State) (q : Queue) (i : Word) : Prop :=
  (s.lineMeta (q.at i / 128)).poison &&& granulesOf [q.at i % 128] ≠ 0#4

/-- u is s after entry i of q has been dispatched to a crew of team t at position n, which is otherwise cr: the entry's
words, the lease and its record, the indices, the role and the rotating pointer (R349, R350, R353). -/
def Dispatched (s u : State) (n : Nat) (cr : Crew) (t : Team) (l : Launch) (d : BitVec 6) (q : Queue) (i : Word) : Prop :=
  u.mem.bytes = s.mem.bytes ∧ u.gangs = s.gangs ∧ u.launches = s.launches ∧
    u.crews[n]? = some { cr with
      uregs := Cells.setAll 0#32 cr.uregs ((List.range 8).map (fun k => (k, s.wordAt (q.at i + 4 * k))) ++
        [(d.toNat, i), (d.toNat + 1, 0x80000000#32 ||| BitVec.ofNat 32 q.num)]) } ∧
    u.teams = s.teams.map (fun x => if x.key = t.key then
      { x with
        leases := x.leases ++ [⟨q.num, i⟩]
        role := x.nextRole
        mark := none } else x) ∧
    u.queues = s.queues.map (fun x => if x.num = q.num then x.took i else x) ∧
    u.dev.rp = if l.det = true then s.dev.rp else Cells.set 0 s.dev.rp q.prio ((q.num + 1) % 512)

/-- The POP p of crew k of team t is served before the POP q of crew j of team u (R350). -/
abbrev PopEarlier (p : PopWait) (t : Team) (k : CrewKey) (q : PopWait) (u : Team) (j : CrewKey) : Prop :=
  p.clk < q.clk ∨ (p.clk = q.clk ∧ (t.index < u.index ∨ (t.index = u.index ∧ k.crew < j.crew)))

/-- Entry i of a queue bound to type ty may be dispatched to crew k: it is filled, neither leased nor finished, and crew
floor(i / 256) mod n of the n crews of the type on logical core i mod 256 is k (R352). -/
abbrev OpenTo (s : State) (l : Launch) (k : CrewKey) (q : Queue) (ty : Nat) (i : Word) : Prop :=
  (i - q.head).toNat < (q.tail - q.head).toNat ∧ i ∉ q.finished ∧
    (∀ t ∈ s.teams, t.key.launch = q.launch → ⟨q.num, i⟩ ∉ t.leases) ∧
    ∀ cs : List (Nat × Nat × Nat), cs = (l.places.filter (fun p => decide (p.lcore = i.toNat % 256) && decide (p.type = ty))).flatMap
        (fun p => (List.range (((l.types[ty]?).map (·.crews)).getD 0)).map (fun c => (p.gang, p.pos, c))) →
      cs[i.toNat / 256 % cs.length]? = some (k.team.gang, k.team.pos, k.crew)

/-- A machine whose queue of a number has changed. -/
def State.withQueue (s : State) (n : Nat) (f : Queue → Queue) : State :=
  { s with queues := s.queues.map (fun q => if q.num = n then f q else q) }

/-- Queues a and b of a launch call for a team t to be marked: a is above its high threshold, b, of another role, below its
low one, neither has been in a reassignment for 4,500 cycles, and t is the team to be moved (R353). -/
abbrev Calls (s : State) (l : Launch) (a b : Queue) (t : Team) : Prop :=
  a ∈ s.queues ∧ b ∈ s.queues ∧ a.launch = l.id ∧ b.launch = l.id ∧ a.num ≠ 7 ∧ b.num ≠ 7 ∧ s.governable a = true ∧
    s.governable b = true ∧ a.high < a.occupancy ∧ b.occupancy < b.low ∧ b.role ≠ a.role ∧
    s.movable l a.role b.role = some t

end Sys2Proof.Machine
end

