-- ==== Sys2Proof/Certificates/Slice0/Obligations.lean ====
section
/-!
DEFINITION. The statements about this model, one `def Obligations.<Name> : Prop` each.  The rules named at the head of a
statement are those it draws on; what it says of them is what its text says.
-/

open Sys2Proof Sys2Proof.Machine

/-! ### Integer, bit, compare and uniform instructions -/

/-- R189: what each instruction of majors 0x08 and 0x09 writes for every active thread, in exact arithmetic. -/
def Obligations.IntegerArithmetic : Prop :=
  (∀ (s : State) (c : Ctx) (d a b : BitVec 7) (i : Instr) (f : Word → Word → Word),
    (i, f) ∈ ([
      (.iadd d a b, fun x y => BitVec.ofNat 32 (x.toNat + y.toNat)),
      (.iaddc d a b, fun x y => if 2 ^ 32 ≤ x.toNat + y.toNat then 1#32 else 0#32),
      (.isub d a b, fun x y => BitVec.ofInt 32 (x.toNat - y.toNat)),
      (.isubb d a b, fun x y => if x.toNat < y.toNat then 1#32 else 0#32),
      (.iminI32 d a b, fun x y => if x.toInt ≤ y.toInt then x else y),
      (.iminZ32 d a b, fun x y => if x.toNat ≤ y.toNat then x else y),
      (.imaxI32 d a b, fun x y => if x.toInt ≤ y.toInt then y else x),
      (.imaxZ32 d a b, fun x y => if x.toNat ≤ y.toNat then y else x),
      (.iabs d a, fun x _ => BitVec.ofNat 32 x.toInt.natAbs),
      (.and d a b, fun x y => x &&& y),
      (.or d a b, fun x y => x ||| y),
      (.xor d a b, fun x y => x ^^^ y),
      (.andn d a b, fun x y => x &&& ~~~y),
      (.shl d a b, fun x y => if y.toNat < 32 then BitVec.ofNat 32 (x.toNat * 2 ^ y.toNat) else 0#32),
      (.shr d a b, fun x y => if y.toNat < 32 then BitVec.ofNat 32 (x.toNat / 2 ^ y.toNat) else 0#32),
      (.sar d a b, fun x y => if y.toNat < 32 then BitVec.ofInt 32 (x.toInt / 2 ^ y.toNat)
        else if x.toInt < 0 then BitVec.ofInt 32 (-1) else 0#32)] : List (Instr × (Word → Word → Word))) →
    Issues (formOf i) s c →
    exec i s = .next (c.done s (c.vec d (fun t => f (c.crew.src a t) (c.crew.src b t))))) ∧
  (∀ (s : State) (c : Ctx) (d a b : BitVec 7) (i : Instr) (f : DWord → DWord → DWord),
    (i, f) ∈ ([
      (.iadd64 d a b, fun x y => BitVec.ofNat 64 (x.toNat + y.toNat)),
      (.iaddc64 d a b, fun x y => if 2 ^ 64 ≤ x.toNat + y.toNat then 1#64 else 0#64),
      (.isub64 d a b, fun x y => BitVec.ofInt 64 (x.toNat - y.toNat)),
      (.isubb64 d a b, fun x y => if x.toNat < y.toNat then 1#64 else 0#64),
      (.iminI64 d a b, fun x y => if x.toInt ≤ y.toInt then x else y),
      (.iminZ64 d a b, fun x y => if x.toNat ≤ y.toNat then x else y),
      (.imaxI64 d a b, fun x y => if x.toInt ≤ y.toInt then y else x),
      (.imaxZ64 d a b, fun x y => if x.toNat ≤ y.toNat then y else x),
      (.iabs64 d a, fun x _ => BitVec.ofNat 64 x.toInt.natAbs),
      (.and64 d a b, fun x y => x &&& y),
      (.or64 d a b, fun x y => x ||| y),
      (.xor64 d a b, fun x y => x ^^^ y),
      (.andn64 d a b, fun x y => x &&& ~~~y)] : List (Instr × (DWord → DWord → DWord))) →
    Issues (formOf i) s c →
    exec i s = .next (c.done s (c.vec64 d (fun t => f (c.crew.src64 a t) (c.crew.src64 b t))))) ∧
  (∀ (s : State) (c : Ctx) (d a b : BitVec 7) (i : Instr) (f : DWord → Word → DWord),
    (i, f) ∈ ([
      (.shl64 d a b, fun x y => if y.toNat < 64 then BitVec.ofNat 64 (x.toNat * 2 ^ y.toNat) else 0#64),
      (.shr64 d a b, fun x y => if y.toNat < 64 then BitVec.ofNat 64 (x.toNat / 2 ^ y.toNat) else 0#64),
      (.sar64 d a b, fun x y => if y.toNat < 64 then BitVec.ofInt 64 (x.toInt / 2 ^ y.toNat)
        else if x.toInt < 0 then BitVec.ofInt 64 (-1) else 0#64)] : List (Instr × (DWord → Word → DWord))) →
    Issues (formOf i) s c →
    exec i s = .next (c.done s (c.vec64 d (fun t => f (c.crew.src64 a t) (c.crew.src b t)))))

/-- R190, R30: what each instruction of majors 0x0A to 0x0F writes, with and without HINT.IMM; a word whose field bits or
payload do not fit takes the invalid-instruction trap. -/
def Obligations.IntegerImmediates : Prop :=
  (∀ (s : State) (c : Ctx) (d a : BitVec 7) (k : BitVec 12) (i : Instr) (signed : Bool) (f : Word → Word → Word),
    (i, signed, f) ∈ ([
      (.iaddi d a k, true, fun x y => BitVec.ofNat 32 (x.toNat + y.toNat)),
      (.andi d a k, false, fun x y => x &&& y),
      (.ori d a k, false, fun x y => x ||| y),
      (.xori d a k, false, fun x y => x ^^^ y)] : List (Instr × Bool × (Word → Word → Word))) →
    Issues (formOf i) s c →
    (ImmFits c.grp.hints k →
      exec i s = .next (c.done s (c.vec d (fun t => f (c.crew.src a t) (immOf c.grp.hints k signed))))) ∧
    (¬ ImmFits c.grp.hints k → exec i s = .next (s.takeTrap { cause := 1 }).ran)) ∧
  (∀ (s : State) (c : Ctx) (cc p : BitVec 3) (z : BitVec 1) (a : BitVec 7) (k : BitVec 12),
    Issues (formOf (.icmpi cc z p a k)) s c →
    (ImmFits c.grp.hints k →
      MembersAgree c (fun t => intCond cc (z = 1#1) (c.crew.src a t) (immOf c.grp.hints k true)) →
      exec (.icmpi cc z p a k) s = .next (c.done s (c.vecPred p
        (fun t => intCond cc (z = 1#1) (c.crew.src a t) (immOf c.grp.hints k true))))) ∧
    (¬ ImmFits c.grp.hints k → exec (.icmpi cc z p a k) s = .next (s.takeTrap { cause := 1 }).ran)) ∧
  (∀ (s : State) (c : Ctx) (d a : BitVec 7) (n : BitVec 5) (i : Instr) (left : Bool) (f : Word → Word),
    (i, left, f) ∈ ([
      (.shli d a n, true, fun x => BitVec.ofNat 32 (x.toNat * 2 ^ n.toNat)),
      (.shri d a n, false, fun x => BitVec.ofNat 32 (x.toNat / 2 ^ n.toNat)),
      (.sari d a n, false, fun x => BitVec.ofInt 32 (x.toInt / 2 ^ n.toNat))] : List (Instr × Bool × (Word → Word))) →
    Issues (formOf i) s c →
    (c.grp.hints.imm = none ∨ (left = true ∧ c.grp.hints.imm = some 0#22) →
      exec i s = .next (c.done s (c.vec d (fun t => f (c.crew.src a t))))) ∧
    (¬ (c.grp.hints.imm = none ∨ (left = true ∧ c.grp.hints.imm = some 0#22)) →
      exec i s = .next (s.takeTrap { cause := 1 }).ran))

/-- R192: products, quotients and remainders in exact arithmetic; IMAD and IMADW take the third source of R29. -/
def Obligations.MultiplyDivide : Prop :=
  (∀ (s : State) (c : Ctx) (d a b : BitVec 7) (i : Instr) (f : Word → Word → Word → Word),
    (i, f) ∈ ([
      (.imul d a b, fun x y _ => BitVec.ofNat 32 (x.toNat * y.toNat)),
      (.imulhI32 d a b, fun x y _ => BitVec.ofInt 32 (x.toInt * y.toInt / 2 ^ 32)),
      (.imulhZ32 d a b, fun x y _ => BitVec.ofNat 32 (x.toNat * y.toNat / 2 ^ 32)),
      (.imad d a b, fun x y z => BitVec.ofNat 32 (x.toNat * y.toNat + z.toNat)),
      (.idivI32 d a b, fun x y _ => if y = 0#32 then BitVec.ofInt 32 (-1)
        else BitVec.ofInt 32 (x.toInt.tdiv y.toInt)),
      (.idivZ32 d a b, fun x y _ => if y = 0#32 then 0xFFFFFFFF#32 else BitVec.ofNat 32 (x.toNat / y.toNat)),
      (.iremI32 d a b, fun x y _ => if y = 0#32 then x
        else BitVec.ofInt 32 (x.toInt - y.toInt * x.toInt.tdiv y.toInt)),
      (.iremZ32 d a b, fun x y _ => if y = 0#32 then x else BitVec.ofNat 32 (x.toNat % y.toNat))] :
        List (Instr × (Word → Word → Word → Word))) →
    Issues (formOf i) s c →
    exec i s = .next (c.done s (c.vec d (fun t => f (c.crew.src a t) (c.crew.src b t) (c.crew.src (c.third d) t))))) ∧
  (∀ (s : State) (c : Ctx) (d a b : BitVec 7) (i : Instr) (f : Word → Word → DWord → DWord),
    (i, f) ∈ ([
      (.imadwI32 d a b, fun x y z => BitVec.ofInt 64 (x.toInt * y.toInt + z.toNat)),
      (.imadwZ32 d a b, fun x y z => BitVec.ofNat 64 (x.toNat * y.toNat + z.toNat))] :
        List (Instr × (Word → Word → DWord → DWord))) →
    Issues (formOf i) s c →
    exec i s = .next (c.done s (c.vec64 d
      (fun t => f (c.crew.src a t) (c.crew.src b t) (c.crew.src64 (c.third d) t)))))

/-- R193: the bit operations, the field forms in the arithmetic of the rule; FUNNEL and BFI take the third source of
R29. -/
def Obligations.BitOperations : Prop :=
  ∀ (s : State) (c : Ctx) (d a b : BitVec 7) (i : Instr) (f : Word → Word → Word → Word),
    (i, f) ∈ ([
      (.popc d a, fun x _ _ => BitVec.ofNat 32 ((List.range 32).filter x.getLsbD).length),
      (.clz d a, fun x _ _ => if x = 0#32 then 32#32 else BitVec.ofNat 32 (31 - x.toNat.log2)),
      (.ctz d a, fun x _ _ => BitVec.ofNat 32 ((List.range 32).takeWhile (fun k => !x.getLsbD k)).length),
      (.brev d a, fun x _ _ => maskOf ((List.range 32).filter (fun k => x.getLsbD (31 - k)))),
      (.rot d a b, fun x y _ => BitVec.ofNat 32 (x.toNat * 2 ^ (y.toNat % 32) + x.toNat / 2 ^ (32 - y.toNat % 32))),
      (.funnel d a b, fun x y z => BitVec.ofNat 32 ((y.toNat * 2 ^ 32 + x.toNat) * 2 ^ (z.toNat % 64) / 2 ^ 32)),
      (.bfxZ32 d a b, fun x y _ =>
        let pos := y.toNat % 256
        let len := if 32 ≤ pos then 0 else min (y.toNat / 256 % 256) (32 - pos)
        BitVec.ofNat 32 (x.toNat / 2 ^ pos % 2 ^ len)),
      (.bfxI32 d a b, fun x y _ =>
        let pos := y.toNat % 256
        let len := if 32 ≤ pos then 0 else min (y.toNat / 256 % 256) (32 - pos)
        let g : Int := (x.toNat / 2 ^ pos % 2 ^ len : Nat)
        BitVec.ofInt 32 (if len ≠ 0 ∧ 2 ^ (len - 1) ≤ g then g - 2 ^ len else g)),
      (.bfi d a b, fun x y z =>
        let pos := y.toNat % 256
        let len := if 32 ≤ pos then 0 else min (y.toNat / 256 % 256) (32 - pos)
        let mask := BitVec.ofNat 32 ((2 ^ len - 1) * 2 ^ pos)
        (z &&& ~~~mask) ||| (BitVec.ofNat 32 (x.toNat * 2 ^ pos) &&& mask))] :
          List (Instr × (Word → Word → Word → Word))) →
    Issues (formOf i) s c →
    exec i s = .next (c.done s (c.vec d (fun t => f (c.crew.src a t) (c.crew.src b t) (c.crew.src (c.third d) t))))

/-- R195, R20: the conditions of ICMP as comparisons of numbers, SEL and LEA. -/
def Obligations.CompareSelectAddress : Prop :=
  (∀ (s : State) (c : Ctx) (cc p : BitVec 3) (z : BitVec 1) (a b : BitVec 7) (i : Instr) (val : BitVec 7 → Nat → Int),
    (i, val) ∈ ([
      (.icmp32 cc z p a b, fun f t => if z = 1#1 then (c.crew.src f t).toNat else (c.crew.src f t).toInt),
      (.icmp64 cc z p a b, fun f t => if z = 1#1 then (c.crew.src64 f t).toNat else (c.crew.src64 f t).toInt)] :
        List (Instr × (BitVec 7 → Nat → Int))) →
    ∀ holds : Nat → Bool,
    (∀ t, holds t = (match cc.toNat with
      | 0 => decide (val a t = val b t)
      | 1 => decide (val a t ≠ val b t)
      | 2 => decide (val a t < val b t)
      | 3 => decide (val a t ≤ val b t)
      | 4 => decide (val b t < val a t)
      | _ => decide (val b t ≤ val a t))) →
    Issues (formOf i) s c → MembersAgree c holds →
    exec i s = .next (c.done s (c.vecPred p holds))) ∧
  (∀ (s : State) (c : Ctx) (d a b : BitVec 7) (n : BitVec 3), Issues (formOf (.sel d a b n)) s c →
    exec (.sel d a b n) s = .next (c.done s (c.vec d
      (fun t => if c.crew.p n.toNat t then c.crew.src a t else c.crew.src b t)))) ∧
  (∀ (s : State) (c : Ctx) (d a b : BitVec 7) (e : BitVec 1) (n : BitVec 3), Issues (formOf (.leaPair d a b e n)) s c →
    exec (.leaPair d a b e n) s = .next (c.done s (c.vec64 d (fun t => BitVec.ofInt 64 ((c.crew.src64 a t).toNat +
      (if e = 1#1 then ((c.crew.src b t).toNat : Int) else (c.crew.src b t).toInt) * 2 ^ n.toNat))))) ∧
  (∀ (s : State) (c : Ctx) (d a b : BitVec 7) (e : BitVec 1) (n : BitVec 3), Issues (formOf (.lea32 d a b e n)) s c →
    exec (.lea32 d a b e n) s = .next (c.done s (c.vec d (fun t => BitVec.ofNat 32 ((c.crew.src a t).toNat +
      (c.crew.src b t).toNat * 2 ^ n.toNat)))))

/-- R197, R198: the uniform instructions, in both widths; ULD is stated with the loads. -/
def Obligations.UniformResults : Prop :=
  (∀ (s : State) (c : Ctx) (d a b : BitVec 6) (w : BitVec 1) (i : Instr) (f : Word → Word → Word → Word)
    (g : DWord → DWord → Word → DWord → DWord),
    (i, f, g) ∈ ([
      (.uadd d a b w, fun x y _ => BitVec.ofNat 32 (x.toNat + y.toNat), fun x y _ _ => BitVec.ofNat 64 (x.toNat + y.toNat)),
      (.usub d a b w, fun x y _ => BitVec.ofInt 32 (x.toNat - y.toNat),
        fun x y _ _ => BitVec.ofInt 64 (x.toNat - y.toNat)),
      (.uand d a b w, fun x y _ => x &&& y, fun x y _ _ => x &&& y),
      (.uor d a b w, fun x y _ => x ||| y, fun x y _ _ => x ||| y),
      (.uxor d a b w, fun x y _ => x ^^^ y, fun x y _ _ => x ^^^ y),
      (.ushl d a b w, fun x y _ => if y.toNat < 32 then BitVec.ofNat 32 (x.toNat * 2 ^ y.toNat) else 0#32,
        fun x _ y _ => if y.toNat < 64 then BitVec.ofNat 64 (x.toNat * 2 ^ y.toNat) else 0#64),
      (.ushr d a b w, fun x y _ => if y.toNat < 32 then BitVec.ofNat 32 (x.toNat / 2 ^ y.toNat) else 0#32,
        fun x _ y _ => if y.toNat < 64 then BitVec.ofNat 64 (x.toNat / 2 ^ y.toNat) else 0#64),
      (.usar d a b w, fun x y _ => if y.toNat < 32 then BitVec.ofInt 32 (x.toInt / 2 ^ y.toNat)
          else if x.toInt < 0 then BitVec.ofInt 32 (-1) else 0#32,
        fun x _ y _ => if y.toNat < 64 then BitVec.ofInt 64 (x.toInt / 2 ^ y.toNat)
          else if x.toInt < 0 then BitVec.ofInt 64 (-1) else 0#64),
      (.usel d a b w, fun x y o => if o = 0#32 then y else x, fun x y _ o => if o = 0#64 then y else x)] :
        List (Instr × (Word → Word → Word → Word) × (DWord → DWord → Word → DWord → DWord))) →
    Issues (formOf i) s c →
    exec i s = .next (c.done s (if w = 1#1
      then c.crew.putU64 d.toNat (g (c.crew.u64 a.toNat) (c.crew.u64 b.toNat) (c.crew.u b.toNat) (c.crew.u64 d.toNat))
      else c.crew.putU d.toNat (f (c.crew.u a.toNat) (c.crew.u b.toNat) (c.crew.u d.toNat))))) ∧
  (∀ (s : State) (c : Ctx) (d a b : BitVec 6) (cc : BitVec 3) (i : Instr) (f : Word → Word → Word → Word),
    (i, f) ∈ ([
      (.umul d a b, fun x y _ => BitVec.ofNat 32 (x.toNat * y.toNat)),
      (.umad d a b, fun x y o => BitVec.ofNat 32 (x.toNat * y.toNat + o.toNat)),
      (.ucmpI d a b cc, fun x y _ => if intCond cc false x y then 1#32 else 0#32),
      (.ucmpZ d a b cc, fun x y _ => if intCond cc true x y then 1#32 else 0#32)] :
        List (Instr × (Word → Word → Word → Word))) →
    Issues (formOf i) s c →
    exec i s = .next (c.done s (c.crew.putU d.toNat (f (c.crew.u a.toNat) (c.crew.u b.toNat) (c.crew.u d.toNat))))) ∧
  (∀ (s : State) (c : Ctx) (d a : BitVec 6) (k : BitVec 12) (i : Instr) (v : Word),
    (i, v) ∈ ([
      (.uaddi d a k, BitVec.ofNat 32 ((c.crew.u a.toNat).toNat + (immOf c.grp.hints k true).toNat)),
      (.umovi d k, immOf c.grp.hints k false)] : List (Instr × Word)) →
    Issues (formOf i) s c →
    (ImmFits c.grp.hints k → exec i s = .next (c.done s (c.crew.putU d.toNat v))) ∧
    (¬ ImmFits c.grp.hints k → exec i s = .next (s.takeTrap { cause := 1 }).ran))

/-! ### Moves, cross-lane operations, packing -/

/-- R144, R143: the moves and cross-lane forms.  `c.peer t x` is the slot of thread x for the member that computes slot
t.  MOVS compares the two members' values of its thread (R139); that RFAL does is the model's reading (log entry 118,
DEDUCED). -/
def Obligations.MovesAndLanes : Prop :=
  (∀ (s : State) (c : Ctx) (d a b : BitVec 7) (i : Instr) (f : Nat → Word),
    (i, f) ∈ ([
      (.mov d a, fun t => c.crew.src a t),
      (.shfl d a b, fun t => c.crew.src a (c.peer t ((c.crew.src b t).toNat % c.W)))] : List (Instr × (Nat → Word))) →
    Issues (formOf i) s c → exec i s = .next (c.done s (c.vec d f))) ∧
  (∀ (s : State) (c : Ctx) (d a : BitVec 7) (m : BitVec 5), Issues (formOf (.bfly d a m)) s c →
    (c.launch.prot = false ∨ m.toNat < 16 →
      exec (.bfly d a m) s = .next (c.done s (c.vec d (fun t => c.crew.src a (c.peer t (c.threadOf t ^^^ m.toNat)))))) ∧
    (c.launch.prot = true ∧ 16 ≤ m.toNat → exec (.bfly d a m) s = .next (s.takeTrap { cause := 1 }).ran)) ∧
  (∀ (s : State) (c : Ctx) (d : BitVec 7) (k : BitVec 14), Issues (formOf (.movi d k)) s c →
    (ImmFits c.grp.hints k → exec (.movi d k) s = .next (c.done s (c.vec d (fun _ => match c.grp.hints.imm with
      | none => BitVec.ofInt 32 k.toInt
      | some p => BitVec.ofNat 32 (p.toNat * 1024 + k.toNat))))) ∧
    (¬ ImmFits c.grp.hints k → exec (.movi d k) s = .next (s.takeTrap { cause := 1 }).ran)) ∧
  (∀ (s : State) (c : Ctx) (d a : BitVec 6) (w : BitVec 1), Issues (formOf (.movu d a w)) s c →
    exec (.movu d a w) s = .next (c.done s (if w = 1#1 then c.crew.putU64 d.toNat (c.crew.u64 a.toNat)
      else c.crew.putU d.toNat (c.crew.u a.toNat)))) ∧
  (∀ (s : State) (c : Ctx) (d : BitVec 6) (a : BitVec 7) (w : BitVec 1) (n : BitVec 5),
    Issues (formOf (.movs w d a n)) s c →
    (n.toNat < c.W → (c.launch.prot = true → c.crew.src a n.toNat = c.crew.src a (n.toNat + 16) ∧
        (w = 1#1 → c.crew.src64 a n.toNat = c.crew.src64 a (n.toNat + 16))) →
      exec (.movs w d a n) s = .next (c.done s (if w = 1#1 then c.crew.putU64 d.toNat (c.crew.src64 a n.toNat)
        else c.crew.putU d.toNat (c.crew.src a n.toNat)))) ∧
    (n.toNat < c.W → c.launch.prot = true → (c.crew.src a n.toNat ≠ c.crew.src a (n.toNat + 16) ∨
        (w = 1#1 ∧ c.crew.src64 a n.toNat ≠ c.crew.src64 a (n.toNat + 16))) →
      exec (.movs w d a n) s = .next (s.takeTrap { cause := 9, info := 7#64, thread := some n.toNat }).ran) ∧
    (c.W ≤ n.toNat → exec (.movs w d a n) s = .next (s.takeTrap { cause := 1 }).ran)) ∧
  (∀ (s : State) (c : Ctx) (d : BitVec 6) (a : BitVec 7) (w : BitVec 1), Issues (formOf (.rfal w d a)) s c →
    (c.threads = [] → exec (.rfal w d a) s = .next (c.done s c.crew)) ∧
    (∀ t r, c.threads = t :: r →
      ((c.launch.prot = true → c.crew.src a t = c.crew.src a (t + 16) ∧
          (w = 1#1 → c.crew.src64 a t = c.crew.src64 a (t + 16))) →
        exec (.rfal w d a) s = .next (c.done s (if w = 1#1 then c.crew.putU64 d.toNat (c.crew.src64 a t)
          else c.crew.putU d.toNat (c.crew.src a t)))) ∧
      (c.launch.prot = true → (c.crew.src a t ≠ c.crew.src a (t + 16) ∨
          (w = 1#1 ∧ c.crew.src64 a t ≠ c.crew.src64 a (t + 16))) →
        exec (.rfal w d a) s = .next (s.takeTrap { cause := 9, info := 6#64, thread := some t }).ran)))

/-- R144, R215, R138 to R140: the predicates and masks a crew forms over its active threads, and the key matches on bit
patterns; in a protected launch each member sees the slots of its own members, and the masks have a bit per thread. -/
def Obligations.CrewWide : Prop :=
  (∀ (s : State) (c : Ctx) (p q : BitVec 3) (z : BitVec 1) (i : Instr) (f : Nat → Bool),
    (i, f) ∈ ([
      (.crewAll p z q, fun t => decide (∀ u ∈ c.mates t, xor (c.crew.p q.toNat u) (z = 1#1) = true)),
      (.crewAny p z q, fun t => decide (∃ u ∈ c.mates t, xor (c.crew.p q.toNat u) (z = 1#1) = true)),
      (.crewSame p z q, fun t => decide (∀ u ∈ c.mates t, ∀ v ∈ c.mates t, c.crew.p q.toNat u = c.crew.p q.toNat v))] :
        List (Instr × (Nat → Bool))) →
    Issues (formOf i) s c → MembersAgree c f → exec i s = .next (c.done s (c.vecPred p f))) ∧
  (∀ (s : State) (c : Ctx) (d a : BitVec 7) (q : BitVec 3) (z : BitVec 1) (i : Instr) (rel : Nat → Nat → Bool),
    (i, rel) ∈ ([
      (.crewMask d z q, fun _ u => xor (c.crew.p q.toNat u) (z = 1#1)),
      (.matchB d a, fun t u => decide (c.crew.src a u = c.crew.src a t)),
      (.matchB64 d a, fun t u => decide (c.crew.src64 a u = c.crew.src64 a t))] : List (Instr × (Nat → Nat → Bool))) →
    ∀ m : Nat → Word, (∀ t, m t = maskOf ((c.threads.filter (fun u => rel t (c.peer t u))).map c.threadOf)) →
    Issues (formOf i) s c → MembersAgree c m →
    (∀ (e : BitVec 7) (o : BitVec 3) (y : BitVec 1), i = .crewMask e y o →
      MembersAgree c (fun t => xor (c.crew.p o.toNat t) (y = 1#1))) →
    exec i s = .next (c.done s (c.vec d m)))

/-- R165, R140: PACK and UNPACK for the four element widths, over the threads of a crew, 16 of them in a protected launch
where each member packs its own members' values. -/
def Obligations.PackUnpack : Prop :=
  ∀ (s : State) (c : Ctx) (d a : BitVec 7) (w : BitVec 2) (bits n words : Nat),
    (w, bits, n, words) ∈ ([(0#2, 4, 8, 1), (1#2, 6, 16, 3), (2#2, 8, 4, 1), (3#2, 16, 2, 1)] :
      List (BitVec 2 × Nat × Nat × Nat)) →
    (Issues (formOf (.pack d a w)) s c →
      exec (.pack d a w) s = .next (c.done s (c.vec d (fun t =>
        BitVec.ofNat 32 (((List.range n).foldr (fun i acc => acc * 2 ^ bits +
          (c.crew.src a (c.peer t (c.threadOf t / n * n + i))).toNat % 2 ^ bits) 0) /
          2 ^ (32 * (c.threadOf t % n % words))))))) ∧
    (Issues (formOf (.unpack d a w)) s c →
      exec (.unpack d a w) s = .next (c.done s (c.vec d (fun t =>
        BitVec.ofNat 32 (((List.range words).foldr (fun i acc => acc * 2 ^ 32 +
          (c.crew.src a (c.peer t (c.threadOf t / n * n + i))).toNat) 0) / 2 ^ (bits * (c.threadOf t % n)) % 2 ^ bits)))))

/-! ### Floating point -/

/-- R201, R203 to R205, R212: the arithmetic that never parks writes, for every active thread, the value of the operation
rounded once, and ORs its flags into FLAGS (R156).  On finite operands, numbers m * 2^e with a sign, that value is
`Fmt.round` of the exact sum, product, fused sum or scaled value; of a quotient or a root cut after at least 200 bits, with a
mark where something is cut off; FRND rounds to a whole number first; FMIN and FMAX give the operand of the lower and the
higher value. -/
def Obligations.FloatArithmetic : Prop :=
  (∀ (s : State) (c : Ctx) (d a b : BitVec 7) (t : BitVec 2) (i : Instr) (f : Nat → Nat × BitVec 5),
    (i, f) ∈ ([
      (.fadd d a b t, fun k => fpAdd (fmtOf t) c.rm (c.crew.num t a k) (c.crew.num t b k)),
      (.fsub d a b t, fun k => fpSub (fmtOf t) c.rm (c.crew.num t a k) (c.crew.num t b k)),
      (.fmul d a b t, fun k => fpMul (fmtOf t) c.rm (c.crew.num t a k) (c.crew.num t b k)),
      (.fmin d a b t, fun k => fpMinMax (fmtOf t) false (c.crew.fbits t a k) (c.crew.fbits t b k)),
      (.fmax d a b t, fun k => fpMinMax (fmtOf t) true (c.crew.fbits t a k) (c.crew.fbits t b k)),
      (.fabs d a t, fun k => (fpAbs (fmtOf t) (c.crew.fbits t a k), 0#5)),
      (.fneg d a t, fun k => (fpNeg (fmtOf t) (c.crew.fbits t a k), 0#5)),
      (.fscale d a b t, fun k => fpScale (fmtOf t) c.rm (c.crew.num t a k) (c.crew.src b k)),
      (.fma d a b t, fun k => fpFma (fmtOf t) c.rm (c.crew.num t a k) (c.crew.num t b k) (c.crew.num t (c.third d) k)),
      (.fdiv d a b t, fun k => fpDiv (fmtOf t) c.rm (c.crew.num t a k) (c.crew.num t b k)),
      (.fsqrt d a t, fun k => fpSqrt (fmtOf t) c.rm (c.crew.num t a k)),
      (.frnd d a t, fun k => fpRnd (fmtOf t) c.rm (c.crew.fbits t a k))] : List (Instr × (Nat → Nat × BitVec 5))) →
    Issues (formOf i) s c →
    exec i s = .next (c.done s ((c.crew.putF t d (c.slots.map (fun k => (k, (f k).1)))).orFlags
      (orAll (c.slots.map (fun k => (f k).2)))))) ∧
  (∀ (t : BitVec 2) (rm : BitVec 3) (sx sy sz : Bool) (m n k : Nat) (e g h lo : Int) (x y : Machine.Num) (v : Int) (w : Word),
    x = .fin sx m e → y = .fin sy n g → lo = (if e ≤ g then e else g) →
    v = (if sx then -1 else 1) * (m * 2 ^ (e - lo).toNat : Nat) + (if sy then -1 else 1) * (n * 2 ^ (g - lo).toNat : Nat) →
    let f := fmtOf t
    (m ≠ 0 → n ≠ 0 → v ≠ 0 → fpAdd f rm x y = f.round rm 0#32 (magOf (decide (v < 0)) v.natAbs lo)) ∧
    (m ≠ 0 → n = 0 → fpAdd f rm x y = f.round rm 0#32 (magOf sx m e)) ∧
    (m = 0 → n ≠ 0 → fpAdd f rm x y = f.round rm 0#32 (magOf sy n g)) ∧
    (v = 0 → fpAdd f rm x y = (f.zero (decide (m = 0) && decide (n = 0) && sx && sy || decide (rm = 3#3)), 0#5)) ∧
    fpSub f rm x y = fpAdd f rm x (.fin (!sy) n g) ∧
    fpMul f rm x y = f.round rm 0#32 (magOf (xor sx sy) (m * n) (e + g)) ∧
    fpFma f rm x y (.fin sz k h) = fpAdd f rm (.fin (xor sx sy) (m * n) (e + g)) (.fin sz k h) ∧
    fpScale f rm x w = f.round rm 0#32 (magOf sx m (e + w.toInt)) ∧
    (m ≠ 0 → n ≠ 0 → ∃ j : Nat, 2 ^ 200 ≤ m * 2 ^ j / n ∧ fpDiv f rm x y =
      f.round rm 0#32 ⟨xor sx sy, m * 2 ^ j / n, e - g - j, decide (m * 2 ^ j % n ≠ 0)⟩) ∧
    (m ≠ 0 → sx = false → ∃ j r : Nat, 2 ^ 200 ≤ r ∧ r * r ≤ m * 2 ^ j ∧ m * 2 ^ j < (r + 1) * (r + 1) ∧
      (e - j) % 2 = 0 ∧ fpSqrt f rm x = f.round rm 0#32 ⟨false, r, (e - j) / 2, decide (r * r ≠ m * 2 ^ j)⟩)) ∧
  (∀ (t : BitVec 2) (rm : BitVec 3) (a b : Nat) (sx sy : Bool) (m n d whole rest : Nat) (e g lo : Int) (up : Bool),
    (fmtOf t).read a = .fin sx m e → (fmtOf t).read b = .fin sy n g →
    (m ≠ 0 → d = 2 ^ (-e).toNat → whole = m * 2 ^ e.toNat / d → rest = m * 2 ^ e.toNat % d → rm.toNat ≤ 4 →
      up = (match rm.toNat with
        | 0 => decide (d < 2 * rest) || (decide (2 * rest = d) && decide (whole % 2 = 1))
        | 1 => false
        | 2 => decide (rest ≠ 0) && !sx
        | 3 => decide (rest ≠ 0) && sx
        | _ => decide (d ≤ 2 * rest)) →
      fpRnd (fmtOf t) rm a = (((fmtOf t).round 0#3 0#32 (magOf sx (whole + (if up then 1 else 0)) 0)).1,
        if rest ≠ 0 then flInexact else 0#5)) ∧
    (lo = (if e ≤ g then e else g) →
      (if sx then -1 else 1 : Int) * (m * 2 ^ (e - lo).toNat : Nat) <
        (if sy then -1 else 1 : Int) * (n * 2 ^ (g - lo).toNat : Nat) →
      fpMinMax (fmtOf t) false a b = (a % 2 ^ (fmtOf t).width, 0#5) ∧ fpMinMax (fmtOf t) false b a = (a % 2 ^ (fmtOf t).width, 0#5) ∧
      fpMinMax (fmtOf t) true a b = (b % 2 ^ (fmtOf t).width, 0#5) ∧ fpMinMax (fmtOf t) true b a = (b % 2 ^ (fmtOf t).width, 0#5)))

/-- R200, R201, R203 to R205, R212: the results that are not roundings, for every format of the F class: NaN operands, infinities,
zeros, and the flags they raise; x and y are finite with magnitudes m * 2^e and n * 2^g. -/
def Obligations.FloatSpecialCases : Prop :=
  ∀ (t : BitVec 2) (rm : BitVec 3) (sx sy q : Bool) (m n : Nat) (e g : Int) (z : Machine.Num),
    let f := fmtOf t
    let x : Machine.Num := .fin sx m e
    let y : Machine.Num := .fin sy n g
    (z.isNan = false →
      fpAdd f rm (.nan q) z = (f.nan, if q then flInvalid else 0#5) ∧ fpMul f rm z (.nan q) = (f.nan, if q then flInvalid else 0#5) ∧
      fpDiv f rm z (.nan q) = (f.nan, if q then flInvalid else 0#5)) ∧
    fpSqrt f rm (.nan q) = (f.nan, if q then flInvalid else 0#5) ∧
    (fpAdd f rm (.inf sx) (.inf sy) = if sx = sy then (f.inf sx, 0#5) else (f.nan, flInvalid)) ∧
    (fpSub f rm (.inf sx) (.inf sy) = if sx = sy then (f.nan, flInvalid) else (f.inf sx, 0#5)) ∧
    fpAdd f rm (.inf sx) y = (f.inf sx, 0#5) ∧
    (fpMul f rm (.inf sx) y = if n = 0 then (f.nan, flInvalid) else (f.inf (xor sx sy), 0#5)) ∧
    fpDiv f rm (.inf sx) (.inf sy) = (f.nan, flInvalid) ∧
    fpDiv f rm (.inf sx) y = (f.inf (xor sx sy), 0#5) ∧ fpDiv f rm x (.inf sy) = (f.zero (xor sx sy), 0#5) ∧
    (n = 0 → fpDiv f rm x y = if m = 0 then (f.nan, flInvalid) else (f.inf (xor sx sy), flDivzero)) ∧
    (fpSqrt f rm (.inf sx) = if sx then (f.nan, flInvalid) else (f.inf false, 0#5)) ∧
    (m = 0 → fpSqrt f rm x = (f.zero sx, 0#5)) ∧ (m ≠ 0 → sx = true → fpSqrt f rm x = (f.nan, flInvalid)) ∧
    (m = 0 → fpFma f rm x (.inf sy) z = (f.nan, flInvalid) ∧ fpFma f rm (.inf sy) x z = (f.nan, flInvalid)) ∧
    (m = 0 → fpFma f rm x (.inf sy) (.nan q) = (f.nan, flInvalid) ∧ fpFma f rm (.inf sy) x (.nan q) = (f.nan, flInvalid)) ∧
    (m ≠ 0 → fpFma f rm x (.inf sy) (.inf q) = if xor sx sy = q then (f.inf q, 0#5) else (f.nan, flInvalid)) ∧
    (m ≠ 0 → fpFma f rm x (.inf sy) y = (f.inf (xor sx sy), 0#5)) ∧ fpFma f rm x y (.inf q) = (f.inf q, 0#5) ∧
    (z.isNan = false → fpFma f rm x y (.nan q) = (f.nan, if q then flInvalid else 0#5) ∧
      fpFma f rm x (.nan q) z = (f.nan, if q then flInvalid else 0#5)) ∧
    (m = 0 ∨ n = 0 → fpFma f rm x y (.fin q 0 g) = (f.zero ((xor sx sy && q) || decide (rm = 3#3)), 0#5)) ∧
    fpFma f rm x y (.fin (!(xor sx sy)) (m * n) (e + g)) =
      (f.zero (decide (rm = 3#3)), 0#5) ∧
    (∀ a : Nat, (f.read a = .inf sx → fpRnd f rm a = (f.inf sx, 0#5)) ∧
      (f.read a = .nan q → fpRnd f rm a = (f.nan, if q then flInvalid else 0#5)) ∧
      (f.read a = .fin sx 0 e → fpRnd f rm a = (f.zero sx, 0#5))) ∧
    (∀ (a b : Nat) (hi : Bool), f.read a = .nan q →
      (∀ q', f.read b = .nan q' → fpMinMax f hi a b = (f.nan, if q = true ∨ q' = true then flInvalid else 0#5)) ∧
      ((f.read b).isNan = false → fpMinMax f hi a b = (b % 2 ^ f.width, if q then flInvalid else 0#5) ∧
        fpMinMax f hi b a = (b % 2 ^ f.width, if q then flInvalid else 0#5))) ∧
    (∀ a b : Nat, f.read a = .fin sx 0 e → f.read b = .fin sy 0 g →
      fpMinMax f false a b = (f.zero (sx || sy), 0#5) ∧ fpMinMax f true a b = (f.zero (sx && sy), 0#5))

/-- R155 to R157: the one rounding, on every format.  A number that a format holds is itself in every mode and raises no flag.
A magnitude x (in units of 2^z) from point k of the format's grid up to the next is rounded to one of the two by the mode (R155,
R157); a point beyond the largest finite value overflows by the table of R155; else a number off the grid is inexact, and
underflows where it is tiny (R156): below the smallest normal n, also once it is rounded on the grid that goes on below n
with the spacing of the last binary order below it, whose last point is p.  A quotient or a root that is cut off after its leading
bits rounds as a number in the middle of the gap does. -/
def Obligations.RepresentableRoundsToItself : Prop :=
  (∀ (t : BitVec 2) (rm : BitVec 3) (r : Word) (bits m : Nat) (neg : Bool) (e : Int),
    bits < 2 ^ (fmtOf t).width → (fmtOf t).read bits = .fin neg m e →
    (fmtOf t).round rm r (magOf neg m e) = (bits, 0#5)) ∧
  (∀ (f : Fmt) (rm : BitVec 3) (r : Word) (neg : Bool) (m k x l h n p : Nat) (e z : Int) (up tiny : Bool) (code : Nat),
    f ∈ [fp64, fp32, fp16, bf16, e4m3, e5m2, e3m2, e2m3, e2m1] → rm.toNat ≤ 5 →
    z ≤ e → z ≤ f.emin - f.mb - 1 → m ≠ 0 → x = m * 2 ^ (e - z).toNat →
    l = f.point k z → h = f.point (k + 1) z → l ≤ x → x < h →
    n = 2 ^ (f.emin - z).toNat → p = (2 ^ (f.mb + 1) - 1) * 2 ^ (f.emin - 1 - f.mb - z).toNat →
    up = (decide (x ≠ l) && roundsAway rm neg r (decide (k % 2 = 1)) l x h) →
    tiny = (decide (x < n) && !(decide (p < x) && roundsAway rm neg r true p x n)) →
    code = (if up then k + 1 else k) →
    (code ≤ f.maxCode → f.round rm r (magOf neg m e) = (f.signed neg code,
      (if x = l then 0#5 else flInexact) ||| (if x ≠ l ∧ tiny = true then flUnderflow else 0#5))) ∧
    (f.maxCode < code → f.round rm r (magOf neg m e) = (f.signed neg (if f.hasInf = true ∧ (match rm.toNat with
        | 1 => false
        | 2 => !neg
        | 3 => neg
        | _ => true) = true then f.infCode else f.maxCode), flOverflow ||| flInexact))) ∧
  (∀ (f : Fmt) (rm : BitVec 3) (r : Word) (neg : Bool) (m : Nat) (e : Int),
    f ∈ [fp64, fp32, fp16, bf16, e4m3, e5m2, e3m2, e2m3, e2m1] →
    f.round rm r (magOf neg 0 e) = (f.signed neg 0, 0#5) ∧
    (2 ^ (f.mb + 2) ≤ m → rm.toNat ≤ 4 → f.round rm r ⟨neg, m, e, true⟩ = f.round rm r (magOf neg (2 * m + 1) (e - 1)))) ∧
  (∀ f neg code inf max, (f, inf, max) ∈ ([(fp64, some 0x7FF0000000000000, 0x7FEFFFFFFFFFFFFF),
      (fp32, some 0x7F800000, 0x7F7FFFFF), (fp16, some 0x7C00, 0x7BFF), (bf16, some 0x7F80, 0x7F7F), (e5m2, some 0x7C, 0x7B),
      (e4m3, none, 0x7E), (e3m2, none, 0x1F), (e2m3, none, 0x1F), (e2m1, none, 0x7)] : List (Fmt × Option Nat × Nat)) →
    f.maxCode = max ∧ f.hasInf = inf.isSome ∧ (∀ i, inf = some i → f.infCode = i) ∧
      f.signed neg code = if neg = true then code + 2 ^ (f.width - 1) else code)

/-- R211, R212, R215: FCMP, FCLASS, FEXPO and MATCH.F, which in a protected launch sees the slots of the member's own members
(R138, R140).  With a NaN, NE and UN alone hold, and invalid is raised for a signalling NaN and for LT, LE, GT and GE; else the
condition compares the two numbers, in units of 2^z, and raises nothing. -/
def Obligations.FloatCompareClassify : Prop :=
  (∀ (s : State) (c : Ctx) (cc p : BitVec 3) (a b : BitVec 7) (t : BitVec 2), Issues (formOf (.fcmp cc p a b t)) s c →
    MembersAgree c (fun k => (fpCmp cc (c.crew.num t a k) (c.crew.num t b k)).1) →
    exec (.fcmp cc p a b t) s = .next (c.done s
      ((c.vecPred p (fun k => (fpCmp cc (c.crew.num t a k) (c.crew.num t b k)).1)).orFlags
        (orAll (c.slots.map (fun k => (fpCmp cc (c.crew.num t a k) (c.crew.num t b k)).2)))))) ∧
  (∀ (cc : BitVec 3) (x y : Machine.Num), x.isNan = true ∨ y.isNan = true →
    fpCmp cc x y = (decide (cc.toNat = 1 ∨ cc.toNat = 6),
      if x.isSig = true ∨ y.isSig = true ∨ (2 ≤ cc.toNat ∧ cc.toNat ≤ 5) then flInvalid else 0#5)) ∧
  (∀ (cc : BitVec 3) (x y : Machine.Num) (z : Int) (same : Bool), x.isNan = false → y.isNan = false → UnitsFor z [x, y] →
    same = decide (x = y ∨ (x.isInf = false ∧ y.isInf = false ∧ x.units z = y.units z)) →
    numEq x y = same ∧ fpCmp cc x y = ((match cc.toNat with
      | 0 => same
      | 1 => !same
      | 2 => decide (x.Below y z)
      | 3 => same || decide (x.Below y z)
      | 4 => decide (y.Below x z)
      | 5 => same || decide (y.Below x z)
      | 6 => false
      | _ => true), 0#5)) ∧
  (∀ (s : State) (c : Ctx) (d a : BitVec 7) (t : BitVec 2) (i : Instr) (f : Machine.Num → Word),
    (i, f) ∈ ([
      (.fclass d a t, fun x => BitVec.ofNat 32 (2 ^ (match x with
        | .inf true => 0
        | .fin true m _ => if m = 0 then 3 else if m < 2 ^ (fmtOf t).mb then 2 else 1
        | .fin false m _ => if m = 0 then 4 else if m < 2 ^ (fmtOf t).mb then 5 else 6
        | .inf false => 7
        | .nan true => 8
        | .nan false => 9))),
      (.fexpo d a t, fun x => match x with
        | .fin _ m e => if m = 0 then 0x80000000#32 else BitVec.ofInt 32 (e + m.log2)
        | _ => 0x7FFFFFFF#32)] : List (Instr × (Machine.Num → Word))) →
    Issues (formOf i) s c → exec i s = .next (c.done s (c.vec d (fun k => f (c.crew.num t a k))))) ∧
  (∀ (s : State) (c : Ctx) (d a : BitVec 7) (t : BitVec 2) (m : Nat → Word), Issues (formOf (.matchF d a t)) s c →
    (∀ k, m k = maskOf ((c.threads.filter (fun u => !(c.crew.num t a k).isNan && !(c.crew.num t a (c.peer k u)).isNan &&
      numEq (c.crew.num t a (c.peer k u)) (c.crew.num t a k))).map c.threadOf)) → MembersAgree c m →
    exec (.matchF d a t) s = .next (c.done s ((c.vec d m).orFlags
      (orAll (c.slots.map (fun k => sigFlag [c.crew.num t a k]))))))

/-- R162 to R164, R158: the conversions, QUANT and DEQ; under SR the counters of the active threads advance.  A code that is
not allowed, and code 9 under a mode other than RNE, is an invalid instruction of the lowest thread that holds one (R364).  The
rows of R159 for NaNs, infinities, finite numbers and integers, a scale, the LQ2 weights of R151 and the index of least squared
distance are given in exact arithmetic, in units of 2^z; the mixing value is that of R158. -/
def Obligations.Conversions : Prop :=
  (∀ (s : State) (c : Ctx) (d a : BitVec 7) (x y : BitVec 4) (i : Instr) (t : BitVec 2) (f : Nat → Nat × BitVec 5),
    (i, t, f) ∈ ([
      (.cvt d a x y, if x = 1#4 then 1#2 else 0#2, fun k =>
        convFloat (fmtCode x.toNat) c.rm (c.draw k) ((fmtCode y.toNat).read (c.crew.wide (y = 1#4) a k))),
      (.cvtiF2i d a x y, if intWidth x = 64 then 1#2 else 0#2, fun k =>
        let r := convInt (intSigned x) (intWidth x) c.rm (c.draw k) ((fmtCode y.toNat).read (c.crew.wide (y = 1#4) a k))
        ((BitVec.ofInt 64 r.1).toNat, r.2)),
      (.cvtiI2f d a x y, if x = 1#4 then 1#2 else 0#2, fun k =>
        convFloat (fmtCode x.toNat) c.rm (c.draw k) (numOfInt (intSrc y (c.crew.wide (intWidth y = 64) a k))))] :
          List (Instr × BitVec 2 × (Nat → Nat × BitVec 5))) →
    Issues (formOf i) s c →
    exec i s = .next (c.done s (c.bumpSr ((c.crew.putF t d (c.slots.map (fun k => (k, (f k).1)))).orFlags
      (orAll (c.slots.map (fun k => (f k).2))))))) ∧
  (∀ (s : State) (c : Ctx) (d a b : BitVec 7), Issues (formOf (.quant d a b)) s c →
    ∀ ok : Nat → Prop, (∀ t, ok t ↔ ∀ k, k = t ∨ (c.launch.prot = true ∧ k = t + 16) →
      2 ≤ quantCode (c.crew.src b k) ∧ quantCode (c.crew.src b k) ≤ 9 ∧ (quantCode (c.crew.src b k) = 9 → c.rm = 0#3)) →
    (∀ t ∈ c.threads, ¬ ok t → (∀ u ∈ c.threads, u < t → ok u) →
      exec (.quant d a b) s = .next (s.takeTrap {
        cause := 1
        thread := some t }).ran) ∧
    ((∀ t ∈ c.threads, ok t) → ∃ f : Nat → Nat × BitVec 5, (∀ k, f k =
        if quantCode (c.crew.src b k) = 9 then quantLq2 c.crew a b k
        else
          let x := scaled (fp32.read (c.crew.src a k).toNat) (quantScale (c.crew.src b k)) false
          let r := convFloat (fmtCode (quantCode (c.crew.src b k))) c.rm (c.draw k) x.1
          (r.1, x.2 ||| r.2)) ∧
      exec (.quant d a b) s = .next (c.done s (c.bumpSr ((c.crew.putF 0#2 d (c.slots.map (fun k => (k, (f k).1)))).orFlags
        (orAll (c.slots.map (fun k => (f k).2)))))))) ∧
  (∀ (s : State) (c : Ctx) (d a b : BitVec 7), Issues (formOf (.deq d a b)) s c →
    ∀ ok : Nat → Prop, (∀ t, ok t ↔ ∀ k, k = t ∨ (c.launch.prot = true ∧ k = t + 16) →
      2 ≤ quantCode (c.crew.src b k) ∧ quantCode (c.crew.src b k) ≤ 9) →
    (∀ t ∈ c.threads, ¬ ok t → (∀ u ∈ c.threads, u < t → ok u) →
      exec (.deq d a b) s = .next (s.takeTrap {
        cause := 1
        thread := some t }).ran) ∧
    ((∀ t ∈ c.threads, ok t) → ∃ f : Nat → Nat × BitVec 5, (∀ k, f k =
      let v := if quantCode (c.crew.src b k) = 9 then lq2Num ((c.crew.src a k).toNat % 65536) (k % 8)
        else (fmtCode (quantCode (c.crew.src b k))).read (c.crew.src a k).toNat
      let x := scaled v (quantScale (c.crew.src b k)) true
      let r := convFloat fp32 0#3 0#32 x.1
      (r.1, x.2 ||| r.2)) ∧
    exec (.deq d a b) s = .next (c.done s ((c.crew.putF 0#2 d (c.slots.map (fun k => (k, (f k).1)))).orFlags
      (orAll (c.slots.map (fun k => (f k).2))))))) ∧
  (∀ (n : Nat) (f : Fmt) (nan : Option Nat) (rm : BitVec 3) (r : Word) (q neg : Bool) (m : Nat) (e : Int),
    (n, f, nan) ∈ ([(0, fp32, some 0x7FC00000), (1, fp64, some 0x7FF8000000000000), (2, fp16, some 0x7E00),
      (3, bf16, some 0x7FC0), (4, e4m3, some 0x7F), (5, e5m2, some 0x7E), (6, e3m2, none), (7, e2m3, none), (8, e2m1, none)] :
        List (Nat × Fmt × Option Nat)) →
    fmtCode n = f ∧
    convFloat f rm r (.nan q) = (match nan with
      | some v => (v, if q then flInvalid else 0#5)
      | none => (0, flInvalid)) ∧
    convFloat f rm r (.inf neg) =
      (if f.hasInf then (f.signed neg f.infCode, 0#5) else (f.signed neg f.maxCode, flInvalid)) ∧
    convFloat f rm r (.fin neg m e) = f.round rm r (magOf neg m e)) ∧
  (∀ (y : BitVec 4) (bits w : Nat) (lo hi : Int) (rm : BitVec 3) (r : Word) (q neg : Bool),
    w = 8 * 2 ^ (y.toNat % 4) → lo = (if y.toNat < 4 then -2 ^ (w - 1) else 0) →
    hi = (if y.toNat < 4 then 2 ^ (w - 1) - 1 else 2 ^ w - 1) →
    intWidth y = w ∧ intSigned y = decide (y.toNat < 4) ∧
    intSrc y bits = (if y.toNat < 4 then (BitVec.ofNat w bits).toInt else (BitVec.ofNat w bits).toNat) ∧
    convInt (intSigned y) w rm r (.nan q) = (0, flInvalid) ∧
    convInt (intSigned y) w rm r (.inf neg) = (if neg then lo else hi, flInvalid) ∧
    (∀ (m k x l h : Nat) (e z v : Int), rm.toNat ≤ 5 → z ≤ e → z ≤ 0 → x = m * 2 ^ (e - z).toNat →
      k = x / 2 ^ (-z).toNat → l = k * 2 ^ (-z).toNat → h = (k + 1) * 2 ^ (-z).toNat →
      v = (if neg then -1 else 1) * (if x ≠ l ∧ roundsAway rm neg r (decide (k % 2 = 1)) l x h = true then k + 1 else k : Nat) →
      convInt (intSigned y) w rm r (.fin neg m e) = if v < lo then (lo, flInvalid) else if hi < v then (hi, flInvalid)
        else (v, if x = l then 0#5 else flInexact))) ∧
  (∀ (x : Machine.Num) (sc : Nat) (mul : Bool), scaled x sc mul = if sc = 255 then (.nan false, flInvalid) else (match x with
    | .fin s m e => .fin s m (e + (if mul then (sc : Int) - 127 else 127 - sc))
    | y => y, 0#5)) ∧
  (∀ x i sg m : Nat, i < 8 → sg = x % 128 → m = (if x / 128 % 512 = 256 then 0
      else if (x / 128 % 512).testBit i then (if x / 128 % 512 < 256 then 3 else 5) else 1) →
    lq2Num x i = .fin (decide (m ≠ 0) && (if i < 7 then sg.testBit i
      else decide (((List.range 7).filter sg.testBit).length % 2 = 1))) m (-1)) ∧
  (∀ (c : Crew) (a b : BitVec 7) (slot sc : Nat) (x w : Nat → Machine.Num) (z : Int) (dist : Nat → Int),
    sc = quantScale (c.src b (slot / 8 * 8)) →
    (∀ i, x i = (scaled (fp32.read (c.src a (slot / 8 * 8 + i)).toNat) sc false).1) →
    (∀ i, w i = match x i with
      | .nan _ => .fin false 0 0
      | .inf neg => .fin neg 5 (-1)
      | y => y) → UnitsFor z ((List.range 8).map w) → z ≤ -1 →
    (∀ y, dist y = ((List.range 8).map (fun i => ((w i).units z - (lq2Num y i).units z) ^ 2)).sum) →
    (quantLq2 c a b slot).1 < 65536 ∧
    (∀ y < 65536, dist (quantLq2 c a b slot).1 ≤ dist y ∧ (dist y = dist (quantLq2 c a b slot).1 → (quantLq2 c a b slot).1 ≤ y)) ∧
    (quantLq2 c a b slot).2 = (if (List.range 8).any (fun i => (x i).isNan || (x i).isInf) then flInvalid else 0#5) |||
      (if dist (quantLq2 c a b slot).1 = 0 then 0#5 else flInexact)) ∧
  (∀ (seed key ctr : DWord) (x y : Nat → DWord), x 0 = seed ^^^ key → y 0 = ctr ^^^ 0x6A09E667F3BCC909#64 →
    (∀ i, x (i + 1) = (x i + y i).rotateLeft 32 ∧
      y (i + 1) = (y i).rotateLeft ([13, 29, 41, 17].getD i 0) ^^^ (x i + y i)) →
    mixLow seed key ctr = (x 4 ^^^ y 4).setWidth 32) ∧
  (∀ (c : Ctx) (k : Nat), c.draw k = mixLow c.launch.seed (BitVec.ofNat 64 (c.team.lcore % 256 * 2 ^ 56 +
    c.team.teamid % 8 * 2 ^ 53 + c.crew.key.crew % 32 * 2 ^ 48 + c.threadOf k))
      ((Cells.get 0#32 c.crew.srctr (c.threadOf k)).setWidth 64))

/-! ### Staged evaluation -/

/-- R167, R170, R174: the issue of a staged function or sum.  With no lane to test, its results are written at once; else it
takes its park records and its destination is pending, or it waits for records.  The three cases exclude each other and
leave none out.  A lane's value and flags, and whether it is tested, are given for the operands of R205, R207 and R208, for the
certified cases of R170, for reciprocals, roots and hypotenuses, for every other finite operand of the functions of R206 and
R208 (`Value.Rounds`: the value is rounded from the cell of 200 bits in which its named enclosure lies; the search is log entry
21, DEDUCED), and for the sums of R209 and R214, in units of 2^z; `one` is ±1, `pi c` is c quarters of pi.  The model's readings:
the free records of lowest index are reserved at issue (log entry 102, DEDUCED), a wait for records begins where it is found
(`parkBehind`, log entry 60, DEDUCED), and SCAN.EX raises the flags of the addends that a result takes (log entry 93,
DEDUCED). -/
def Obligations.StagedIssue : Prop :=
  (∀ (s : State) (c : Ctx) (d a b : BitVec 7) (t : BitVec 2) (u : BitVec 1) (i : Instr) (major : BitVec 6) (sel : BitVec 5)
    (t' : BitVec 2) (excl : Bool) (arg : Nat → DWord × DWord × DWord),
    (i, major, sel, t', excl, arg) ∈ ([
      (.frsq d a t, 0x1A#6, 2#5, t, false, arg1 t a c.crew), (.frcp d a t, 0x1A#6, 3#5, t, false, arg1 t a c.crew),
      (.fexp d a t, 0x1B#6, 0#5, t, false, arg1 t a c.crew), (.fexp2 d a t, 0x1B#6, 1#5, t, false, arg1 t a c.crew),
      (.fexp10 d a t, 0x1B#6, 2#5, t, false, arg1 t a c.crew), (.fexpm1 d a t, 0x1B#6, 3#5, t, false, arg1 t a c.crew),
      (.flog d a t, 0x1B#6, 4#5, t, false, arg1 t a c.crew), (.flog2 d a t, 0x1B#6, 5#5, t, false, arg1 t a c.crew),
      (.flog10 d a t, 0x1B#6, 6#5, t, false, arg1 t a c.crew), (.flog1p d a t, 0x1B#6, 7#5, t, false, arg1 t a c.crew),
      (.fsin d a t, 0x1B#6, 8#5, t, false, arg1 t a c.crew), (.fcos d a t, 0x1B#6, 9#5, t, false, arg1 t a c.crew),
      (.ftan d a t, 0x1B#6, 10#5, t, false, arg1 t a c.crew), (.fsinpi d a t, 0x1B#6, 11#5, t, false, arg1 t a c.crew),
      (.fcospi d a t, 0x1B#6, 12#5, t, false, arg1 t a c.crew), (.fatan d a t, 0x1B#6, 13#5, t, false, arg1 t a c.crew),
      (.ftanh d a t, 0x1B#6, 14#5, t, false, arg1 t a c.crew), (.ferf d a t, 0x1B#6, 15#5, t, false, arg1 t a c.crew),
      (.fcbrt d a t, 0x1B#6, 16#5, t, false, arg1 t a c.crew), (.fatan2 d a b t, 0x1C#6, 0#5, t, false, arg2 t a b c.crew),
      (.fhypot d a b t, 0x1C#6, 1#5, t, false, arg2 t a b c.crew),
      (.fpow d a b, 0x1C#6, 2#5, 0#2, false, arg2 0#2 a b c.crew),
      (.fdot2 d a b u, 0x1C#6, 3#5, 1#1 ++ u, false, fun k =>
        ((c.crew.src a k).setWidth 64, (c.crew.src b k).setWidth 64, (c.crew.src (c.third d) k).setWidth 64)),
      (.fdot4 d a b u, 0x1C#6, 4#5, 0#1 ++ u, false, fun k =>
        ((c.crew.src a k).setWidth 64, (c.crew.src b k).setWidth 64, (c.crew.src (c.third d) k).setWidth 64)),
      (.redux d a t, 0x16#6, 16#5 + t.setWidth 5, t, false, arg1 t a c.crew),
      (.scan d a t, 0x16#6, 20#5 + t.setWidth 5, t, false, arg1 t a c.crew),
      (.scanEx d a t, 0x16#6, 20#5 + t.setWidth 5, t, true, arg1 t a c.crew)] :
        List (Instr × BitVec 6 × BitVec 5 × BitVec 2 × Bool × (Nat → DWord × DWord × DWord))) →
    Issues (formOf i) s c →
    ∀ (args : Args) (lanes : List (Nat × Lane)), args = c.slots.map (fun k => (k, arg k)) →
    lanes = (memberArgs c.launch.prot args).flatMap (lanesOf major sel t' c.rm excl) →
    ((∀ p ∈ lanes, p.2.test = none) → exec i s = .next (c.done s
      ((c.crew.putF (resultFmt major sel t') d (lanes.map (fun p => (p.1, p.2.bits)))).orFlags
        (orAll (lanes.map (fun p => p.2.flags)))))) ∧
    ((∃ p ∈ lanes, p.2.test ≠ none) → s.parkBehind c.team.core c = false →
      parkNeed major t' c.launch.prot args.length ≤ (s.parkFree c.team.core).length →
      exec i s = .next { c.done s (c.crew.mark s.serial (fieldRegs d (if resultFmt major sel t' = 1#2 then 2 else 1))) with
        serial := s.serial + 1
        fl := { s.fl with fasts := s.fl.fasts ++ [⟨s.serial, c.crew.key, c.team.core, major, sel, t', c.rm, d, c.act,
          (s.parkFree c.team.core).take (parkNeed major t' c.launch.prot args.length), args, excl, c.grp.first, s.free⟩] }
        free := s.free + 32 }) ∧
    ((∃ p ∈ lanes, p.2.test ≠ none) → (s.parkBehind c.team.core c = true ∨
        (s.parkFree c.team.core).length < parkNeed major t' c.launch.prot args.length) →
      exec i s = .next s.waitPark)) ∧
  (∀ (fn : Fn) (major : BitVec 6) (sel : BitVec 5) (t : BitVec 2) (rm : BitVec 3) (excl : Bool) (args : Args),
    (fn, major, sel) ∈ ([(.rsq, 0x1A#6, 2#5), (.rcp, 0x1A#6, 3#5), (.exp, 0x1B#6, 0#5), (.exp2, 0x1B#6, 1#5),
      (.exp10, 0x1B#6, 2#5), (.expm1, 0x1B#6, 3#5), (.log, 0x1B#6, 4#5), (.log2, 0x1B#6, 5#5), (.log10, 0x1B#6, 6#5),
      (.log1p, 0x1B#6, 7#5), (.sin, 0x1B#6, 8#5), (.cos, 0x1B#6, 9#5), (.tan, 0x1B#6, 10#5), (.sinpi, 0x1B#6, 11#5),
      (.cospi, 0x1B#6, 12#5), (.atan, 0x1B#6, 13#5), (.tanh, 0x1B#6, 14#5), (.erf, 0x1B#6, 15#5), (.cbrt, 0x1B#6, 16#5),
      (.atan2, 0x1C#6, 0#5), (.hypot, 0x1C#6, 1#5), (.pow, 0x1C#6, 2#5)] : List (Fn × BitVec 6 × BitVec 5)) →
    lanesOf major sel t rm excl args = args.map (fun p =>
      (p.1, fnLane fn t rm p.2.1.toNat p.2.2.1.toNat))) ∧
  (∀ (xa xb m n k : Nat) (t : BitVec 2) (rm : BitVec 3) (s q : Bool) (e g j : Int) (fn : Fn) (one : Bool → Nat)
      (pi : Bool → Nat → Nat × BitVec 5) (when : Prop) (v : Nat) (fl : BitVec 5),
    let f := fmtOf t
    let a := f.read xa
    let b := f.read xb
    (∀ r, one r = f.signed r (f.bias * 2 ^ f.mb)) →
    (∀ r c, pi r c = f.round rm 0#32
      ⟨r, c * 0x3243F6A8885A308D313198A2E03707344A4093822299F31D0082EFA98EC4E6C89, -258, true⟩) → m ≠ 0 → n ≠ 0 →
    (a = .nan q → fn ∉ [.atan2, .hypot, .pow] → fnLane fn t rm xa xb = ⟨f.nan, if q then flInvalid else 0#5, none⟩) ∧
    ((fn, a, when, v, fl) ∈ ([
      (.rsq, .inf false, True, f.zero false, 0#5), (.rsq, .inf true, True, f.nan, flInvalid),
      (.rsq, .fin s 0 e, True, f.inf s, flDivzero), (.rsq, .fin true m e, True, f.nan, flInvalid),
      (.rcp, .inf s, True, f.zero s, 0#5), (.rcp, .fin s 0 e, True, f.inf s, flDivzero),
      (.exp, .inf s, True, if s then f.zero false else f.inf false, 0#5), (.exp, .fin s 0 e, True, one false, 0#5),
      (.exp2, .inf s, True, if s then f.zero false else f.inf false, 0#5), (.exp2, .fin s 0 e, True, one false, 0#5),
      (.exp2, .fin s m e, SameNumber m e k 0 ∧ j = (if s then -(k : Int) else k) ∧ f.emin - f.mb ≤ j ∧ j ≤ f.bias,
        (f.round 0#3 0#32 (magOf false 1 j)).1, 0#5),
      (.exp10, .inf s, True, if s then f.zero false else f.inf false, 0#5), (.exp10, .fin s 0 e, True, one false, 0#5),
      (.expm1, .inf s, True, if s then one true else f.inf false, 0#5), (.expm1, .fin s 0 e, True, f.zero s, 0#5),
      (.log, .inf false, True, f.inf false, 0#5), (.log, .inf true, True, f.nan, flInvalid),
      (.log, .fin s 0 e, True, f.inf true, flDivzero), (.log, .fin true m e, True, f.nan, flInvalid),
      (.log, .fin false m e, SameNumber m e 1 0, f.zero false, 0#5),
      (.log2, .inf false, True, f.inf false, 0#5), (.log2, .inf true, True, f.nan, flInvalid),
      (.log2, .fin s 0 e, True, f.inf true, flDivzero), (.log2, .fin true m e, True, f.nan, flInvalid),
      (.log2, .fin false m e, SameNumber m e 1 j, (f.round 0#3 0#32 (magOf (decide (j < 0)) j.natAbs 0)).1, 0#5),
      (.log10, .inf false, True, f.inf false, 0#5), (.log10, .inf true, True, f.nan, flInvalid),
      (.log10, .fin s 0 e, True, f.inf true, flDivzero), (.log10, .fin true m e, True, f.nan, flInvalid),
      (.log10, .fin false m e, SameNumber m e 1 0, f.zero false, 0#5),
      (.log1p, .inf false, True, f.inf false, 0#5), (.log1p, .inf true, True, f.nan, flInvalid),
      (.log1p, .fin s 0 e, True, f.zero s, 0#5), (.log1p, .fin true m e, SameNumber m e 1 0, f.inf true, flDivzero),
      (.log1p, .fin true m e, 2 ^ (-e).toNat < m * 2 ^ e.toNat, f.nan, flInvalid),
      (.sin, .inf s, True, f.nan, flInvalid), (.sin, .fin s 0 e, True, f.zero s, 0#5),
      (.cos, .inf s, True, f.nan, flInvalid), (.cos, .fin s 0 e, True, one false, 0#5),
      (.tan, .inf s, True, f.nan, flInvalid), (.tan, .fin s 0 e, True, f.zero s, 0#5),
      (.sinpi, .inf s, True, f.nan, flInvalid), (.sinpi, .fin s 0 e, True, f.zero s, 0#5),
      (.sinpi, .fin s m e, SameNumber m e k 0, f.zero s, 0#5),
      (.sinpi, .fin s m e, SameNumber m e (2 * k + 1) (-1), one (xor s (decide (k % 2 = 1))), 0#5),
      (.cospi, .inf s, True, f.nan, flInvalid), (.cospi, .fin s 0 e, True, one false, 0#5),
      (.cospi, .fin s m e, SameNumber m e k 0, one (decide (k % 2 = 1)), 0#5),
      (.cospi, .fin s m e, SameNumber m e (2 * k + 1) (-1), f.zero false, 0#5),
      (.atan, .inf s, True, (pi s 2).1, (pi s 2).2), (.atan, .fin s 0 e, True, f.zero s, 0#5),
      (.tanh, .inf s, True, one s, 0#5), (.tanh, .fin s 0 e, True, f.zero s, 0#5),
      (.erf, .inf s, True, one s, 0#5), (.erf, .fin s 0 e, True, f.zero s, 0#5),
      (.cbrt, .inf s, True, f.inf s, 0#5), (.cbrt, .fin s 0 e, True, f.zero s, 0#5)] :
        List (Fn × Machine.Num × Prop × Nat × BitVec 5)) → when → fnLane fn t rm xa xb = ⟨v, fl, none⟩) ∧
    ((fn, a, b, when, v, fl) ∈ ([
      (.atan2, .nan q, b, True, f.nan, sigFlag [.nan q, b]), (.atan2, a, .nan q, True, f.nan, sigFlag [a, .nan q]),
      (.atan2, .fin s 0 e, b, b.isNan = false ∧ b.neg = false, f.zero s, 0#5),
      (.atan2, .fin s 0 e, b, b.neg = true, (pi s 4).1, (pi s 4).2),
      (.atan2, .fin s m e, .fin q 0 g, True, (pi s 2).1, (pi s 2).2), (.atan2, .inf s, .fin q k g, True, (pi s 2).1, (pi s 2).2),
      (.atan2, .inf s, .inf q, True, (pi s (if q then 3 else 1)).1, (pi s (if q then 3 else 1)).2),
      (.atan2, .fin s m e, .inf false, True, f.zero s, 0#5), (.atan2, .fin s m e, .inf true, True, (pi s 4).1, (pi s 4).2),
      (.hypot, .inf s, b, True, f.inf false, sigFlag [b]), (.hypot, a, .inf s, True, f.inf false, sigFlag [a]),
      (.hypot, .nan q, b, b.isInf = false, f.nan, sigFlag [.nan q, b]),
      (.hypot, a, .nan q, a.isInf = false, f.nan, sigFlag [a, .nan q]),
      (.pow, a, .fin s 0 e, True, one false, sigFlag [a]),
      (.pow, .fin false m e, b, SameNumber m e 1 0, one false, sigFlag [b]),
      (.pow, .nan q, b, b.isZero = false, f.nan, sigFlag [.nan q, b]),
      (.pow, .fin s k e, .nan q, k = 0 ∨ s = true ∨ ¬ SameNumber k e 1 0, f.nan, if q then flInvalid else 0#5),
      (.pow, .inf s, .nan q, True, f.nan, if q then flInvalid else 0#5),
      (.pow, .fin s 0 e, .fin true n g, SameNumber n g (2 * k + 1) 0, f.inf s, flDivzero),
      (.pow, .fin s 0 e, .fin true n g, ∀ i, ¬ SameNumber n g (2 * i + 1) 0, f.inf false, flDivzero),
      (.pow, .fin s 0 e, .inf q, True, if q then f.inf false else f.zero false, 0#5),
      (.pow, .fin s 0 e, .fin false n g, SameNumber n g (2 * k + 1) 0, f.zero s, 0#5),
      (.pow, .fin s 0 e, .fin false n g, ∀ i, ¬ SameNumber n g (2 * i + 1) 0, f.zero false, 0#5),
      (.pow, .fin true m e, .inf q, SameNumber m e 1 0, one false, 0#5),
      (.pow, .fin s m e, .inf q, m * 2 ^ e.toNat < 2 ^ (-e).toNat, if q then f.inf false else f.zero false, 0#5),
      (.pow, .fin s m e, .inf q, 2 ^ (-e).toNat < m * 2 ^ e.toNat, if q then f.zero false else f.inf false, 0#5),
      (.pow, .inf s, .inf q, True, if q then f.zero false else f.inf false, 0#5),
      (.pow, .inf false, .fin q n g, True, if q then f.zero false else f.inf false, 0#5),
      (.pow, .inf true, .fin q n g, SameNumber n g (2 * k + 1) 0, if q then f.zero true else f.inf true, 0#5),
      (.pow, .inf true, .fin q n g, ∀ i, ¬ SameNumber n g (2 * i + 1) 0, if q then f.zero false else f.inf false, 0#5),
      (.pow, .fin true m e, .fin q n g, ∀ i, ¬ SameNumber n g i 0, f.nan, flInvalid)] :
        List (Fn × Machine.Num × Machine.Num × Prop × Nat × BitVec 5)) → when →
      fnLane fn t rm xa xb = ⟨v, fl, none⟩) ∧
    (∀ x : Mag, (fn, a, b, when, x) ∈ ([
      (.rcp, .fin s m e, b, SameNumber m e 1 j, magOf s 1 (-j)), (.rsq, .fin false m e, b, SameNumber m e 1 (2 * j), magOf false 1 (-j)),
      (.cbrt, .fin s m e, b, SameNumber m e 1 (3 * j), magOf s 1 j),
      (.hypot, .fin s 0 e, .fin q k g, True, magOf false k g), (.hypot, .fin q k g, .fin s 0 e, True, magOf false k g),
      (.pow, .fin s m e, .fin false n g, SameNumber n g 1 0 ∧ ¬ (s = false ∧ SameNumber m e 1 0), magOf s m e),
      (.pow, .fin s m e, .fin false n g, SameNumber n g 1 1 ∧ ¬ (s = false ∧ SameNumber m e 1 0), magOf false (m * m) (2 * e))] :
        List (Fn × Machine.Num × Machine.Num × Prop × Mag)) → when →
      fnLane fn t rm xa xb = ⟨(f.round rm 0#32 x).1, (f.round rm 0#32 x).2, none⟩) ∧
    (∀ (exact : Mag → Prop), (fn, a, b, when, exact) ∈ ([
      (.rcp, .fin s m e, b, ∀ i, ¬ SameNumber m e 1 i, fun x => ∃ i : Nat, 2 ^ 200 ≤ 2 ^ i / m ∧
        x = ⟨s, 2 ^ i / m, -e - i, decide (2 ^ i % m ≠ 0)⟩),
      (.rsq, .fin false m e, b, ∀ i, ¬ SameNumber m e 1 (2 * i), fun x => ∃ i r : Nat, 2 ^ 200 ≤ r ∧ r * r * m ≤ 2 ^ i ∧
        2 ^ i < (r + 1) * (r + 1) * m ∧ (e + i) % 2 = 0 ∧ x = ⟨false, r, -(e + i) / 2, decide (r * r * m ≠ 2 ^ i)⟩),
      (.cbrt, .fin s m e, b, ∀ i, ¬ SameNumber m e 1 (3 * i), fun x => ∃ i r : Nat, 2 ^ 200 ≤ r ∧ r * r * r ≤ m * 2 ^ i ∧
        m * 2 ^ i < (r + 1) * (r + 1) * (r + 1) ∧ (e - i) % 3 = 0 ∧
        x = ⟨s, r, (e - i) / 3, decide (r * r * r ≠ m * 2 ^ i)⟩),
      (.hypot, .fin s m e, .fin q n g, j = (if e ≤ g then e else g), fun x => ∃ i r : Nat, 2 ^ 200 ≤ r ∧
        r * r ≤ ((m * 2 ^ (e - j).toNat) ^ 2 + (n * 2 ^ (g - j).toNat) ^ 2) * 4 ^ i ∧
        ((m * 2 ^ (e - j).toNat) ^ 2 + (n * 2 ^ (g - j).toNat) ^ 2) * 4 ^ i < (r + 1) * (r + 1) ∧
        x = ⟨false, r, j - i, decide (r * r ≠ ((m * 2 ^ (e - j).toNat) ^ 2 + (n * 2 ^ (g - j).toNat) ^ 2) * 4 ^ i)⟩)] :
        List (Fn × Machine.Num × Machine.Num × Prop × (Mag → Prop))) → when →
      ∃ x, exact x ∧ fnLane fn t rm xa xb = ⟨(f.round rm 0#32 x).1, (f.round rm 0#32 x).2,
        if t = 0#2 ∨ t = 1#2 then some (x, fastBound f none) else none⟩) ∧
    (∀ (value : Value) (p : Bool), (p = true ↔ s = true ∧ ∃ i, SameNumber n g (2 * i + 1) 0) →
      (fn, a, b, when, value) ∈ ([
      (.exp, .fin s m e, b, True, expMag s m e), (.exp2, .fin s m e, b, ∀ i, ¬ SameNumber m e i 0, exp2Mag s m e),
      (.exp2, .fin s m e, b, SameNumber m e k 0 ∧ j = (if s then -(k : Int) else k) ∧ (j < f.emin - f.mb ∨ f.bias < j),
        .known (magOf false 1 j)),
      (.exp10, .fin s m e, b, ∀ i < 1024, ¬ (s = false ∧ SameNumber m e i 0), exp10Mag s m e),
      (.exp10, .fin false m e, b, SameNumber m e k 0 ∧ k < 1024, .known (magOf false (10 ^ k) 0)),
      (.expm1, .fin s m e, b, True, expm1Mag s m e), (.log, .fin false m e, b, ¬ SameNumber m e 1 0, lnMag m e),
      (.log2, .fin false m e, b, ∀ i, ¬ SameNumber m e 1 i, log2Mag m e),
      (.log10, .fin false m e, b, ∀ i ≤ 30, ¬ SameNumber m e (10 ^ i) 0, log10Mag m e),
      (.log10, .fin false m e, b, SameNumber m e (10 ^ k) 0 ∧ 1 ≤ k ∧ k ≤ 30, .known (magOf false k 0)),
      (.log1p, .fin s m e, b, s = true → m * 2 ^ e.toNat < 2 ^ (-e).toNat, log1pMag s m e),
      (.sin, .fin s m e, b, True, sinMag s m e), (.cos, .fin s m e, b, True, cosMag m e),
      (.tan, .fin s m e, b, True, tanMag s m e), (.sinpi, .fin s m e, b, ∀ i, ¬ SameNumber m e i (-1), sinpiMag s m e),
      (.cospi, .fin s m e, b, ∀ i, ¬ SameNumber m e i (-1), cospiMag m e), (.atan, .fin s m e, b, True, atanMag s m e),
      (.tanh, .fin s m e, b, True, tanhMag s m e), (.erf, .fin s m e, b, True, erfMag s m e),
      (.atan2, .fin s m e, .fin q n g, True, atan2Mag s m e q n g),
      (.pow, .fin s m e, .fin q n g, ¬ (s = false ∧ SameNumber m e 1 0) ∧ (s = true → ∃ i, SameNumber n g i 0) ∧
          ¬ (q = false ∧ (SameNumber n g 1 0 ∨ SameNumber n g 1 1)),
        match powExact p m e q n g with
        | some x => .known x
        | none => powMag p m e q n g)] : List (Fn × Machine.Num × Machine.Num × Prop × Value)) → when →
      ∃ x, value.Rounds x ∧ fnLane fn t rm xa xb = ⟨(f.round rm 0#32 x).1, (f.round rm 0#32 x).2,
        if t = 0#2 ∨ t = 1#2 then some (x, fastBound f none) else none⟩)) ∧
  (∀ (t : BitVec 2) (rm : BitVec 3) (excl : Bool) (args : Args) (num : DWord → Machine.Num),
    (∀ x, num x = (fmtOf t).read x.toNat) → ∃ lane : List Machine.Num → Lane,
      (∀ l, SumLane (fmtOf t) rm (decide (t ≠ 2#2)) l (lane l)) ∧
      lanesOf 0x16#6 (16#5 + t.setWidth 5) t rm excl args =
        args.map (fun p => (p.1, lane (args.map (fun q => num q.2.1)))) ∧
      lanesOf 0x16#6 (20#5 + t.setWidth 5) t rm excl args = args.map (fun p => (p.1, lane
        ((args.filter (fun q => if excl then decide (q.1 < p.1) else decide (q.1 ≤ p.1))).map (fun q => num q.2.1))))) ∧
  (∀ (sel : BitVec 5) (t : BitVec 2) (f : Fmt) (n w k : Nat) (rm : BitVec 3) (excl : Bool) (args : Args) (l : Lane)
      (x y : Nat → Machine.Num) (z : Machine.Num) (opposed : Prop),
    (sel, t, f, n, w) ∈ ([(3#5, 2#2, fp16, 2, 16), (3#5, 3#2, bf16, 2, 16), (4#5, 0#2, e4m3, 4, 8), (4#5, 1#2, e5m2, 4, 8)] :
      List (BitVec 5 × BitVec 2 × Fmt × Nat × Nat)) →
    ∀ a b c : DWord, (k, a, b, c) ∈ args → (k, l) ∈ lanesOf 0x1C#6 sel t rm excl args → (∀ p ∈ args, p.1 = k → p = (k, a, b, c)) →
    (∀ i, x i = f.read (a.toNat / 2 ^ (w * i) % 2 ^ w)) → (∀ i, y i = f.read (b.toNat / 2 ^ (w * i) % 2 ^ w)) →
    z = fp32.read c.toNat →
    (opposed ↔ ∀ q, Num.inf q ∈ z :: ((List.range n).filter (fun i =>
      !(x i).isNan && !(y i).isNan && !zeroTimesInf (x i) (y i))).map (fun i => product (x i) (y i))) →
    (z.isNan = true ∨ (∃ i < n, (x i).isNan = true ∨ (y i).isNan = true ∨ zeroTimesInf (x i) (y i) = true) ∨ opposed →
      ∀ bad : Bool, (bad = true ↔ opposed ∨ z.isSig = true ∨
        ∃ i < n, (x i).isSig = true ∨ (y i).isSig = true ∨ zeroTimesInf (x i) (y i) = true) →
      l = ⟨0x7FC00000, if bad then flInvalid else 0#5, none⟩) ∧
    (z.isNan = false → (∀ i < n, (x i).isNan = false ∧ (y i).isNan = false ∧ zeroTimesInf (x i) (y i) = false) → ¬ opposed →
      SumLane fp32 rm true (z :: (List.range n).map (fun i => product (x i) (y i))) l))

/-- R169, R173, R175, R177 to R180: the steps of lanes that may park always complete.  FAST_RESULT retires the operation: the
lanes that pass the test write their results and flags, a park record holds every other lane, with the operands that give it
the lane it had at issue, and with no such lane the destination is no longer pending; no other crew changes.
RESOLVER_ACCEPT takes, of the core that the cluster's rotation offers next, the record that no queued record of the core
precedes, and the rotation goes on behind that core (where it begins is the model's choice, log entry 106); RESOLVER_SETTLE and
EXACT_STAGE_SETTLE take a record out of their stage, write to no crew but its own, there only the results and flags of the
record's lanes, and the pending mark goes with the operation's last record; a record with an uncorrectable error writes nothing
and kills its gang. -/
def Obligations.StagedSteps : Prop :=
  (∀ (s : State) (o : FastOp) (prot : Bool) (lanes passed : List (Nat × Lane)) (fails : Nat → Bool),
    s.fl.fasts.find? (fun x => decide (x.id = o.id)) = some o → prot = (s.launchOf o.crew.team.launch).any (·.prot) →
    (∀ x ∈ o.args, x.1 < 32) → lanes = (memberArgs prot o.args).flatMap (lanesOf o.major o.sel o.fmt o.rm o.excl) →
    (∀ k, fails k = true ↔ o.Parks prot k) →
    passed = lanes.filter (fun p => !fails p.1) →
    ∃ t, exec (.fastResult o.id) s = .next t ∧ t.fl.fasts = s.fl.fasts.filter (fun x => !decide (x.id = o.id)) ∧
      t.mem = s.mem ∧
      ((∀ cr, s.crewOf o.crew = some cr → cr.vbad = []) → ∀ k, k ≠ o.crew → t.crewOf k = s.crewOf k) ∧
      (∀ cr, s.crewOf o.crew = some cr → cr.vbad = [] →
        ((∃ k, fails k = true) → t.crewOf o.crew = some (cr.landed (resultFmt o.major o.sel o.fmt) o.dest passed)) ∧
        ((∀ k, fails k = false) → t.crewOf o.crew = some ((cr.landed (resultFmt o.major o.sel o.fmt) o.dest passed).unmark o.id))) ∧
      ∃ ps, t.fl.parks = s.fl.parks ++ ps ∧ (∀ k < 32, (∃ p ∈ ps, p.pmask.getLsbD k = true) ↔ fails k = true) ∧
        ∀ p ∈ ps, p.core = o.core ∧ p.crew = o.crew ∧ p.op = o.id ∧ p.dest = o.dest ∧ p.major = o.major ∧ p.sel = o.sel ∧
          p.fmt = o.fmt ∧ p.rm = o.rm ∧ p.stage = .queued ∧ p.bad = false ∧ (p.chain = true ↔ o.major = 0x16#6) ∧
          ∀ k ln, p.pmask.getLsbD k = true →
            ((k, ln) ∈ lanesOf p.major p.sel p.fmt p.rm p.excl p.args ↔ (k, ln) ∈ lanes)) ∧
  (∀ (s : State) (core record : Nat) (p : Park), s.parkAt core record = some p → p.stage = .queued →
    (∀ x ∈ s.fl.parks, x.core = core → x.stage = .queued → x.seq.ult p.seq = false) →
    ∀ at0 i : Nat, at0 = Cells.get 0 s.dev.rslv (core / 8) → i < 8 → core % 8 = (at0 + i) % 8 →
    (∀ j < i, ∀ x ∈ s.fl.parks, x.core = 8 * (core / 8) + (at0 + j) % 8 → x.stage ≠ .queued) →
    exec (.resolverAccept core record) s = .next { s with
      dev := { s.dev with rslv := Cells.set 0 s.dev.rslv (core / 8) ((core + 1) % 8) }
      fl := { s.fl with parks := s.fl.parks.map (fun x =>
        if x.core = core ∧ x.idx = p.idx then { x with stage := .resolver } else x) } }) ∧
  (∀ (s : State) (i : Instr) (core record : Nat) (p : Park), s.parkAt core record = some p →
    ((i = .resolverSettle core record ∧ p.stage = .resolver) ∨ (i = .exactStageSettle core record ∧ p.stage = .exact ∧
      s.fl.parks.find? (fun x => decide (x.stage = .exact) && decide (dieOf x.core = dieOf core)) = some p)) →
    ∃ t, exec i s = .next t ∧ t.mem = s.mem ∧ t.fl.fasts = s.fl.fasts ∧
      (∀ q ∈ t.fl.parks, q.core = p.core → q.idx = p.idx → q = { p with stage := .exact } ∧ p.bad = false ∧
        p.stage = .resolver) ∧
      (∀ q ∈ s.fl.parks, ¬ (q.core = p.core ∧ q.idx = p.idx) → q ∈ t.fl.parks) ∧
      (p.bad = false → (∀ cr, s.crewOf p.crew = some cr → cr.vbad = []) → (∀ k, k ≠ p.crew → t.crewOf k = s.crewOf k) ∧
        ∀ cr, s.crewOf p.crew = some cr → ∃ x, t.crewOf p.crew = some x ∧ (∃ fl, x.flags = cr.flags ||| fl) ∧
          (∀ r k, k < 32 → Cells.wf 0#32 cr.vregs = true → (PReg.v r ∉ fieldRegs p.dest 2 ∨ p.pmask.getLsbD k = false) →
            x.v r k = cr.v r k) ∧
          ({ x with
            vregs := cr.vregs
            flags := cr.flags
            pend := cr.pend } : Crew) = cr ∧
          ((∃ q ∈ t.fl.parks, q.crew = p.crew ∧ q.op = p.op) → x.pend = cr.pend) ∧
          ((∀ q ∈ t.fl.parks, ¬ (q.crew = p.crew ∧ q.op = p.op)) → x.pend = cr.pend.filter (fun y => !decide (y.op = p.op)))) ∧
      (p.bad = true → (∀ k cr, s.crewOf k = some cr → ∃ x, t.crewOf k = some x ∧ x.vregs = cr.vregs ∧ x.flags = cr.flags ∧
          (k.team.launch = p.crew.team.launch → k.team.gang = p.crew.team.gang → x.stopped = true)) ∧
        ∀ g ∈ t.gangs, g.launch = p.crew.team.launch → g.num = p.crew.team.gang → g.kill.isSome = true))

/-- R1, R169, R173, R175, R178, R179: however a lane settles, its slot receives the value and the flags that the lane has at
issue (`lanesOf`), chains included: FAST_RESULT writes the lanes that pass their test, and a settle step the lanes of its
record, each in its slot; the crew after the step is the crew with those results and flags, and the destination is pending
until the operation's last lane has been written.  The resolver settles a sum that is no .d chain, and a function whose lanes
pass the test under the resolver's bound; every other record goes on to the exact stage. -/
def Obligations.ParkedLaneWritesItsResult : Prop :=
  (∀ (s : State) (o : FastOp) (cr : Crew) (prot : Bool), s.fl.fasts.find? (fun x => decide (x.id = o.id)) = some o →
    s.crewOf o.crew = some cr → cr.vbad = [] → prot = (s.launchOf o.crew.team.launch).any (·.prot) →
    ∃ t, exec (.fastResult o.id) s = .next t ∧
      t.crewOf o.crew = some (if (o.members prot).all (fun m => (o.fails m.2).isEmpty) then
          (cr.landed (resultFmt o.major o.sel o.fmt) o.dest ((o.members prot).flatMap (·.2))).unmark o.id
        else cr.landed (resultFmt o.major o.sel o.fmt) o.dest
          ((o.members prot).flatMap (fun m => m.2.filter (fun p => !(o.fails m.2).contains p.1)))) ∧
      o.members prot = (memberArgs prot o.args).map (fun a => (a, lanesOf o.major o.sel o.fmt o.rm o.excl a))) ∧
  (∀ (s : State) (p : Park) (cr after : Crew) (core record : Nat) (f : Fmt) (settles : Prop) (rest : List Park),
    s.parkAt core record = some p → p.bad = false → s.crewOf p.crew = some cr → cr.vbad = [] →
    f = fmtOf (resultFmt p.major p.sel p.fmt) →
    rest = s.fl.parks.filter (fun x => !(decide (x.core = p.core) && decide (x.idx = p.idx))) →
    after = cr.landed (resultFmt p.major p.sel p.fmt) p.dest
      ((lanesOf p.major p.sel p.fmt p.rm p.excl p.args).filter (fun l => p.pmask.getLsbD l.1)) →
    (settles ↔ (fnOf p.major p.sel = none ∧ ¬ (p.chain = true ∧ p.fmt = 1#2)) ∨ (fnOf p.major p.sel ≠ none ∧
      ∀ k ln x b, (k, ln) ∈ lanesOf p.major p.sel p.fmt p.rm p.excl p.args → ln.test = some (x, b) →
        testFails f p.rm x (resolverBound f) (Config.resolverError s.free) = false)) →
    ((p.stage = .resolver ∧ settles →
        ∃ t, exec (.resolverSettle core record) s = .next t ∧ t.fl.parks = rest ∧ t.crewOf p.crew = some
          (if rest.any (fun x => decide (x.crew = p.crew) && decide (x.op = p.op)) then after else after.unmark p.op)) ∧
      (p.stage = .resolver ∧ ¬ settles →
        ∃ t, exec (.resolverSettle core record) s = .next t ∧ t.fl.parks = rest ++ [{ p with stage := .exact }] ∧
          t.crews = s.crews) ∧
      (p.stage = .exact → s.fl.parks.find? (fun x => decide (x.stage = .exact) && decide (dieOf x.core = dieOf core)) = some p →
        ∃ t, exec (.exactStageSettle core record) s = .next t ∧ t.fl.parks = rest ∧ t.crewOf p.crew = some
          (if rest.any (fun x => decide (x.crew = p.crew) && decide (x.op = p.op)) then after else after.unmark p.op))))

/-! ### Hints and control flow -/

/-- R27 to R29, R31, R128, R134: a hint word joins its group and counts as one of its words, and a second word of a kind is
noted; what stops an instruction before it acts.  Hints that do not fit, SR where it may not be in force, and a register at
or above the quota are invalid instructions; a pending register makes the group wait.  An uncorrectable register that is read, or
written in part (R132, R133), and members that differ on the guard, on what is computed twice, on a predicate or on a branch
(R139) trap, unless the instruction's own checks find a lower cause (R361); rows that R139's table does not name are the model's
reading (log entry 126, DEDUCED), and that source words are read with no thread active too is its choice (log entry 130, DESIGN
CHOICE).  A word that an instruction writes only after its issue is not looked at here (R133, R175).  That one word issues a step, that a
crew keeps the hints read so far, and that a group which waits begins again are the model's choice (log entry 7). -/
def Obligations.IssueChecks : Prop :=
  (∀ (s : State) (c : Ctx) (p22 : BitVec 22) (s1 : BitVec 1) (p3 r3 : BitVec 3) (r7 : BitVec 7) (a5 b5 : BitVec 5)
      (n2 : BitVec 2) (s6 f6 : BitVec 6) (i : Instr) (f : Hints → Hints) (again : Hints → Bool),
      (i, f, again) ∈ ([
        (.hintImm p22, fun h => { h with imm := some p22 }, fun h => h.imm.isSome),
        (.hintG s1 p3, fun h => { h with g := some (s1 ++ p3) }, fun h => h.g.isSome),
        (.hintC r7, fun h => { h with c := some (BitVec.ofNat 22 r7.toNat) }, fun h => h.c.isSome),
        (.hintCScale a5 b5, fun h => { h with c := some (BitVec.ofNat 22 (a5.toNat * 32 + b5.toNat)) }, fun h => h.c.isSome),
        (.hintRm r3, fun h => { h with rm := some r3 }, fun h => h.rm.isSome),
        (.hintSc r3, fun h => { h with sc := some r3 }, fun h => h.sc.isSome),
        (.hintDep n2 s6 f6, fun h => { h with dep := some (n2 ++ s6 ++ f6) }, fun h => h.dep.isSome)] :
          List (Instr × (Hints → Hints) × (Hints → Bool))) →
      Stands s c →
      exec i s = .next { s.setCrew c.n { c.crew with group := some { c.grp with
        pc := c.next
        hints := { f c.grp.hints with count := c.grp.hints.count + 1, twice := c.grp.hints.twice || again c.grp.hints } } }
        with waited := false }) ∧
  (∀ (i : Instr) (body : Ctx → State → Res State) (s : State) (c : Ctx), Stands s c →
      ((c.grp.hints.fit (formOf i) = false ∨ c.grp.hints.cOk (formOf i) = false) →
        issue i body s = .next (s.takeTrap { cause := 1 }).ran) ∧
      (c.grp.hints.fit (formOf i) = true → c.grp.hints.cOk (formOf i) = true → (formOf i).takes.noSr = true → c.rm = 5#3 →
        issue i body s = .next (s.takeTrap { cause := 1 }).ran) ∧
      (HintsFit (formOf i) c → inQuota c.crew.quota (formRegs (formOf i) c.grp.hints) = false →
        issue i body s = .next (s.takeTrap { cause := 1 }).ran) ∧
      (HintsFit (formOf i) c → inQuota c.crew.quota (formRegs (formOf i) c.grp.hints) = true →
        (∃ r ∈ formRegs (formOf i) c.grp.hints, c.crew.pending r = true) →
        ((∀ p q, c.crew.pop = some p → q ∈ c.crew.pend → q.op = p.op → q.reg ∉ formRegs (formOf i) c.grp.hints) →
          issue i body s = .next s.waitGroup) ∧
        (∀ p q, c.crew.pop = some p → q ∈ c.crew.pend → q.op = p.op → q.reg ∈ formRegs (formOf i) c.grp.hints →
          issue i body s = .next { s.setCrew c.n { c.crew.mapEntry c.grp.thread (fun e => { e with popWait := some p.op }) with
            group := none } with waited := true }))) ∧
  (∀ (i : Instr) (body : Ctx → State → Res State) (s : State) (c : Ctx) (own : Crew) (reads writes : List Nat) (full : Bool)
      (k row : Nat) (u : Trap),
    Stands s c → HintsFit (formOf i) c → inQuota c.crew.quota (formRegs (formOf i) c.grp.hints) = true →
    (∀ r ∈ formRegs (formOf i) c.grp.hints, c.crew.pending r = false) →
    reads = vNums ((formOf i).shape.flatMap (opndReads c.grp.hints.cField)) →
    writes = vNums ((formOf i).shape.flatMap opndWrites) →
    full = decide (c.act = if c.launch.prot then 0xFFFF#32 else 0xFFFFFFFF#32) →
    own = (if full = true ∧ (formOf i).later = false then { c.crew with vbad := c.crew.vbad.filter (fun k => !writes.contains k) } else c.crew) →
    (((reads.find? (fun k => c.crew.vbad.contains k) = some k ∨ (full = false ∧ (formOf i).later = false ∧ c.act ≠ 0#32 ∧
          (∀ x ∈ reads, x ∉ c.crew.vbad) ∧ writes.find? (fun k => c.crew.vbad.contains k) = some k)) ∧
        u = { cause := 8, info := BitVec.ofNat 64 (2 * 2 ^ 60 + k) }) ∨
      (c.crew.vbad = [] ∧ c.launch.prot = true ∧
        (threadsOf c.ent.mask).find? (fun t => c.crew.guard c.grp.hints.g t != c.crew.guard c.grp.hints.g (t + 16)) = some k ∧
        u = { cause := 9, info := 5#64, thread := some k }) ∨
      (c.crew.vbad = [] ∧ c.launch.prot = true ∧ GuardsAgree c ∧ c.crew.upset = true ∧ (formOf i).twice = some row ∧
        u = s.twiceTrap row)) →
    issue i body s = .next (match body { c with crew := own, late := some u } (s.setCrew c.n own) with
      | .error (.struck t) => t
      | .error (.trap t) => s.takeTrap (if t.cause < u.cause then t else u)
      | _ => s.takeTrap u).ran) ∧
  (∀ (s : State) (row : Nat), ∃ r, 1 ≤ r ∧ r ≤ 7 ∧ s.twiceTrap 0 = { cause := 9, info := BitVec.ofNat 64 r } ∧
    s.twiceTrap (row + 1) = { cause := 9, info := BitVec.ofNat 64 (row + 1) }) ∧
  (∀ (i : Instr) (row : Nat) (d a b : BitVec 6) (w z : BitVec 1) (x g : BitVec 3) (r4 : BitVec 4) (r2 : BitVec 2)
      (l5 : BitVec 5) (i12 : BitVec 12) (d16 : BitVec 16) (d20 : BitVec 20),
    (i, row) ∈ ([(.uadd d a b w, 6), (.usub d a b w, 6), (.umul d a b, 6), (.umad d a b, 6), (.uand d a b w, 6),
      (.uor d a b w, 6), (.uxor d a b w, 6), (.ushl d a b w, 6), (.ushr d a b w, 6), (.usar d a b w, 6), (.ucmpI d a b x, 6),
      (.ucmpZ d a b x, 6), (.usel d a b w, 6), (.uaddi d a i12, 6), (.umovi d i12, 6), (.movu d a w, 6), (.cpy a b, 4),
      (.cpyMc d a b, 4), (.cpyOut a, 4), (.cpyCvt a b, 4), (.cpyCvtOut a, 4), (.xform a b, 4), (.xformOut a, 4),
      (.accdrain d a r4 r2, 4), (.accsave d a r4, 4), (.accload d a r4, 4), (.uld d a w, 2), (.bra g z d d16, 5), (.jmp l5 d20, 5),
      (.call l5 d20, 5), (.ret, 5), (.brx a b, 5), (.setprio d, 5), (.pop d a, 0), (.popTry d a, 0), (.push d a, 0), (.fin d, 0),
      (.qstat d a, 0), (.qctl d a, 0), (.syncC a, 0), (.barT a, 0), (.rvinit a b, 0), (.rvarr a b, 0), (.rvwait a b, 0),
      (.tilestat d a, 6), (.seal d, 6), (.waitb d a, 6), (.mwait d a, 6), (.rslvStat d a, 6), (.rdsr d a x, 6), (.wrsr d a x, 6),
      (.killg d a, 6), (.killgL d a, 6), (.preemptSave d a, 6), (.preemptRest d a, 6)] :
        List (Instr × Nat)) → (formOf i).twice = some row) ∧
  (∀ (s : State) (c : Ctx) (d a b : BitVec 7) (p q cc : BitVec 3) (z : BitVec 1) (ff : BitVec 2) (k : BitVec 12) (prio : BitVec 6)
      (disp : BitVec 16) (t : Nat) (i : Instr) (f : Nat → Word) (mask : (Nat → Nat → Bool) → Nat → Word),
    (∀ rel x, mask rel x = maskOf ((c.threads.filter (fun u => rel x (c.peer x u))).map c.threadOf)) →
    (i, f) ∈ ([
      (.icmp32 cc z p a b, fun x => if intCond cc (z = 1#1) (c.crew.src a x) (c.crew.src b x) then 1#32 else 0#32),
      (.icmpi cc z p a k, fun x =>
        if intCond cc (z = 1#1) (c.crew.src a x) (immOf c.grp.hints k true) then 1#32 else 0#32),
      (.fcmp cc p a b ff, fun x => if (fpCmp cc (c.crew.num ff a x) (c.crew.num ff b x)).1 then 1#32 else 0#32),
      (.crewAll p z q, fun x => if ∀ u ∈ c.mates x, xor (c.crew.p q.toNat u) (z = 1#1) = true then 1#32 else 0#32),
      (.crewAny p z q, fun x => if ∃ u ∈ c.mates x, xor (c.crew.p q.toNat u) (z = 1#1) = true then 1#32 else 0#32),
      (.crewSame p z q, fun x => if ∀ u ∈ c.mates x, ∀ v ∈ c.mates x, c.crew.p q.toNat u = c.crew.p q.toNat v then 1#32
        else 0#32),
      (.crewMask d z q, fun x => if c.crew.p q.toNat x then 1#32 else 0#32),
      (.bra q z prio disp, fun x => if c.crew.p q.toNat x then 1#32 else 0#32),
      (.matchB d a, mask (fun x u => decide (c.crew.src a u = c.crew.src a x))),
      (.matchB64 d a, mask (fun x u => decide (c.crew.src64 a u = c.crew.src64 a x))),
      (.matchF d a ff, mask (fun x u => !(c.crew.num ff a x).isNan && !(c.crew.num ff a u).isNan &&
        numEq (c.crew.num ff a u) (c.crew.num ff a x)))] : List (Instr × (Nat → Word))) →
    Issues (formOf i) s c → c.launch.prot = true → (i = .icmpi cc z p a k → ImmFits c.grp.hints k) →
    c.threads.find? (fun x => decide (f x ≠ f (x + 16))) = some t →
    exec i s = .next (s.takeTrap { cause := 9, info := 5#64, thread := some t }).ran)

/-- R318, R320, R322: the effect of each control-flow instruction on the frontier: which threads go where, at which priority;
the trap of a CALL at eight links, of a RET without one and of an EXIT of a thread named in an open phase, and the wait of
EXIT.  That a BRX to a bad target traps with no active thread too is the model's reading (log entry 37), and so is that of
what splits an entry a BRA alone hands on the age and the raised flag (log entry 36). -/
def Obligations.ControlFlow : Prop :=
  ∀ (s : State) (c : Ctx),
    (∀ (g : BitVec 3) (z : BitVec 1) (p : BitVec 6) (d : BitVec 16) (taken : BitVec 32),
      taken = maskOf (c.threads.filter (fun t => xor (c.crew.p g.toNat t) (z = 1#1))) →
      Issues (formOf (.bra g z p d)) s c → MembersAgree c (fun t => xor (c.crew.p g.toNat t) (decide (z = 1#1))) →
      exec (.bra g z p d) s = .next (s.setCrew c.n (c.crew.split c.grp
        (decide (taken ≠ 0#32) && decide (c.ent.mask &&& ~~~taken ≠ 0#32))
        [(taken, c.grp.pc + BitVec.ofInt 32 (4 * d.toInt), p), (c.ent.mask &&& ~~~taken, c.next, c.ent.prio)])).ran) ∧
    (∀ (p : BitVec 5) (d : BitVec 20), Issues (formOf (.jmp p d)) s c →
      exec (.jmp p d) s = .next (s.setCrew c.n (c.crew.split c.grp false
        [(c.ent.mask, c.grp.pc + BitVec.ofInt 32 (4 * d.toInt), BitVec.ofNat 6 p.toNat)])).ran) ∧
    (∀ (p : BitVec 5) (d : BitVec 20), Issues (formOf (.call p d)) s c →
      (∀ t ∈ c.threads, (c.crew.links? t).length < 8) →
      exec (.call p d) s = .next (s.setCrew c.n ((c.crew.setLinks
          (c.threads.map (fun t => (t, ⟨c.next, c.ent.prio⟩ :: c.crew.links? t)))).split c.grp false
        [(c.ent.mask, c.grp.pc + BitVec.ofInt 32 (4 * d.toInt), BitVec.ofNat 6 p.toNat)])).ran) ∧
    (∀ (p : BitVec 5) (d : BitVec 20), Issues (formOf (.call p d)) s c → ∀ t ∈ c.threads, 8 ≤ (c.crew.links? t).length →
      (∀ u ∈ c.threads, u < t → (c.crew.links? u).length < 8) → exec (.call p d) s = .next (s.takeTrap {
        cause := 1
        thread := some t }).ran) ∧
    (Issues (formOf .ret) s c → ∀ t ∈ c.threads, c.crew.links? t = [] → (∀ u ∈ c.threads, u < t → c.crew.links? u ≠ []) →
      exec .ret s = .next (s.takeTrap {
        cause := 1
        thread := some t }).ran) ∧
    (Issues (formOf .ret) s c → (∀ t ∈ c.threads, c.crew.links? t ≠ []) →
      exec .ret s = .next (s.setCrew c.n ((c.crew.setLinks
          (c.threads.map (fun t => (t, (c.crew.links? t).tail)))).split c.grp false
        ((c.ent.mask &&& ~~~c.act, c.next, c.ent.prio) :: topLinks c.crew c.threads))).ran) ∧
    (∀ (a b : BitVec 6), Issues (formOf (.brx a b)) s c →
      ((c.crew.u a.toNat).toNat % 4 = 0 ∧ s.inCode c.launch (c.crew.u a.toNat) = true →
        exec (.brx a b) s = .next (s.setCrew c.n (c.crew.split c.grp false
          [(c.act, c.crew.u a.toNat, b), (c.ent.mask &&& ~~~c.act, c.next, c.ent.prio)])).ran) ∧
      (¬ ((c.crew.u a.toNat).toNat % 4 = 0 ∧ s.inCode c.launch (c.crew.u a.toNat) = true) →
        exec (.brx a b) s = .next (s.takeTrap { cause := 6 }).ran)) ∧
    (∀ (b : BitVec 6), Issues (formOf (.setprio b)) s c →
      exec (.setprio b) s = .next (s.setCrew c.n (c.crew.split c.grp false [(c.ent.mask, c.next, b)])).ran) ∧
    (Issues (formOf .yield) s c → exec .yield s = .next (s.setCrew c.n (c.crew.yielded c.grp c.next 16)).ran) ∧
    (∀ e ∈ c.crew.entries, e.mask.getLsbD c.grp.thread = true → EntriesApart c.crew.entries →
      (∀ x ∈ c.crew.entries, x.pc ≠ c.next) → ∃ x, (c.crew.yielded c.grp c.next 16).entryOf c.grp.thread = some x ∧
        x.mask = e.mask ∧ x.pc = c.next ∧ x.prio = e.prio ∧ x.yield = 17) ∧
    (Issues (formOf .nop) s c → exec .nop s = .next (c.done s c.crew)) ∧
    (Issues (formOf .exit) s c → (∀ t ∈ c.threads, c.crew.smask.getLsbD t = false) →
      (c.crew.live &&& ~~~c.act = 0#32 → c.team.bmask.getLsbD c.crew.key.crew = false) →
      s.mayPark c.crew.key = false →
      exec .exit s = .next ((s.setCrew c.n { c.crew.split c.grp false
        [(c.ent.mask &&& ~~~c.act, c.next, c.ent.prio)] with ended := c.crew.ended ||| c.act }).afterExit c.crew.key).ran) ∧
    (Issues (formOf .exit) s c → ∀ t ∈ c.threads, c.crew.smask.getLsbD t = true →
      (∀ u ∈ c.threads, u < t → c.crew.smask.getLsbD u = false) → exec .exit s = .next (s.takeTrap {
        cause := 2
        thread := some t }).ran) ∧
    (Issues (formOf .exit) s c → (∀ t ∈ c.threads, c.crew.smask.getLsbD t = false) → c.crew.live &&& ~~~c.act = 0#32 →
      c.team.bmask.getLsbD c.crew.key.crew = true → exec .exit s = .next (s.takeTrap { cause := 2 }).ran) ∧
    (Issues (formOf .exit) s c → (∀ t ∈ c.threads, c.crew.smask.getLsbD t = false) →
      (c.crew.live &&& ~~~c.act = 0#32 → c.team.bmask.getLsbD c.crew.key.crew = false) → s.mayPark c.crew.key = true →
      exec .exit s = .next s.waitGroup)

/-- R314, R318: when an entry's threads are sent on, each stands at the place it was sent to, and every thread of another
entry stays where it was, whatever entries merge. -/
def Obligations.ThreadsGoWhereSent : Prop :=
  ∀ (cr : Crew) (g : Group) (e : Entry) (keep : Bool) (dests : List (BitVec 32 × Word × BitVec 6)) (t : Nat), t < 32 →
    EntriesApart cr.entries → cr.entryOf g.thread = some e →
    (∀ x ∈ dests, x.1 &&& ~~~e.mask = 0#32) → dests.Pairwise (fun x y => x.1 &&& y.1 = 0#32) →
    (∀ x ∈ dests, x.1.getLsbD t = true → (cr.split g keep dests).pcOf t = some x.2.1) ∧
    (e.mask.getLsbD t = true → (∀ x ∈ dests, x.1.getLsbD t = false) → (cr.split g keep dests).pcOf t = none) ∧
    (e.mask.getLsbD t = false → (cr.split g keep dests).pcOf t = cr.pcOf t)

/-! ### Barriers, rendezvous points, quotas -/

/-- R325 to R327, R329, R282, R283, R364: SYNC.C, BAR.T and GBAR arrive, or trap with cause 2, or wait for the accesses issued
before, and a phase that has all its arrivals closes.  Of a mismatch that single threads make the notice names the lowest of
them.  The model's readings: a GBAR of a gang of one team is not excused from the wait for memory and the vaults that R282 asks
of participants on one core (log entry 39, DEDUCED); crews 16 to 31 of a protected launch are crews that the team does not have
(log entry 51, DEDUCED). -/
def Obligations.Barriers : Prop :=
  ∀ (s : State) (c : Ctx),
    (∀ (a : BitVec 6) (m : Word) (bad : Nat → Prop), m = c.crew.u a.toNat →
      (∀ t, bad t ↔ (c.ent.mask.getLsbD t = true ∧ (m.getLsbD t = false ∨ c.crew.sarr.getLsbD t = true)) ∨
        (m.getLsbD t = true ∧ c.crew.ended.getLsbD t = true)) →
      Issues (formOf (.syncC a)) s c →
      ((m = 0#32 ∨ 2 ^ c.W ≤ m.toNat ∨ (c.crew.smask ≠ 0#32 ∧ m ≠ c.crew.smask)) →
        exec (.syncC a) s = .next (s.takeTrap { cause := 2 }).ran) ∧
      (¬ (m = 0#32 ∨ 2 ^ c.W ≤ m.toNat ∨ (c.crew.smask ≠ 0#32 ∧ m ≠ c.crew.smask)) →
        (∀ t < 32, bad t → (∀ u < t, ¬ bad u) → exec (.syncC a) s = .next (s.takeTrap {
          cause := 2
          thread := some t }).ran) ∧
        ((∀ t < 32, ¬ bad t) →
          (s.outstanding c.crew.key c.ent.mask s.serial false = true → exec (.syncC a) s = .next s.waitGroup) ∧
          (s.outstanding c.crew.key c.ent.mask s.serial false = false →
            ∃ cr, exec (.syncC a) s = .next (s.setCrew c.n cr).ran ∧ cr.vregs = c.crew.vregs ∧ cr.uregs = c.crew.uregs ∧
              cr.preds = c.crew.preds ∧ cr.group = none ∧
              (c.crew.sarr ||| c.ent.mask = m → cr.smask = 0#32 ∧ cr.sarr = 0#32 ∧ ∀ e ∈ cr.entries, e.blocked = false) ∧
              (c.crew.sarr ||| c.ent.mask ≠ m → cr.smask = m ∧ cr.sarr = c.crew.sarr ||| c.ent.mask ∧
                ∀ e ∈ cr.entries, e.mask.getLsbD c.grp.thread = true → e.blocked = true ∧ e.pc = c.next))))) ∧
    (∀ (a : BitVec 6) (m : Word) (bad : Prop), m = c.crew.u a.toNat →
      (bad ↔ m = 0#32 ∨ 2 ^ c.W ≤ m.toNat ∨ (∃ k < 32, m.getLsbD k = true ∧ ∀ x ∈ s.crewsOf c.team.key, x.key.crew ≠ k) ∨
        (c.team.bmask ≠ 0#32 ∧ m ≠ c.team.bmask) ∨ m.getLsbD c.crew.key.crew = false ∨
        c.team.barr.getLsbD c.crew.key.crew = true ∨
        ∃ x ∈ s.crewsOf c.team.key, x.entries = [] ∧ m.getLsbD x.key.crew = true) →
      Issues (formOf (.barT a)) s c →
      (c.ent.mask ≠ c.crew.live → exec (.barT a) s = .next s.waitGroup) ∧
      (c.ent.mask = c.crew.live → bad → exec (.barT a) s = .next (s.takeTrap { cause := 2 }).ran) ∧
      (c.ent.mask = c.crew.live → ¬ bad →
        (s.outstanding c.crew.key 0xFFFFFFFF#32 s.serial false = true → exec (.barT a) s = .next s.waitGroup) ∧
        (s.outstanding c.crew.key 0xFFFFFFFF#32 s.serial false = false →
          exec (.barT a) s = .next (((s.setCrew c.n (({ c.crew with wait := .barT } : Crew).advance c.grp c.next)).mapTeam
            c.team.key (fun t => { t with bmask := m, barr := t.barr ||| (1#32 <<< c.crew.key.crew) })).closeBarT
              c.team.key).ran))) ∧
    (∀ one : Bool, one = decide ((s.teamsOf c.team.key.launch c.team.key.gang).length = 1) → Issues (formOf .gbar) s c →
      (c.ent.mask ≠ c.crew.live → exec .gbar s = .next s.waitGroup) ∧
      (c.ent.mask = c.crew.live → s.outstanding c.crew.key 0xFFFFFFFF#32 s.serial (!one) = true →
        exec .gbar s = .next s.waitGroup) ∧
      (c.ent.mask = c.crew.live → s.outstanding c.crew.key 0xFFFFFFFF#32 s.serial (!one) = false →
        exec .gbar s = .next (((s.setCrew c.n (({ c.crew with wait := .gbar } : Crew).advance c.grp c.next)).mapTeam
          c.team.key (fun t => { t with garr := t.garr ||| (1#32 <<< c.crew.key.crew) })).closeGbar
            c.team.key.launch c.team.key.gang).ran)) ∧
    (∀ (k : TeamKey) (x : Team), s.teamOf k = some x →
      (x.bmask ≠ 0#32 → x.barr = x.bmask → s.closeBarT k = { s with
        teams := s.teams.map (fun y => if y.key = k then { y with bmask := 0#32, barr := 0#32 } else y)
        crews := s.crews.map (fun y => if y.key.team = k ∧ y.wait = .barT then { y with wait := .free } else y) }) ∧
      (x.bmask = 0#32 ∨ x.barr ≠ x.bmask → s.closeBarT k = s)) ∧
    (∀ (l : Word) (g : Nat) (full : Prop),
      (full ↔ (∃ y ∈ s.teams, y.key.launch = l ∧ y.key.gang = g ∧ y.garr ≠ 0#32) ∧
        ∀ y ∈ s.teams, y.key.launch = l → y.key.gang = g → ∀ x ∈ s.crews, x.key.team = y.key →
          x.entries = [] ∨ y.garr.getLsbD x.key.crew = true) →
      (full → s.closeGbar l g = { s with
        teams := s.teams.map (fun y => if y.key.launch = l ∧ y.key.gang = g then
          { y with garr := 0#32, gphase := y.gphase + 1#32 } else y)
        crews := s.crews.map (fun y => if y.key.team.launch = l ∧ y.key.team.gang = g ∧ y.wait = .gbar then
          { y with wait := .free } else y) }) ∧
      (¬ full → s.closeGbar l g = s))

/-- R328: the rendezvous points.  RVINIT sets a fresh point; RVARR leaves its destination pending until RVARR_COUNT counts
it; RVWAIT passes just when the phase has moved on. -/
def Obligations.RendezvousPoints : Prop :=
  (∀ (s : State) (c : Ctx) (a b : BitVec 6), Issues (formOf (.rvinit a b)) s c →
    (1 ≤ (c.crew.u a.toNat).toNat ∧ (c.crew.u a.toNat).toNat ≤ 65536 ∧ (c.team.point b.toNat).init = false →
      exec (.rvinit a b) s = .next (c.done (s.mapTeam c.team.key (fun t => t.setPoint b.toNat
        ⟨true, (c.crew.u a.toNat).toNat, (c.crew.u a.toNat).toNat, (t.point b.toNat).phase⟩)) c.crew)) ∧
    (¬ (1 ≤ (c.crew.u a.toNat).toNat ∧ (c.crew.u a.toNat).toNat ≤ 65536 ∧ (c.team.point b.toNat).init = false) →
      exec (.rvinit a b) s = .next (s.takeTrap { cause := 6 }).ran)) ∧
  (∀ (s : State) (c : Ctx) (d b : BitVec 6), Issues (formOf (.rvarr d b)) s c →
    ((c.team.point b.toNat).init = true →
      exec (.rvarr d b) s = .next (c.done (s.addOp (c.plainOp s.serial (.rvarr b.toNat) (some ⟨d.setWidth 7, 1⟩)))
        (c.crew.mark s.serial [.u d.toNat]))) ∧
    ((c.team.point b.toNat).init = false → exec (.rvarr d b) s = .next (s.takeTrap { cause := 6 }).ran)) ∧
  (∀ (s : State) (c : Ctx) (a b : BitVec 6) (k : Nat), Issues (formOf (.rvwait a b)) s c →
    k = ((c.team.point b.toNat).phase - c.crew.u a.toNat).toNat →
    ((c.team.point b.toNat).init = false → exec (.rvwait a b) s = .next (s.takeTrap { cause := 6 }).ran) ∧
    ((c.team.point b.toNat).init = true →
      (1 ≤ k ∧ k ≤ 2 ^ 31 → exec (.rvwait a b) s = .next (c.done s c.crew)) ∧
      (¬ (1 ≤ k ∧ k ≤ 2 ^ 31) → exec (.rvwait a b) s = .next s.waitGroup))) ∧
  (∀ (s : State) (o : MOp) (n : Nat) (t : Team) (d : RegDest), s.opOf o.id = some o → o.kind = .rvarr n →
    s.teamOf o.crew.team = some t → o.udest = some d →
    s.outstanding o.crew 0xFFFFFFFF#32 o.id false = false →
    exec (.rvarrCount o.id) s = .next (((s.mapTeam t.key (fun t' => t'.setPoint n
      (if (t.point n).left ≤ 1 then ⟨(t.point n).init, (t.point n).count, (t.point n).count, (t.point n).phase + 1#32⟩
        else ⟨(t.point n).init, (t.point n).count, (t.point n).left - 1, (t.point n).phase⟩))).mapCrew o.crew
      (fun x => (x.putU d.field.toNat (t.point n).phase).unmark o.id)).dropOp o.id))

/-- R330, R130: a QUOTA waits for its partner, and traps for one that is the crew itself, has ended or does not exist; a pair
that does not match, or leaves the giver under 1 or the receiver over 12 granules, traps in both crews, and so does a QUOTA
with a crew that waits naming this one while this one names another (that a QUOTA looks at the others as it issues is the
model's reading, log entry 114); QUOTA_MOVE moves the granules of a matching pair at one
instant, and both go on; the giver keeps its lower registers and reads zero in those it gave away; the receiver keeps every
register and reads zero in those it gains, where its registers hold nothing above its quota, as every step keeps it. -/
def Obligations.Quotas : Prop :=
  (∀ (s : State) (c : Ctx) (a b : BitVec 6) (give : Bool) (i : Instr) (m : Nat) (x : Crew),
    (i, give) ∈ ([(.quotaGive a b, true), (.quotaTake a b, false)] : List (Instr × Bool)) →
    Issues (formOf i) s c → c.ent.mask = c.crew.live → a.toNat ≠ c.crew.key.crew →
    s.crewIx ⟨c.team.key, a.toNat⟩ = some m → s.crewOf ⟨c.team.key, a.toNat⟩ = some x → x.gone = false →
    (x.quotaW = none ∨ ∃ q, x.quotaW = some q ∧ q.partner = c.crew.key.crew ∧ q.give = !give ∧ q.gran = b.toNat ∧
      b.toNat + 1 ≤ (if give then c.crew.quota else x.quota) ∧ (if give then x.quota else c.crew.quota) + b.toNat ≤ 12) →
    (∀ y ∈ s.crews, y.key.team = c.team.key → y.key.crew ≠ a.toNat → ∀ q, y.quotaW = some q → q.partner ≠ c.crew.key.crew) →
    exec i s = .next (s.setCrew c.n { c.crew.mapEntry c.grp.thread (fun e => { e with hold := .quota }) with
      group := none
      quotaW := some ⟨give, a.toNat, b.toNat, c.grp.thread, c.grp.first⟩ }).ran) ∧
  (∀ (s : State) (c : Ctx) (a b : BitVec 6) (give : Bool) (i : Instr),
    (i, give) ∈ ([(.quotaGive a b, true), (.quotaTake a b, false)] : List (Instr × Bool)) → Issues (formOf i) s c →
    (c.ent.mask ≠ c.crew.live → exec i s = .next s.waitGroup) ∧
    (c.ent.mask = c.crew.live → (a.toNat = c.crew.key.crew ∨ (∀ x ∈ s.crews, x.key ≠ ⟨c.team.key, a.toNat⟩) ∨
        ∃ x, s.crewOf ⟨c.team.key, a.toNat⟩ = some x ∧ x.entries = []) →
      exec i s = .next (s.takeTrap { cause := 2 }).ran) ∧
    (∀ (m : Nat) (x : Crew) (q : QuotaWait) (cause : Nat), c.ent.mask = c.crew.live → a.toNat ≠ c.crew.key.crew →
      s.crewIx ⟨c.team.key, a.toNat⟩ = some m → s.crewOf ⟨c.team.key, a.toNat⟩ = some x → x.entries ≠ [] →
      x.quotaW = some q →
      (((q.partner ≠ c.crew.key.crew ∨ q.give = give ∨ q.gran ≠ b.toNat) ∧ cause = 2) ∨
        (q.partner = c.crew.key.crew ∧ q.give = (!give) ∧ q.gran = b.toNat ∧ cause = 1 ∧
          ((if give then c.crew.quota else x.quota) < b.toNat + 1 ∨
            12 < (if give then x.quota else c.crew.quota) + b.toNat))) →
      (∀ y ∈ s.crews, y.key.team = c.team.key → y.key.crew ≠ a.toNat → ∀ r, y.quotaW = some r → r.partner ≠ c.crew.key.crew) →
      exec i s = .next (((s.mapCrew ⟨c.team.key, a.toNat⟩ (fun y =>
        { y.mapEntry q.thread (fun e => { e with hold := .free }) with quotaW := none })).trapCrew m q.group
          { cause := cause }).trapCrew c.n c.grp { cause := cause }).ran) ∧
    (∀ (m : Nat) (x y : Crew) (q : QuotaWait), c.ent.mask = c.crew.live → a.toNat ≠ c.crew.key.crew →
      s.crewOf ⟨c.team.key, a.toNat⟩ = some x → x.entries ≠ [] → x.quotaW = none → (s.crews.map (·.key)).Nodup →
      s.crews[m]? = some y → y.key.team = c.team.key → y.key.crew ≠ a.toNat → y.quotaW = some q →
      q.partner = c.crew.key.crew →
      (∀ z ∈ s.crews, z.key.team = c.team.key → ∀ r, z.quotaW = some r → r.partner = c.crew.key.crew → z.key = y.key) →
      exec i s = .next (((s.mapCrew y.key (fun z =>
        { z.mapEntry q.thread (fun e => { e with hold := .free }) with quotaW := none })).trapCrew m q.group
          { cause := 2 }).trapCrew c.n c.grp { cause := 2 }).ran)) ∧
  (∀ (s : State) (n : Nat) (x y : Crew) (q r : QuotaWait), s.crews[n]? = some x → x.quotaW = some q →
    s.crewOf ⟨x.key.team, q.partner⟩ = some y → y.quotaW = some r → q.give = true → r.give = false →
    r.partner = x.key.crew → r.gran = q.gran → x.topPending q.gran = false →
    exec (.quotaMove n) s = .next ((s.setCrew n ((giveGranules x q.gran).quotaDone q)).mapCrew ⟨x.key.team, q.partner⟩
      (fun z => (takeGranules z q.gran).quotaDone r))) ∧
  (∀ (x : Crew) (g r slot : Nat), Cells.wf 0#32 x.vregs = true → slot < 32 →
    (giveGranules x g).quota = x.quota - g ∧ (takeGranules x g).quota = x.quota + g ∧
    (r < 8 * (x.quota - g) → (giveGranules x g).v r slot = x.v r slot) ∧
    (8 * (x.quota - g) ≤ r → (giveGranules x g).v r slot = 0#32) ∧ (takeGranules x g).v r slot = x.v r slot ∧
    (x.regsFit = true → 8 * x.quota ≤ r → (takeGranules x g).v r slot = 0#32))

/-- R316, R318, R322: an entry of age 1,024 is raised at the crew's present position, and only then; a YIELD whose
opportunities have passed ends, and only then, or when no other entry of its crew is ready: then every YIELD of the crew is
over, whether one entry, none or several could go on but for it.  `survey` gives the entries that no rule makes wait; that the
model finds them by trying each is its choice (log entry 7). -/
def Obligations.FrontierSteps : Prop :=
  (∀ (s : State) (n : Nat) (c cr : Crew) (awake : Crew), s.crews[n]? = some cr →
    awake = { cr with entries := cr.entries.map (fun x => { x with yield := 0 }) } →
    (c.looseEntries = [] → s.readyEntries n c = (s.setCrew n awake, [])) ∧
    ∀ e, c.looseEntries = [e] → (e.yield = 0 → s.readyEntries n c = (s, [e])) ∧
      (e.yield ≠ 0 → s.readyEntries n c = (s.setCrew n awake, [{ e with yield := 0 }]))) ∧
  (∀ (s u : State) (n : Nat) (c cr : Crew) (ready : List Entry), 2 ≤ c.looseEntries.length →
    s.survey n c.looseEntries = (u, ready) → u.crews[n]? = some cr →
    ((∃ x ∈ ready, x.yield ≤ 1) → s.readyEntries n c = (u, ready.filter (fun x => decide (x.yield ≤ 1)))) ∧
    ((∀ x ∈ ready, 1 < x.yield) → s.readyEntries n c =
      (u.setCrew n { cr with entries := cr.entries.map (fun x => { x with yield := 0 }) },
        ready.map (fun x => { x with yield := 0 })))) ∧
  ∀ (s : State) (n t : Nat) (cr : Crew) (e : Entry), s.crews[n]? = some cr → cr.entryOf t = some e →
    (1024 ≤ e.age → e.raised = none → exec (.entryRaised n t) s =
      .next (s.setCrew n (cr.mapEntry t (fun x => { x with raised := some cr.raises })))) ∧
    (e.age < 1024 ∨ e.raised ≠ none → exec (.entryRaised n t) s = .refused .notEnabled) ∧
    (e.yield = 1 → exec (.yieldExpire n t) s =
      .next (s.setCrew n (cr.mapEntry t (fun x => { x with yield := 0 })).settled)) ∧
    (e.yield ≠ 1 → exec (.yieldExpire n t) s = .refused .notEnabled)

/-! ### Traps and system instructions -/

/-- R370, R360, R361: a program-class trap at issue in a privileged launch, with a handler armed: the entry goes whole to
(EVEC, 63), EPC, EPRIO, ECAUSE and EINFO are written, EVEC becomes 0, and nothing else changes. -/
def Obligations.TrapEntersHandler : Prop :=
  ∀ (s : State) (c : Ctx) (t : Trap) (b : BitVec 6), Stands s c → EntriesApart c.crew.entries →
    c.launch.priv = true → c.crew.evec ≠ 0#32 → t.cause ≤ 7 →
    ∃ cr, s.takeTrap t = s.setCrew c.n cr ∧
      cr.epc = (if t.cause = 7 then c.grp.pc + 4#32 else c.grp.first) ∧ cr.eprio = BitVec.ofNat 32 c.ent.prio.toNat ∧
      cr.ecause.toNat = t.cause + 256 * (match t.thread with | some x => x % 256 | none => 255) + 65536 * t.code.toNat ∧
      cr.einfo = t.info ∧ cr.evec = 0#32 ∧
      (∀ x < 32, c.ent.mask.getLsbD x = true → cr.pcOf x = some c.crew.evec) ∧
      (∀ x < 32, c.ent.mask.getLsbD x = false → cr.pcOf x = c.crew.pcOf x) ∧
      (∀ e ∈ cr.entries, e.mask &&& c.ent.mask ≠ 0#32 → e.prio = 63#6) ∧
      ({ cr with
        entries := c.crew.entries
        group := c.crew.group
        started := c.crew.started
        epc := c.crew.epc
        eprio := c.crew.eprio
        ecause := c.crew.ecause
        einfo := c.crew.einfo
        evec := c.crew.evec } : Crew) = c.crew ∧
      (t = { cause := 7, info := BitVec.ofNat 64 b.toNat, code := b } → Issues (formOf (.trap b)) s c →
        exec (.trap b) s = .next (s.setCrew c.n cr).ran)

/-- R360, R361, R364, R365: a trap at issue that enters no handler asks for the kill of its gang, with what R364 reports of
it; the first cause stands; the gang's crews stop, and no register, memory or other gang changes. -/
def Obligations.TrapKillsGang : Prop :=
  ∀ (s : State) (c : Ctx) (t : Trap), Stands s c → ¬ (c.launch.priv = true ∧ c.crew.evec ≠ 0#32 ∧ t.cause ≤ 7) →
    ∃ k : KillInfo, s.takeTrap t = s.requestKill c.crew.key.team.launch c.crew.key.team.gang k false ∧
      k.cause = BitVec.ofNat 8 t.cause ∧ k.core = BitVec.ofNat 16 c.team.core ∧ k.pos = BitVec.ofNat 8 c.crew.key.team.pos ∧
      k.crew = BitVec.ofNat 8 c.crew.key.crew ∧ k.pc = c.grp.first ∧ k.info = t.info ∧
      k.thread = (match t.thread with
        | some x => BitVec.ofNat 8 x
        | none => 0xFF#8) ∧
      (s.takeTrap t).mem = s.mem ∧ (s.takeTrap t).teams = s.teams ∧ (s.takeTrap t).launches = s.launches ∧
      (s.takeTrap t).dev = s.dev ∧ (s.takeTrap t).fl = s.fl ∧ (s.takeTrap t).queues = s.queues ∧
      (s.takeTrap t).crews.length = s.crews.length ∧ (s.takeTrap t).gangs.length = s.gangs.length ∧
      (∀ (n : Nat) (x : Crew), s.crews[n]? = some x → ∃ y, (s.takeTrap t).crews[n]? = some y ∧
        ({ y with
          stopped := x.stopped
          group := x.group } : Crew) = x ∧
        (x.key.team.launch = c.crew.key.team.launch ∧ x.key.team.gang = c.crew.key.team.gang → y.stopped = true) ∧
        (¬ (x.key.team.launch = c.crew.key.team.launch ∧ x.key.team.gang = c.crew.key.team.gang) → y = x)) ∧
      (∀ (n : Nat) (x : Gang), s.gangs[n]? = some x → ∃ y, (s.takeTrap t).gangs[n]? = some y ∧
        (¬ (x.launch = c.crew.key.team.launch ∧ x.num = c.crew.key.team.gang) → y = x) ∧
        (x.launch = c.crew.key.team.launch ∧ x.num = c.crew.key.team.gang → y.kill = some (x.kill.getD k)))

/-- R367, R370: in a launch without priv, the privileged instructions and the privileged special registers raise an access
violation; the operands of WRSR, PREEMPT and KILLG are those their own checks allow. -/
def Obligations.PrivilegeViolations : Prop :=
  ∀ (s : State) (c : Ctx) (d a n : BitVec 6) (m : BitVec 3), c.launch.priv = false →
    (Issues (formOf .eret) s c → exec .eret s = .next (s.takeTrap { cause := 6 }).ran) ∧
    (Issues (formOf (.rdsr d n m)) s c → srReadable (m ++ n) = true → 32 ≤ (m ++ n).toNat →
      exec (.rdsr d n m) s = .next (s.takeTrap { cause := 6 }).ran) ∧
    (Issues (formOf (.wrsr a n m)) s c → ((m ++ n).toNat ∈ [33, 34, 35, 36, 49] ∨ ((m ++ n).toNat = 32 ∧
        (c.crew.u a.toNat = 0#32 ∨ ((c.crew.u a.toNat).toNat % 4 = 0 ∧ s.inCode c.launch (c.crew.u a.toNat) = true)))) →
      exec (.wrsr a n m) s = .next (s.takeTrap { cause := 6 }).ran) ∧
    (Issues (formOf (.wrsrTlbinv a)) s c → (c.crew.u64 a.toNat).toNat < 2 ^ 56 →
      exec (.wrsrTlbinv a) s = .next (s.takeTrap { cause := 6 }).ran) ∧
    (Issues (formOf (.killg d a)) s c → (c.crew.u (a.toNat + 1)).toNat < 2 ^ 16 →
      exec (.killg d a) s = .next (s.takeTrap { cause := 6 }).ran) ∧
    (Issues (formOf (.killgL d a)) s c → exec (.killgL d a) s = .next (s.takeTrap { cause := 6 }).ran) ∧
    ((c.crew.u (a.toNat + 1)).toNat < 2 ^ 16 → (c.crew.u64 (a.toNat + 2)).toNat % 4096 = 0 → c.crew.u (a.toNat + 4) = 0#32 →
      c.crew.u (a.toNat + 5) = 0#32 → c.crew.u (a.toNat + 6) = 0#32 → c.crew.u (a.toNat + 7) = 0#32 →
      (Issues (formOf (.preemptSave d a)) s c → exec (.preemptSave d a) s = .next (s.takeTrap { cause := 6 }).ran) ∧
      (Issues (formOf (.preemptRest d a)) s c → exec (.preemptRest d a) s = .next (s.takeTrap { cause := 6 }).ran))

/-- R370, R367: ERET of the privileged launch sends its entry to (EPC, EPRIO), where EPC is a multiple of 4 inside the code,
and raises an access violation otherwise.  That the priority is the low six bits of EPRIO is the model's reading (log
entry 53). -/
def Obligations.ExceptionReturn : Prop :=
  ∀ (s : State) (c : Ctx), Issues (formOf .eret) s c → c.launch.priv = true →
    (c.crew.epc.toNat % 4 = 0 ∧ s.inCode c.launch c.crew.epc = true →
      exec .eret s = .next (s.setCrew c.n (c.crew.split c.grp false
        [(c.ent.mask, c.crew.epc, BitVec.ofNat 6 c.crew.eprio.toNat)])).ran) ∧
    (¬ (c.crew.epc.toNat % 4 = 0 ∧ s.inCode c.launch c.crew.epc = true) →
      exec .eret s = .next (s.takeTrap { cause := 6 }).ran)

/-- R368, R369, R381: what RDSR reads from each special register.  A register below 32 needs no privilege; FLAGS waits for
earlier results that may still raise flags (R156, R176); a number R368 does not list for reading is an invalid instruction. -/
def Obligations.SpecialRegisterReads : Prop :=
  ∀ (s : State) (c : Ctx) (d n : BitVec 6) (m : BitVec 3), Issues (formOf (.rdsr d n m)) s c →
    (srReadable (m ++ n) = false → exec (.rdsr d n m) s = .next (s.takeTrap { cause := 1 }).ran) ∧
    (∀ v : Word, ((m ++ n).toNat, v) ∈ ([
      (0, s.dev.laneMap c.team.core), (1, BitVec.ofNat 32 (popCount (s.dev.laneMap c.team.core))),
      (2, BitVec.ofNat 32 c.team.core), (3, BitVec.ofNat 32 (c.team.core / 8)), (4, BitVec.ofNat 32 c.team.lcore),
      (5, BitVec.ofNat 32 (lowThread c.act)), (6, BitVec.ofNat 32 c.crew.key.crew), (7, BitVec.ofNat 32 c.team.teamid),
      (8, BitVec.ofNat 32 (c.crew.key.team.pos * 65536 + c.crew.key.team.gang)), (9, c.launch.id),
      (10, BitVec.ofNat 32 (c.launch.det.toNat + 2 * c.launch.prot.toNat + 4 * c.launch.priv.toNat)),
      (11, c.team.role.setWidth 32), (12, c.crew.resvBase), (16, c.crew.rm.setWidth 32), (17, c.crew.flags.setWidth 32),
      (18, c.crew.mnext.setWidth 32), (32, c.crew.evec), (33, c.crew.epc), (34, c.crew.eprio), (35, c.crew.ecause),
      (49, c.crew.tlblaunch), (448, BitVec.ofNat 32 (s.dev.step.toNat + 16 * s.dev.fail.toNat))] : List (Nat × Word)) →
      ((m ++ n).toNat < 32 ∨ c.launch.priv = true) → ((m ++ n).toNat = 17 → s.mayFlag c.crew.key = false) →
      exec (.rdsr d n m) s = .next (c.done s (c.crew.putU d.toNat v))) ∧
    ((m ++ n).toNat = 17 → s.mayFlag c.crew.key = true → exec (.rdsr d n m) s = .next s.waitGroup) ∧
    (s.mayFlag c.crew.key = true ↔ s.mayPark c.crew.key = true ∨
      ∃ o ∈ s.fl.ops, o.crew = c.crew.key ∧ ∃ ring step v fl, o.kind = .amaxPush ring step v fl) ∧
    (∀ k, k = (m ++ n).toNat → srMonitor k = true → k ≠ 448 → c.launch.priv = true →
      exec (.rdsr d n m) s = .next (c.done s (c.crew.putU d.toNat
        (if 450 ≤ k ∧ k ≤ 457 then s.dev.encores (k - 450) else Cells.get 0#32 s.dev.monitors k)))) ∧
    ((m ++ n).toNat = 19 → exec (.rdsr d n m) s = .next (c.done s (c.crew.putU64 d.toNat (BitVec.ofNat 64
      (Cells.get 0 s.dev.clk (c.team.core / 8) - Cells.get 0 s.dev.resetAt c.team.core))))) ∧
    ((m ++ n).toNat = 36 → c.launch.priv = true →
      exec (.rdsr d n m) s = .next (c.done s (c.crew.putU64 d.toNat c.crew.einfo)))

/-- R368 to R370, R154, R156, R228: what WRSR writes; a value that breaks a register's rules, and a register without W, is
an invalid instruction that changes nothing; FLAGS waits as RDSR does.  That EPRIO keeps all 32 bits without a check is the
model's reading (log entry 53). -/
def Obligations.SpecialRegisterWrites : Prop :=
  ∀ (s : State) (c : Ctx) (a n : BitVec 6) (m : BitVec 3) (w : Word), w = c.crew.u a.toNat → Issues (formOf (.wrsr a n m)) s c →
    (srWritable (m ++ n) = false → exec (.wrsr a n m) s = .next (s.takeTrap { cause := 1 }).ran) ∧
    (∀ (cr : Crew) (ok : Bool), ((m ++ n).toNat, cr, ok) ∈ ([
      (16, { c.crew with rm := BitVec.ofNat 3 w.toNat }, decide (w.toNat ≤ 5)),
      (17, { c.crew with flags := BitVec.ofNat 5 w.toNat }, decide (w.toNat < 32)),
      (18, { c.crew with mnext := BitVec.ofNat 6 w.toNat }, decide (w.toNat < 64)),
      (32, { c.crew with evec := w }, decide (w = 0#32) || (decide (w.toNat % 4 = 0) && s.inCode c.launch w)),
      (33, { c.crew with epc := w }, true), (34, { c.crew with eprio := w }, true), (35, { c.crew with ecause := w }, true),
      (36, { c.crew with einfo := c.crew.u64 a.toNat }, true), (49, { c.crew with tlblaunch := w }, true)] :
        List (Nat × Crew × Bool)) →
      (ok = false → exec (.wrsr a n m) s = .next (s.takeTrap { cause := 1 }).ran) ∧
      (ok = true → ((m ++ n).toNat < 32 ∨ c.launch.priv = true) → ((m ++ n).toNat = 17 → s.mayFlag c.crew.key = false) →
        exec (.wrsr a n m) s = .next (c.done s cr)) ∧
      (ok = true → (m ++ n).toNat = 17 → s.mayFlag c.crew.key = true → exec (.wrsr a n m) s = .next s.waitGroup))

/-- R76, R369: WRSR of TLBINV.  A value with zero bits set is invalid; a TLBLAUNCH that names no running launch completes at
once; else the range is discarded, with the copies of lines reached through it, and the entry waits until TLBINV_COMPLETE,
which happens just when every access of the launch that was in flight over the range has been performed.  HOST_TLBINV starts
the same for BAR0's TLBLAUNCH.  That the waiting entry stands at the next word is the model's choice (log entry 113). -/
def Obligations.TlbInvalidation : Prop :=
  (∀ (s : State) (c : Ctx) (a : BitVec 6) (v : DWord), v = c.crew.u64 a.toNat → Issues (formOf (.wrsrTlbinv a)) s c →
    (2 ^ 56 ≤ v.toNat → exec (.wrsrTlbinv a) s = .next (s.takeTrap { cause := 1 }).ran) ∧
    (v.toNat < 2 ^ 56 → c.launch.priv = true → c.crew.tlblaunch ≠ 0#32 → s.launchOf c.crew.tlblaunch = none →
      exec (.wrsrTlbinv a) s = .next (c.done s c.crew)) ∧
    (v.toNat < 2 ^ 56 → c.launch.priv = true → (c.crew.tlblaunch = 0#32 ∨ (s.launchOf c.crew.tlblaunch).isSome = true) →
      exec (.wrsrTlbinv a) s = .next ((State.startInv { s.setCrew c.n (c.crew.advanceHeld c.grp c.next [s.serial]) with
          serial := s.serial + 1 } s.serial false false
        c.crew.tlblaunch (v.toNat / 65536 * 65536) ((if v.toNat % 65536 = 0 then 65536 else v.toNat % 65536) * 65536)).ran))) ∧
  (∀ (s : State) (i : Inv), s.fl.invs.find? (fun j => decide (j.id = i.id)) = some i →
    (s.invDone i = true → exec (.tlbinvComplete i.id) s = .next { s with
      fl := { s.fl with invs := s.fl.invs.filter (fun j => !decide (j.id = i.id)) }
      crews := s.crews.map (fun x => { x with entries := x.entries.map (fun e =>
        { e with waits := e.waits.filter (fun w => !decide (w = i.id)) }) }) }) ∧
    (s.invDone i = false → exec (.tlbinvComplete i.id) s = .refused .notEnabled) ∧
    (s.invDone i = true ↔
      (∀ id ∈ i.ops, ∀ o, s.opOf id = some o → ∀ r ∈ o.reqs, r.st = .performed ∨ r.st = .delivered) ∧
      ∀ x ∈ i.lines, ∀ cp ln, s.copyOf x.1 = some cp → cp.lines[x.2]? = some ln → ln.done = true)) ∧
  (∀ (s : State) (id : Nat) (b h : Bool) (launch : Word) (lo len : Nat) (l : Launch), l ∈ s.launches →
    (launch = 0#32 ∨ launch = l.id) → ∃ i, (s.startInv id b h launch lo len).fl.invs = s.fl.invs ++ [i] ∧ i.id = id ∧
      i.host = h ∧ i.launch = launch ∧ i.lo = lo ∧ i.len = len ∧
      (∀ o ∈ s.fl.ops, o.crew.team.launch = l.id → ∀ r ∈ o.reqs, r.st ≠ .performed → r.st ≠ .delivered →
        r.target.memory = true → lo < 128 * r.vline + 128 → 128 * r.vline < lo + len → o.id ∈ i.ops) ∧
      (∀ cp ∈ s.fl.copies, cp.crew.team.launch = l.id → ∀ n ln, cp.lines[n]? = some ln → ln.done = false →
        (b = true ∨ ln.asked ≠ none) → lo < 128 * ln.vline + 128 → 128 * ln.vline < lo + len → (cp.id, n) ∈ i.lines)) ∧
  (∀ (s : State) (v : DWord), s.dev.power = true → s.dev.step = 6#4 → v.toNat < 2 ^ 56 →
    (s.dev.tlblaunch = 0#32 ∨ (s.launchOf s.dev.tlblaunch).isSome = true) →
    exec (.hostTlbinv v) s = .next (State.startInv { s with serial := s.serial + 1 } s.serial false true s.dev.tlblaunch
      (v.toNat / 65536 * 65536) ((if v.toNat % 65536 = 0 then 65536 else v.toNat % 65536) * 65536))) ∧
  (∀ (s : State) (i : Inv) (off : BitVec 45) (len : Nat), i ∈ s.fl.invs → i.host = true →
    exec (.hostBar2Read off len) s = .refused .notEnabled ∧ ∀ (q : BitVec 9) (v : BitVec 32),
      exec (.qtail q v) s = .refused .notEnabled) ∧
  (∀ (s : State) (id : Nat) (b h : Bool) (launch : Word) (lo len : Nat) (e : TlbEntry) (l : Launch), l ∈ s.launches →
    (launch = 0#32 ∨ launch = l.id) → e.launch = l.id → overlaps e.va e.lg lo len = true →
    e ∉ (s.startInv id b h launch lo len).fl.tlb ∧ e ∉ (s.startInv id b h launch lo len).fl.xtlb ∧
      ∀ va pa, lo % 128 = 0 → 16 ≤ e.lg → lo ≤ va → va < lo + len → va / 2 ^ e.lg = e.va / 2 ^ e.lg →
        (e ∈ s.fl.tlb ∨ e ∈ s.fl.xtlb) →
        (leafAddr e.leaf e.lg va e.sel = .main pa → ∀ x ∈ (s.startInv id b h launch lo len).fl.l1, x.line ≠ pa / 128) ∧
        (∀ d rc, leafAddr e.leaf e.lg va e.sel = .remote d pa rc →
          ∀ x ∈ (s.startInv id b h launch lo len).fl.l2, ¬ (x.dev = d ∧ x.line = pa / 128)))

/-- R371, R377: KILLG answers 1, 7 or 0 and asks for the kill only then; PREEMPT hands its operation to the control core and
leaves its result pair pending where no status holds at once, and else writes a status that holds.  The model's readings and
choices: a gang of the own launch that has ended is answered 1, not 7 (log entry 42); which status is given where several hold
(`State.free`, log entry 22), and which are given as the instruction issues, and that an unaligned area is an invalid instruction (log entry 52).  A gang number of
2^16 and more and a nonzero zero field trap with cause 1. -/
def Obligations.KillAndPreempt : Prop :=
  ∀ (s : State) (c : Ctx) (d a : BitVec 6) (l : Word), c.launch.priv = true → l = c.crew.u a.toNat →
    (∀ g : Nat, c.crew.u (a.toNat + 1) = BitVec.ofNat 32 g → g < 65536 → Issues (formOf (.killg d a)) s c →
      (s.liveGang l g = none → exec (.killg d a) s = .next (c.done s (c.crew.putU d.toNat 1#32))) ∧
      (s.liveGang l g ≠ none → l = c.launch.id → exec (.killg d a) s = .next (c.done s (c.crew.putU d.toNat 7#32))) ∧
      (s.liveGang l g ≠ none → l ≠ c.launch.id → exec (.killg d a) s = .next
        ((c.done s (c.crew.putU d.toNat 0#32)).requestKill l g (KillInfo.device 12) false))) ∧
    (Issues (formOf (.killg d a)) s c → 65536 ≤ (c.crew.u (a.toNat + 1)).toNat →
      exec (.killg d a) s = .next (s.takeTrap { cause := 1 }).ran) ∧
    (∀ (save : Bool) (i : Instr), (i, save) ∈ ([(.preemptSave d a, true), (.preemptRest d a, false)] : List (Instr × Bool)) →
      Issues (formOf i) s c →
      (65536 ≤ (c.crew.u (a.toNat + 1)).toNat ∨ (c.crew.u64 (a.toNat + 2)).toNat % 4096 ≠ 0 ∨
        (if save then 1 else 32) ≤ (c.crew.u (a.toNat + 4)).toNat ∨ c.crew.u (a.toNat + 5) ≠ 0#32 ∨
        c.crew.u (a.toNat + 6) ≠ 0#32 ∨ c.crew.u (a.toNat + 7) ≠ 0#32) →
      exec i s = .next (s.takeTrap { cause := 1 }).ran) ∧
    (Issues (formOf (.killgL d a)) s c →
      (s.launchOf l = none → exec (.killgL d a) s = .next (c.done s (c.crew.putU d.toNat 1#32))) ∧
      (s.launchOf l ≠ none → l = c.launch.id → exec (.killgL d a) s = .next (c.done s (c.crew.putU d.toNat 7#32))) ∧
      (s.launchOf l ≠ none → l ≠ c.launch.id → ∃ t, exec (.killgL d a) s = .next t ∧
        (∀ x ∈ t.launches, x.id = l → x.endStatus = some 3#8) ∧
        (∀ x ∈ t.gangs, x.launch = l → x.st ≠ .ended → x.kill.isSome = true ∧ x.forever = true) ∧ t.mem = s.mem)) ∧
    (∀ (g area : Nat) (save : Bool) (i : Instr), (i, save) ∈ ([(.preemptSave d a, true), (.preemptRest d a, false)] :
        List (Instr × Bool)) →
      c.crew.u (a.toNat + 1) = BitVec.ofNat 32 g → g < 65536 → area = (c.crew.u64 (a.toNat + 2)).toNat → area % 4096 = 0 →
      (c.crew.u (a.toNat + 4)).toNat < (if save then 1 else 32) → c.crew.u (a.toNat + 5) = 0#32 →
      c.crew.u (a.toNat + 6) = 0#32 → c.crew.u (a.toNat + 7) = 0#32 → Issues (formOf i) s c →
      (∀ st, st ∈ s.preemptNow c.launch.id l g area ↔
        (st = 1 ∧ s.liveGang l g = none) ∨
        (st = 4 ∧ ∃ x, s.liveGang l g = some x ∧ (x.kill.isSome = true ∨ x.st = .relaunchPending)) ∨
        (st = 6 ∧ ∃ b < 2 ^ 23, inMain (area + b) = false) ∨
        (st = 7 ∧ l = c.launch.id ∧ s.liveGang l g ≠ none)) ∧
      (s.preemptNow c.launch.id l g area ≠ [] → ∃ st ∈ s.preemptNow c.launch.id l g area,
        exec i s = .next { c.done s (c.crew.putU64 d.toNat (BitVec.ofNat 64 st)) with free := s.free + 1 }) ∧
      (s.preemptNow c.launch.id l g area = [] → ∃ t, exec i s = .next t ∧ t.mem = s.mem ∧
        t.fl.ops = s.fl.ops ++ [c.plainOp s.serial .preempt (some ⟨d.setWidth 7, 2⟩)] ∧
        t.gangs = s.gangs.map (fun x => if x.launch = l ∧ x.num = g then
          { x with todo := x.todo ++ [⟨s.serial, c.crew.key, d, save, area, (c.crew.u (a.toNat + 4)).toNat⟩] } else x) ∧
        (save = true → ∀ x ∈ t.crews, x.key.team.launch = l → x.key.team.gang = g → x.stopped = true)))

/-- R185, R186: RSLV.WAIT waits while the crew has an instruction whose fast results are not written, or a lane parked.
RSLV.STAT reads its six counters: the threads of the crew that are parked, those that will fail their test counted from the
issue on (R176); parks, resolves, escalations and matrix escalations of the core (words 1, 2, 3 and 5 of its eight); and the
records of the core's queue that neither a park record holds nor an instruction reserves. -/
def Obligations.ResolverWaitStat : Prop :=
  ∀ (s : State) (c : Ctx) (d n : BitVec 6),
    (∀ may : Prop, (may ↔ (∃ o ∈ s.fl.fasts, o.crew = c.crew.key) ∨ ∃ p ∈ s.fl.parks, p.crew = c.crew.key) →
      Issues (formOf .rslvWait) s c →
      (may → exec .rslvWait s = .next s.waitGroup) ∧ (¬ may → exec .rslvWait s = .next (c.done s c.crew))) ∧
    (Issues (formOf (.rslvStat d n)) s c →
      (n = 0#6 → ∀ l : List Nat, l.Nodup →
        (∀ k, k ∈ l ↔ k < 32 ∧ ((∃ p ∈ s.fl.parks, p.crew = c.crew.key ∧ p.pmask.getLsbD k = true) ∨
          ∃ o ∈ s.fl.fasts, o.crew = c.crew.key ∧ o.Parks c.launch.prot k)) →
        exec (.rslvStat d n) s = .next (c.done s (c.crew.putU d.toNat (BitVec.ofNat 32 l.length)))) ∧
      (n = 4#6 → ∀ l : List Nat, l.Nodup →
        (∀ i, i ∈ l ↔ i < 64 ∧ (∀ p ∈ s.fl.parks, p.core = c.team.core → i ∉ p.idx) ∧
          ∀ o ∈ s.fl.fasts, o.core = c.team.core → i ∉ o.resv) →
        exec (.rslvStat d n) s = .next (c.done s (c.crew.putU d.toNat (BitVec.ofNat 32 l.length)))) ∧
      (n = 1#6 ∨ n = 2#6 ∨ n = 3#6 ∨ n = 5#6 → exec (.rslvStat d n) s = .next (c.done s (c.crew.putU d.toNat
        (Cells.get 0#32 s.dev.counts (8 * c.team.core + n.toNat))))) ∧
      (5 < n.toNat → exec (.rslvStat d n) s = .next (s.takeTrap { cause := 1 }).ran))

/-! ### Memory instructions leave their core -/

/-- R109, R110, R112, R115, R123, R124, R199, R249: a load whose accesses are aligned and mapped leaves: one operation, one
access per active thread (and per shadow), one request for each line, its destination pending.  A request of LD is answered
at once only by a copy that its core's L1 or its die's L2 holds. -/
def Obligations.LoadsLeave : Prop :=
  (∀ (s : State) (c : Ctx) (d a w : BitVec 7) (z : BitVec 3) (o : BitVec 9) (i : Instr) (off : DWord)
      (accept : PAddr → Bool) (p : Nat → PAddr),
    (i, off, accept) ∈ ([(.ld d a z o, off9 c.grp.hints o, fun _ => true), (.ldc d a z o, off9 c.grp.hints o, PAddr.isMain),
      (.ldw d w a z, offS c.grp.hints, notHost)] : List (Instr × DWord × (PAddr → Bool))) →
    Issues (formOf i) s c → c.act ≠ 0#32 →
    (i = .ldw d w a z → (∀ t ∈ c.threads, witOk (c.crew.src64 w t) = true) ∧ MembersAgree c (c.crew.src64 w)) →
    Placed s c c.slots (zBytes z) Need.load accept (fun k => c.crew.src64 a k + off) p →
    ∃ t, exec i s = .next t ∧ OnePerLine t ∧
      Sent s t c c.crew (.load (zBytes z) (zSigned z)) (some ⟨d, regsOf (zBytes z)⟩) none c.act
        (c.slots.map (fun k => (k, c.crew.src64 a k + off, 0#128, 0#128))) (fun k => (p k).target)
        (fieldRegs d (regsOf (zBytes z))) ∧
      (i = .ld d a z o → ∀ q, t.fl.ops.getLast? = some q → ∀ r ∈ q.reqs, r.st = .performed →
        (∃ x ∈ s.fl.l1, x.core = c.team.core ∧ r.target = .home x.line ∧ r.data = x.data ∧ r.poison = x.poison) ∨
        (∃ x ∈ s.fl.l2, x.die = dieOf c.team.core ∧ r.target = .remote x.dev x.line ∧ r.data = x.data ∧
          r.poison = x.poison))) ∧
  (∀ (s : State) (c : Ctx) (d a : BitVec 7) (z : BitVec 3) (x : Nat → Nat), Issues (formOf (.ldv d a z)) s c →
    c.act ≠ 0#32 → (∀ k, x k = (c.crew.src a k + (offS c.grp.hints).setWidth 32).toNat) →
    (∀ k ∈ c.slots, x k % zBytes z = 0 ∧ granted c.launch (x k) = true) →
    ∃ t, exec (.ldv d a z) s = .next t ∧ OnePerLine t ∧
      Sent s t c c.crew (.load (zBytes z) (zSigned z)) (some ⟨d, regsOf (zBytes z)⟩) none c.act
        (c.slots.map (fun k => (k, BitVec.ofNat 64 (Config.windowBase + x k), 0#128, 0#128)))
        (fun k => .home ((Config.vaultBase + x k) / 128)) (fieldRegs d (regsOf (zBytes z)))) ∧
  (∀ (s : State) (c : Ctx) (d a : BitVec 6) (w : BitVec 1) (n : Nat) (ea : DWord) (p : PAddr),
    Issues (formOf (.uld d a w)) s c → n = (if w = 1#1 then 2 else 1) → ea = c.crew.u64 a.toNat + offS c.grp.hints →
    ea.toNat % (4 * n) = 0 → Reaches s c Need.load ea p →
    ∃ t, exec (.uld d a w) s = .next t ∧
      Sent s t c c.crew (.load (4 * n) false) none (some ⟨d.setWidth 7, n⟩) c.ent.mask
        (if c.launch.prot then [(32, ea, 0#128, 0#128), (33, ea, 0#128, 0#128)] else [(32, ea, 0#128, 0#128)])
        (fun _ => p.target) ((List.range n).map (fun k => .u (d.toNat + k))))

/-- R53, R109, R112, R123, R124, R252: a store whose accesses are aligned and mapped leaves with its data, its witness pair
pending, and the L1 of its core keeps no copy of a line it writes. -/
def Obligations.StoresLeave : Prop :=
  (∀ (s : State) (c : Ctx) (d q a : BitVec 7) (z : BitVec 3) (i : Instr) (accept : PAddr → Bool) (wit : Nat → DWord)
      (p : Nat → PAddr) (ea : Nat → DWord) (data : Nat → BitVec 128),
    (i, accept, wit) ∈ ([(.st d q a z, fun _ => true, fun _ => 0#64),
      (.stw d q a z, notHost, c.crew.src64 (c.grp.hints.cField.getD 127#7))] :
        List (Instr × (PAddr → Bool) × (Nat → DWord))) →
    Issues (formOf i) s c → c.act ≠ 0#32 → (∀ t ∈ c.threads, witOk (wit t) = true) →
    (∀ k, ea k = c.crew.src64 a k + offS c.grp.hints) → (∀ k, data k = c.crew.dataOf q (zBytes z) k) →
    MembersAgree c (fun k => (ea k, wit k, data k)) → Placed s c c.threads (zBytes z) Need.store accept ea p →
    ∃ t, exec i s = .next t ∧ OnePerLine t ∧
      Sent s t c c.crew (.store (zBytes z)) (some ⟨d, 2⟩) none c.act (c.threads.map (fun k => (k, ea k, data k, 0#128)))
        (fun k => (p k).target) (fieldRegs d 2) ∧
      (∀ x ∈ t.fl.l1, x.core = c.team.core → ∀ k ∈ c.threads, (p k).target ≠ .home x.line)) ∧
  (∀ (s : State) (c : Ctx) (d q a : BitVec 7) (z : BitVec 3) (x : Nat → Nat) (data : Nat → BitVec 128),
    Issues (formOf (.stv d q a z)) s c → c.act ≠ 0#32 →
    (∀ k, x k = (c.crew.src a k + (offS c.grp.hints).setWidth 32).toNat) → (∀ k, data k = c.crew.dataOf q (zBytes z) k) →
    MembersAgree c (fun k => (x k, data k)) →
    (∀ k ∈ c.threads, x k % zBytes z = 0 ∧ granted c.launch (x k) = true) →
    ∃ t, exec (.stv d q a z) s = .next t ∧ OnePerLine t ∧
      Sent s t c c.crew (.store (zBytes z)) (some ⟨d, 2⟩) none c.act
        (c.threads.map (fun k => (k, BitVec.ofNat 64 (Config.windowBase + x k), data k, 0#128)))
        (fun k => .home ((Config.vaultBase + x k) / 128)) (fieldRegs d 2))

/-- R107, R119, R123, R124: loads and stores of the own scratchpad and of the scratchpads of the gang leave, for aligned
offsets inside the allocation. -/
def Obligations.ScratchAccessesLeave : Prop :=
  (∀ (s : State) (c : Ctx) (d a : BitVec 7) (z : BitVec 3) (i : Instr) (gang : Bool) (x off : Nat → Nat)
      (k : Nat → TeamKey),
    (i, gang, x) ∈ ([(.lds d a z, false, fun t => (c.crew.src a t + (offS c.grp.hints).setWidth 32).toNat),
      (.ldRs d a z, true, fun t => (c.crew.src a t).toNat)] : List (Instr × Bool × (Nat → Nat))) →
    Issues (formOf i) s c → c.act ≠ 0#32 →
    (∀ t ∈ c.slots, off t = (if gang then x t % 2 ^ 18 else x t) ∧
      k t = (if gang then { c.team.key with pos := x t / 2 ^ 18 } else c.team.key) ∧ (gang = true → x t < 2 ^ 21) ∧
      off t % zBytes z = 0 ∧
      (if gang then ∃ m, s.teamOf (k t) = some m ∧ off t < 4096 * m.spu else off t < 4096 * c.team.spu)) →
    ∃ t, exec i s = .next t ∧ OnePerLine t ∧
      Sent s t c c.crew (.scLoad (zBytes z) (zSigned z) gang) (some ⟨d, regsOf (zBytes z)⟩) none c.act
        (c.slots.map (fun j => (j, BitVec.ofNat 64 (off j), 0#128, 0#128))) (fun j => .scratch (k j))
        (fieldRegs d (regsOf (zBytes z)))) ∧
  (∀ (s : State) (c : Ctx) (d q a : BitVec 7) (z : BitVec 3) (i : Instr) (n : Nat) (gang : Bool) (x off : Nat → Nat)
      (k : Nat → TeamKey) (data : Nat → BitVec 128),
    (i, n, gang, x) ∈ ([
      (.sts d q a z, zBytes z, false, fun t => (c.crew.src a t + (offS c.grp.hints).setWidth 32).toNat),
      (.stRs8 d a q, 1, true, fun t => (c.crew.src a t).toNat), (.stRs16 d a q, 2, true, fun t => (c.crew.src a t).toNat),
      (.stRs32 d a q, 4, true, fun t => (c.crew.src a t).toNat), (.stRs64 d a q, 8, true, fun t => (c.crew.src a t).toNat),
      (.stRs128 d a q, 16, true, fun t => (c.crew.src a t).toNat)] : List (Instr × Nat × Bool × (Nat → Nat))) →
    Issues (formOf i) s c → c.act ≠ 0#32 → (∀ j, data j = c.crew.dataOf q n j) → MembersAgree c (fun j => (x j, data j)) →
    (∀ t ∈ c.threads, off t = (if gang then x t % 2 ^ 18 else x t) ∧
      k t = (if gang then { c.team.key with pos := x t / 2 ^ 18 } else c.team.key) ∧ (gang = true → x t < 2 ^ 21) ∧ off t % n = 0 ∧
      (if gang then ∃ m, s.teamOf (k t) = some m ∧ off t < 4096 * m.spu else off t < 4096 * c.team.spu)) →
    ∃ t, exec i s = .next t ∧ OnePerLine t ∧
      Sent s t c c.crew (.scStore n gang) (some ⟨d, 2⟩) none c.act
        (c.threads.map (fun j => (j, BitVec.ofNat 64 (off j), data j, 0#128))) (fun j => .scratch (k j)) (fieldRegs d 2))

/-- R254 to R258, R266 to R268: the memory-side commands leave; in a deterministic launch ATOM.ADD returns the crew's
reservation and advances its running count, and every other command that returns an old value, a floating-point one and an
ATOM.ADD beyond the reservation are nondeterministic operations. -/
def Obligations.CommandsLeave : Prop :=
  (∀ (s : State) (c : Ctx) (d a b third : BitVec 7) (w : BitVec 1) (i : Instr) (kind : OpKind) (n regs : Nat)
      (p : Nat → PAddr) (ea : Nat → DWord) (data aux : Nat → BitVec 128),
    (i, kind, n, regs) ∈ ([
      (.atomAdd d a b w, .atomic w.toNat true false, 4 + 4 * w.toNat, 1 + w.toNat),
      (.redAdd d a b w, .atomic w.toNat false false, 4 + 4 * w.toNat, 2),
      (.atomMin d a b w, .atomic (2 + w.toNat) true false, 4, 1), (.redMin d a b w, .atomic (2 + w.toNat) false false, 4, 2),
      (.atomMax d a b w, .atomic (4 + w.toNat) true false, 4, 1), (.redMax d a b w, .atomic (4 + w.toNat) false false, 4, 2),
      (.atomAnd d a b, .atomic 6 true false, 4, 1), (.redAnd d a b, .atomic 6 false false, 4, 2),
      (.atomOr d a b, .atomic 7 true false, 4, 1), (.redOr d a b, .atomic 7 false false, 4, 2),
      (.atomXor d a b, .atomic 8 true false, 4, 1), (.redXor d a b, .atomic 8 false false, 4, 2),
      (.atomExch32 d a b, .atomic 9 true false, 4, 1), (.atomExch64 d a b, .atomic 10 true false, 8, 2),
      (.atomCas32 d a b, .atomic 11 true false, 4, 1), (.atomCas64 d a b, .atomic 12 true false, 8, 2),
      (.atomfAddS d a b, .atomf false true, 4, 1), (.atomfAddD d a b, .atomf true true, 8, 2),
      (.atomfRedS d a b, .atomf false false, 4, 2), (.atomfRedD d a b, .atomf true false, 8, 2),
      (.msaddBf d a b, .msadd false, 2, 2), (.msaddH d a b, .msadd true, 2, 2)] : List (Instr × OpKind × Nat × Nat)) →
    Issues (formOf i) s c → c.act ≠ 0#32 → third = c.grp.hints.cField.getD 127#7 → (∀ k, ea k = c.crew.src64 a k) →
    (∀ k, data k = c.crew.dataOf b n k) →
    (∀ k, aux k = (if i = .atomCas32 d a b ∨ i = .atomCas64 d a b then c.crew.dataOf third n k else 0#128)) →
    MembersAgree c (fun k => (ea k, data k, aux k)) →
    ((c.launch.det = false ∨ i ∈ [.redAdd d a b w, .redMin d a b w, .redMax d a b w, .redAnd d a b, .redOr d a b,
        .redXor d a b, .msaddBf d a b, .msaddH d a b]) →
      Placed s c c.threads n Need.both (inScope c.scope) ea p →
      ∃ t, exec i s = .next t ∧ OnePerLine t ∧
        Sent s t c c.crew kind (some ⟨d, regs⟩) none c.act (c.threads.map (fun k => (k, ea k, data k, aux k)))
          (fun k => (p k).target) (fieldRegs d regs)) ∧
    (c.launch.det = true → i ∉ [.redAdd d a b w, .redMin d a b w, .redMax d a b w, .redAnd d a b, .redOr d a b,
        .redXor d a b, .msaddBf d a b, .msaddH d a b] →
      (i = .atomAdd d a b w →
        c.crew.resvCount.toNat < c.crew.running.toNat + (c.threads.map (fun k => (data k).toNat)).sum) →
      exec i s = .next (s.takeTrap { cause := 5 }).ran) ∧
    (c.launch.det = true → i = .atomAdd d a b w →
      c.crew.running.toNat + (c.threads.map (fun k => (data k).toNat)).sum ≤ c.crew.resvCount.toNat →
      Placed s c c.threads n Need.both (inScope c.scope) ea p →
      ∃ t, exec i s = .next t ∧
        Sent s t c { c.crew with
            running := BitVec.ofNat 32 (c.crew.running.toNat + (c.threads.map (fun k => (data k).toNat)).sum) }
          (.atomic w.toNat true true) (some ⟨d, regs⟩) none c.act (c.threads.map (fun k => (k, ea k, data k, aux k)))
          (fun k => (p k).target) (fieldRegs d regs) ∧
        ∀ o, t.fl.ops.getLast? = some o → o.accs.map (·.out) = (List.range c.threads.length).map (fun j =>
          BitVec.ofNat 128 ((c.crew.resvBase.toNat + c.crew.running.toNat +
            ((c.threads.take j).map (fun k => (data k).toNat)).sum) % 2 ^ (8 * n))))) ∧
  (∀ (s : State) (c : Ctx) (d a b : BitVec 7) (p : Nat → PAddr) (ea : Nat → DWord) (data aux : Nat → BitVec 128),
    (∀ k, ea k = c.crew.src64 a k) → (∀ k, data k = (c.crew.srcK b 0 k).setWidth 128) →
    (∀ k, aux k = (c.crew.srcK b 1 k).setWidth 128) → c.act ≠ 0#32 → Issues (formOf (.cwr d a b)) s c →
    MembersAgree c (fun k => (ea k, data k, aux k)) →
    (∀ t ∈ c.threads, (aux t).toNat < 4096 ∧ ∀ u ∈ c.threads,
      (ea u).toNat / 128 = (ea t).toNat / 128 ∨ (p u).target = (p t).target → aux u = aux t) →
    Placed s c c.threads 4 Need.both (inScope c.scope) ea p →
    ∃ t, exec (.cwr d a b) s = .next t ∧ OnePerLine t ∧
      Sent s t c c.crew .cwr (some ⟨d, 2⟩) none c.act (c.threads.map (fun k => (k, ea k, data k, aux k)))
        (fun k => (p k).target) (fieldRegs d 2)) ∧
  (∀ (s : State) (c : Ctx) (d a : BitVec 7) (p : Nat → PAddr) (ea : Nat → DWord),
    (∀ k, ea k = c.crew.src64 a k) → c.act ≠ 0#32 → Issues (formOf (.vers d a)) s c → MembersAgree c ea →
    Placed s c c.threads 1 Need.load notHost ea p →
    ∃ t, exec (.vers d a) s = .next t ∧ OnePerLine t ∧
      Sent s t c c.crew .vers (some ⟨d, 1⟩) none c.act (c.threads.map (fun k => (k, ea k, 0#128, 0#128)))
        (fun k => (p k).target) (fieldRegs d 1))

/-- R110, R123, R124, R254, R257: a memory instruction with no active thread has no effect but to pass, but a value-returning
atomic other than ATOM.ADD, and every ATOMF, is a trap of a deterministic launch; the first access that breaks a rule is an
access violation of its thread, with its address; an address in no TLB starts a walk.  That the first failing thread in
ascending order decides between a violation and a walk is the model's choice (log entry 62, DEDUCED).  In a protected launch
members that reach different lines, or differ in what R139 has compared, are a silent error; scratchpad and vault accesses have
bounds of their own, a given witness has a valid form (that the trap reports 0 is log entry 99, DESIGN CHOICE), and CWR one
version a line.  ULD has one access of the crew (R199); ORD.ATOM and ORD.CLOSE have the checks of R260.  FLIP (R80, R269)
toggles the selection bit of the range of the lowest active thread's page, starts the discards over the range and gives its
witness once they are complete; an address without a DV leaf of a declared range is a violation, one in no TLB starts a walk;
that it toggles when it issues, and waits while another FLIP of the range is in flight, is the model's choice (log entry 67,
DEDUCED). -/
def Obligations.MemoryChecks : Prop :=
  (∀ (s : State) (c : Ctx) (d a b q : BitVec 7) (z : BitVec 3) (w : BitVec 1) (o : BitVec 9) (i : Instr),
    i ∈ [.ld d a z o, .st d q a z, .lds d a z, .sts d q a z, .ldv d a z, .stv d q a z, .ldc d a z o, .ldw d q a z,
      .stw d q a z, .ldRs d a z, .stRs8 d a b, .stRs16 d a b, .stRs32 d a b, .stRs64 d a b, .stRs128 d a b,
      .atomAdd d a b w, .redAdd d a b w, .redMin d a b w, .redMax d a b w, .redAnd d a b, .redOr d a b, .redXor d a b,
      .msaddBf d a b, .msaddH d a b, .cwr d a b, .vers d a, .flip d a, .ordClose d a] →
    Issues (formOf i) s c → c.act = 0#32 → exec i s = .next (c.done s c.crew)) ∧
  (∀ (s : State) (c : Ctx) (d a b : BitVec 7) (w : BitVec 1) (i : Instr),
    i ∈ [.atomMin d a b w, .atomMax d a b w, .atomAnd d a b, .atomOr d a b, .atomXor d a b, .atomExch32 d a b,
      .atomExch64 d a b, .atomCas32 d a b, .atomCas64 d a b, .atomfAddS d a b, .atomfAddD d a b, .atomfRedS d a b,
      .atomfRedD d a b] →
    Issues (formOf i) s c → c.act = 0#32 →
      exec i s = .next (if c.launch.det = true then (s.takeTrap { cause := 5 }).ran else c.done s c.crew)) ∧
  (∀ (s : State) (c : Ctx) (d a b q third : BitVec 7) (z : BitVec 3) (o : BitVec 9) (w : BitVec 1) (i : Instr) (off : DWord)
      (size row : Nat) (acc : Access) (need : Need) (accept : PAddr → Bool) (fits : Prop) (h : Heat)
      (val : Nat → DWord × BitVec 128 × BitVec 128) (pre post : List Nat) (k : Nat),
    third = c.grp.hints.cField.getD 127#7 → (i, off, size, acc, need, accept, fits, row, val) ∈ ([
      (.ld d a z o, off9 c.grp.hints o, zBytes z, .load, Need.load, fun _ => true, True, 0, fun _ => (0, 0, 0)),
      (.ldc d a z o, off9 c.grp.hints o, zBytes z, .load, Need.load, PAddr.isMain, True, 0, fun _ => (0, 0, 0)),
      (.ldw d q a z, offS c.grp.hints, zBytes z, .load, Need.load, notHost, ∀ k ∈ c.threads, witOk (c.crew.src64 q k) =
        true, 3, fun k => (c.crew.src64 q k, 0, 0)),
      (.st d b a z, offS c.grp.hints, zBytes z, .store, Need.store, fun _ => true, True, 1, fun k => (c.crew.src64 a k,
        c.crew.dataOf b (zBytes z) k, 0)),
      (.stw d b a z, offS c.grp.hints, zBytes z, .store, Need.store, notHost, ∀ k ∈ c.threads, witOk (c.crew.src64 third
        k) = true, 1, fun k => (c.crew.src64 a k, c.crew.dataOf b (zBytes z) k, (c.crew.src64 third k).setWidth 128)),
      (.atomAdd d a b w, 0#64, 4 + 4 * w.toNat, .memside, Need.both, inScope c.scope, c.launch.det = false ∨
        c.crew.running.toNat + (c.threads.map (fun k => (c.crew.dataOf b (4 + 4 * w.toNat) k).toNat)).sum ≤
        c.crew.resvCount.toNat, 3, fun k => (c.crew.src64 a k, c.crew.dataOf b (4 + 4 * w.toNat) k, 0)),
      (.redAdd d a b w, 0#64, 4 + 4 * w.toNat, .memside, Need.both, inScope c.scope, True, 3, fun k => (c.crew.src64 a k,
        c.crew.dataOf b (4 + 4 * w.toNat) k, 0)),
      (.atomMin d a b w, 0#64, 4, .memside, Need.both, inScope c.scope, c.launch.det = false, 3, fun k => (c.crew.src64 a
        k, c.crew.dataOf b 4 k, 0)),
      (.redMin d a b w, 0#64, 4, .memside, Need.both, inScope c.scope, True, 3, fun k => (c.crew.src64 a k, c.crew.dataOf
        b 4 k, 0)),
      (.atomMax d a b w, 0#64, 4, .memside, Need.both, inScope c.scope, c.launch.det = false, 3, fun k => (c.crew.src64 a
        k, c.crew.dataOf b 4 k, 0)),
      (.redMax d a b w, 0#64, 4, .memside, Need.both, inScope c.scope, True, 3, fun k => (c.crew.src64 a k, c.crew.dataOf
        b 4 k, 0)),
      (.atomAnd d a b, 0#64, 4, .memside, Need.both, inScope c.scope, c.launch.det = false, 3, fun k => (c.crew.src64 a k,
        c.crew.dataOf b 4 k, 0)),
      (.redAnd d a b, 0#64, 4, .memside, Need.both, inScope c.scope, True, 3, fun k => (c.crew.src64 a k, c.crew.dataOf b
        4 k, 0)),
      (.atomOr d a b, 0#64, 4, .memside, Need.both, inScope c.scope, c.launch.det = false, 3, fun k => (c.crew.src64 a k,
        c.crew.dataOf b 4 k, 0)),
      (.redOr d a b, 0#64, 4, .memside, Need.both, inScope c.scope, True, 3, fun k => (c.crew.src64 a k, c.crew.dataOf b 4
        k, 0)),
      (.atomXor d a b, 0#64, 4, .memside, Need.both, inScope c.scope, c.launch.det = false, 3, fun k => (c.crew.src64 a k,
        c.crew.dataOf b 4 k, 0)),
      (.redXor d a b, 0#64, 4, .memside, Need.both, inScope c.scope, True, 3, fun k => (c.crew.src64 a k, c.crew.dataOf b
        4 k, 0)),
      (.atomExch32 d a b, 0#64, 4, .memside, Need.both, inScope c.scope, c.launch.det = false, 3, fun k => (c.crew.src64 a
        k, c.crew.dataOf b 4 k, 0)),
      (.atomExch64 d a b, 0#64, 8, .memside, Need.both, inScope c.scope, c.launch.det = false, 3, fun k => (c.crew.src64 a
        k, c.crew.dataOf b 8 k, 0)),
      (.atomCas32 d a b, 0#64, 4, .memside, Need.both, inScope c.scope, c.launch.det = false, 3, fun k => (c.crew.src64 a
        k, c.crew.dataOf b 4 k, c.crew.dataOf third 4 k)),
      (.atomCas64 d a b, 0#64, 8, .memside, Need.both, inScope c.scope, c.launch.det = false, 3, fun k => (c.crew.src64 a
        k, c.crew.dataOf b 8 k, c.crew.dataOf third 8 k)),
      (.atomfAddS d a b, 0#64, 4, .memside, Need.both, inScope c.scope, c.launch.det = false, 3, fun k => (c.crew.src64 a
        k, c.crew.dataOf b 4 k, 0)),
      (.atomfAddD d a b, 0#64, 8, .memside, Need.both, inScope c.scope, c.launch.det = false, 3, fun k => (c.crew.src64 a
        k, c.crew.dataOf b 8 k, 0)),
      (.atomfRedS d a b, 0#64, 4, .memside, Need.both, inScope c.scope, c.launch.det = false, 3, fun k => (c.crew.src64 a
        k, c.crew.dataOf b 4 k, 0)),
      (.atomfRedD d a b, 0#64, 8, .memside, Need.both, inScope c.scope, c.launch.det = false, 3, fun k => (c.crew.src64 a
        k, c.crew.dataOf b 8 k, 0)),
      (.msaddBf d a b, 0#64, 2, .memside, Need.both, inScope c.scope, True, 3, fun k => (c.crew.src64 a k, c.crew.dataOf b
        2 k, 0)),
      (.msaddH d a b, 0#64, 2, .memside, Need.both, inScope c.scope, True, 3, fun k => (c.crew.src64 a k, c.crew.dataOf b
        2 k, 0)),
      (.cwr d a b, 0#64, 4, .memside, Need.both, inScope c.scope, ∀ t ∈ c.threads, (c.crew.srcK b 1 t).toNat < 4096 ∧ ∀ u
        ∈ c.threads, (c.crew.src64 a u).toNat / 128 = (c.crew.src64 a t).toNat / 128 ∨ (∃ x, s.fate c.team.core c.launch
        (c.crew.src64 a t) Need.both = .to x ∧ s.fate c.team.core c.launch (c.crew.src64 a u) Need.both = .to x) →
        c.crew.srcK b 1 u = c.crew.srcK b 1 t, 3, fun k => (c.crew.src64 a k, (c.crew.srcK b 0 k).setWidth 128, (c.crew.srcK
        b 1 k).setWidth 128)),
      (.vers d a, 0#64, 1, .memside, Need.load, notHost, True, 3, fun k => (c.crew.src64 a k, 0, 0)),
      (.ordAtom q a b, 0#64, heatSize h.op, .memside, Need.both, fun p => !p.isRemote, (c.crew.src q 0).toNat < 2 ^ 24 ∧
        (c.crew.src q 0).toNat / 16 % 16 = 0 ∧ c.launch.heats[(c.crew.src q 0).toNat % 16]? = some h ∧
        (c.crew.src q 0).toNat / 256 ≤ h.np ∧ h.failed = false ∧ c.reads b (if heatSize h.op = 8 then 2 else 1) = .ok () ∧
        c.readsGood b (if heatSize h.op = 8 then 2 else 1) = .ok () ∧ ∀ t ∈ c.threads, h.ext ≤ (c.crew.src64 a t).toNat ∧
        (c.crew.src64 a t).toNat + heatSize h.op ≤ h.ext + h.len ∧ (c.crew.src64 a t).toNat % heatSize h.op = 0, 3,
        fun k => (c.crew.src64 a k, c.crew.dataOf b (heatSize h.op) k &&& BitVec.ofNat 128 (2 ^ (8 * heatSize h.op) - 1), 0))] :
        List (Instr × DWord × Nat × Access × Need × (PAddr → Bool) × Prop × Nat × (Nat → DWord × BitVec 128 × BitVec 128))) →
    Issues (formOf i) s c → fits →
    (c.launch.prot = false → c.threads = pre ++ k :: post →
      (∀ j ∈ pre, (c.crew.src64 a j + off).toNat % size = 0 ∧
        ∃ p, Reaches s c need (c.crew.src64 a j + off) p ∧ accept p = true) →
      ∀ ea, ea = c.crew.src64 a k + off →
      ((ea.toNat % size ≠ 0 ∨ 2 ^ 56 ≤ ea.toNat ∨
          (inWindow ea.toNat = true ∧ granted c.launch (ea.toNat - Config.windowBase) = false) ∨
          (ea.toNat < 2 ^ 56 ∧ inWindow ea.toNat = false ∧
            ∃ t, s.tlbFind c.team.core c.launch.id ea.toNat = some t ∧ need.ok t.leaf = false) ∨
          (∃ p, Reaches s c need ea p ∧ accept p = false)) →
        exec i s = .next (s.takeTrap { cause := 6, info := ea, thread := some k }).ran) ∧
      (ea.toNat % size = 0 → ea.toNat < 2 ^ 56 → inWindow ea.toNat = false →
        s.tlbFind c.team.core c.launch.id ea.toNat = none → exec i s = .next (s.startWalk ea.toNat acc (some k)).ran)) ∧
    (c.launch.prot = true → ∀ p : Nat → PAddr,
      (∀ j ∈ c.slots, (c.crew.src64 a j + off).toNat % size = 0 ∧ Reaches s c need (c.crew.src64 a j + off) (p j) ∧
        accept (p j) = true) →
      (c.threads.find? (fun t => decide ((p t).target ≠ (p (t + 16)).target)) = some k →
        exec i s = .next (s.takeTrap { cause := 9, info := 2#64, thread := some k }).ran) ∧
      ((∀ t ∈ c.threads, (p t).target = (p (t + 16)).target) →
        c.threads.find? (fun t => decide (val t ≠ val (t + 16))) = some k →
        exec i s = .next (s.takeTrap { cause := 9, info := BitVec.ofNat 64 row, thread := some k }).ran))) ∧
  (∀ (s : State) (c : Ctx) (d a b : BitVec 7) (z : BitVec 3) (i : Instr) (slots pre post : List Nat) (x y r : Nat → Nat)
      (k : Nat) (good : Nat → Nat → Prop) (n : Nat) (data : Option (Nat → BitVec 128)),
    (∀ t, x t = (c.crew.src a t + (offS c.grp.hints).setWidth 32).toNat) → (∀ t, y t = (c.crew.src a t).toNat) →
    (∀ n v, good n v ↔ v < 2 ^ 21 ∧ v % 2 ^ 18 % n = 0 ∧
      ∃ m, s.teamOf { c.team.key with pos := v / 2 ^ 18 } = some m ∧ v % 2 ^ 18 < 4096 * m.spu) →
    ∀ ok : Nat → Prop, (i, slots, r, n, ok, data) ∈ ([
      (.lds d a z, c.slots, x, zBytes z, fun v => v % zBytes z = 0 ∧ v < 4096 * c.team.spu, none),
      (.sts d b a z, c.threads, x, zBytes z, fun v => v % zBytes z = 0 ∧ v < 4096 * c.team.spu,
        some (c.crew.dataOf b (zBytes z))),
      (.ldv d a z, c.slots, x, zBytes z, fun v => v % zBytes z = 0 ∧ granted c.launch v = true, none),
      (.stv d b a z, c.threads, x, zBytes z, fun v => v % zBytes z = 0 ∧ granted c.launch v = true,
        some (c.crew.dataOf b (zBytes z))),
      (.ldRs d a z, c.slots, y, zBytes z, good (zBytes z), none),
      (.stRs8 d a b, c.threads, y, 1, good 1, some (c.crew.dataOf b 1)),
      (.stRs16 d a b, c.threads, y, 2, good 2, some (c.crew.dataOf b 2)),
      (.stRs32 d a b, c.threads, y, 4, good 4, some (c.crew.dataOf b 4)),
      (.stRs64 d a b, c.threads, y, 8, good 8, some (c.crew.dataOf b 8)),
      (.stRs128 d a b, c.threads, y, 16, good 16, some (c.crew.dataOf b 16))] :
        List (Instr × List Nat × (Nat → Nat) × Nat × (Nat → Prop) × Option (Nat → BitVec 128))) →
    Issues (formOf i) s c →
    (slots = pre ++ k :: post → (∀ j ∈ pre, ok (r j)) → ¬ ok (r k) →
      exec i s = .next (s.takeTrap {
        cause := 6
        info := BitVec.ofNat 64 (r k)
        thread := some (if c.launch.prot then k % 16 else k) }).ran) ∧
    (∀ f, data = some f → c.launch.prot = true → (∀ j ∈ c.threads, ok (r j)) →
      c.threads.find? (fun t => decide ((r t, f t) ≠ (r (t + 16), f (t + 16)))) = some k →
      exec i s = .next (s.takeTrap { cause := 9, info := 1#64, thread := some k }).ran)) ∧
  (∀ (s : State) (c : Ctx) (d a b q : BitVec 7) (z : BitVec 3) (pre post : List Nat) (k : Nat) (i : Instr) (wit : Nat → DWord),
    c.threads = pre ++ k :: post → Issues (formOf i) s c →
    ((i, wit) ∈ ([(.ldw d q a z, c.crew.src64 q), (.stw d b a z, c.crew.src64 (c.grp.hints.cField.getD 127#7))] :
        List (Instr × (Nat → DWord))) → (∀ j ∈ pre, witOk (wit j) = true) → witOk (wit k) = false →
      exec i s = .next (s.takeTrap { cause := 4, thread := some k }).ran) ∧
    (i = .cwr d a b →
      (∀ j ∈ pre, (c.crew.srcK b 1 j).toNat < 4096 ∧ ∀ u ∈ pre, c.crew.srcK b 1 u = c.crew.srcK b 1 j) →
      (4096 ≤ (c.crew.srcK b 1 k).toNat ∨ ∃ u ∈ pre, (c.crew.src64 a u).toNat / 128 = (c.crew.src64 a k).toNat / 128 ∧
        c.crew.srcK b 1 u ≠ c.crew.srcK b 1 k) →
      exec i s = .next (s.takeTrap { cause := 6, info := c.crew.src64 a k, thread := some k }).ran)) ∧
  (∀ (s : State) (c : Ctx) (d a : BitVec 6) (w : BitVec 1) (ea : DWord) (n : Nat), Issues (formOf (.uld d a w)) s c →
    ea = c.crew.u64 a.toNat + offS c.grp.hints → n = (if w = 1#1 then 8 else 4) →
    ((ea.toNat % n ≠ 0 ∨ 2 ^ 56 ≤ ea.toNat ∨
        (inWindow ea.toNat = true ∧ granted c.launch (ea.toNat - Config.windowBase) = false) ∨
        (inWindow ea.toNat = false ∧ ∃ t, s.tlbFind c.team.core c.launch.id ea.toNat = some t ∧ Need.load.ok t.leaf = false)) →
      exec (.uld d a w) s = .next (s.takeTrap { cause := 6, info := ea }).ran) ∧
    (ea.toNat % n = 0 → ea.toNat < 2 ^ 56 → inWindow ea.toNat = false → s.tlbFind c.team.core c.launch.id ea.toNat = none →
      exec (.uld d a w) s = .next (s.startWalk ea.toNat .load none).ran)) ∧
  (∀ (s : State) (c : Ctx) (d q a b : BitVec 7) (w : Word) (i : Instr) (size : Nat) (good : Heat → Prop),
    Issues (formOf i) s c → (∀ h, good h ↔ w.toNat < 2 ^ 24 ∧ w.toNat / 16 % 16 = 0 ∧
      c.launch.heats[w.toNat % 16]? = some h ∧ w.toNat / 256 ≤ h.np) →
    (i = .ordClose d q → w = c.crew.src q 0 → c.act ≠ 0#32 → (∀ h, ¬ good h) →
      exec i s = .next (s.takeTrap { cause := 6 }).ran) ∧
    (i = .ordAtom q a b → w = c.crew.src q 0 →
      size = (match c.launch.heats[w.toNat % 16]? with
        | some h => heatSize h.op
        | none => 4) →
      (size = 8 → vsOk .pair b = false → exec i s = .next (s.takeTrap { cause := 1 }).ran) ∧
      (c.reads b (if size = 8 then 2 else 1) = .ok () →
        ((∀ h, good h → h.failed = true) → exec i s = .next (s.takeTrap { cause := 6 }).ran) ∧
        (∀ h t pre post, good h → h.failed = false → c.threads = pre ++ t :: post →
          (∀ j ∈ pre, h.ext ≤ (c.crew.src64 a j).toNat ∧ (c.crew.src64 a j).toNat + size ≤ h.ext + h.len ∧
            (c.crew.src64 a j).toNat % size = 0) →
          ¬ (h.ext ≤ (c.crew.src64 a t).toNat ∧ (c.crew.src64 a t).toNat + size ≤ h.ext + h.len ∧
            (c.crew.src64 a t).toNat % size = 0) →
          exec i s = .next (s.takeTrap { cause := 6, info := c.crew.src64 a t, thread := some t }).ran)))) ∧
  (∀ (s : State) (c : Ctx) (d a : BitVec 7) (t : Nat) (r : List Nat) (ea eb : DWord), Issues (formOf (.flip d a)) s c →
    c.threads = t :: r → ea = c.crew.src64 a t → eb = (if c.launch.prot then c.crew.src64 a (t + 16) else ea) →
    (ea = eb → (2 ^ 56 ≤ ea.toNat ∨ inWindow ea.toNat = true ∨
        ∃ x, s.tlbFind c.team.core c.launch.id ea.toNat = some x ∧ (Need.both.ok x.leaf = false ∨ leafDV x.leaf = false ∨
          c.launch.dvs[leafRange x.leaf]? = none)) →
      exec (.flip d a) s = .next (s.takeTrap { cause := 6, info := ea, thread := some t }).ran) ∧
    (c.launch.prot = false → ea.toNat < 2 ^ 56 → inWindow ea.toNat = false →
      s.tlbFind c.team.core c.launch.id ea.toNat = none →
      exec (.flip d a) s = .next (s.startWalk ea.toNat .flip (some t)).ran) ∧
    (∀ x p q, s.tlbFind c.team.core c.launch.id ea.toNat = some x → inWindow ea.toNat = false → leafDV x.leaf = true →
      (c.launch.dvs[leafRange x.leaf]?).isSome = true → Reaches s c Need.both ea p → Reaches s c Need.both eb q → ea ≠ eb →
      exec (.flip d a) s = .next (s.takeTrap {
        cause := 9
        info := if p.target = q.target then 3#64 else 2#64
        thread := some t }).ran)) ∧
  (∀ (s : State) (o : MOp) (r inv : Nat) (q : LReq) (d : RegDest) (cr : Crew), s.opOf o.id = some o → o.kind = .flip r inv →
    o.reqs[0]? = some q → o.vdest = some d → s.crewOf o.crew = some cr → cr.vbad = [] →
    ((∃ i ∈ s.fl.invs, i.id = inv) → exec (.storePerformed o.id 0) s = .refused .notEnabled) ∧
    ((∀ i ∈ s.fl.invs, i.id ≠ inv) → ∃ t, exec (.storePerformed o.id 0) s = .next t ∧ t.mem = s.mem ∧ t.opOf o.id = none ∧
      t.crewOf o.crew = some ((cr.putVn d.field 2 ((s.bothSlots o (threadsOf o.mask)).map
        (fun k => (k, BitVec.ofNat 128 (3 * 2 ^ 61 + o.scope.toNat * 2 ^ 58))))).unmark o.id))) ∧
  (∀ (s : State) (c : Ctx) (d a : BitVec 7) (t : Nat) (r : List Nat) (x : TlbEntry) (g : DvRange),
      Issues (formOf (.flip d a)) s c → c.threads = t :: r → (c.crew.src64 a t).toNat < 2 ^ 56 →
      inWindow (c.crew.src64 a t).toNat = false → (c.launch.prot = true → c.crew.src64 a t = c.crew.src64 a (t + 16)) →
      s.tlbFind c.team.core c.launch.id (c.crew.src64 a t).toNat = some x → Need.both.ok x.leaf = true → leafDV x.leaf = true →
      c.launch.dvs[leafRange x.leaf]? = some g →
      ((∃ o ∈ s.fl.ops, ∃ inv, o.crew.team.launch = c.launch.id ∧ o.kind = .flip (leafRange x.leaf) inv ∧ o.performed = false) →
        exec (.flip d a) s = .next s.waitGroup) ∧
      ((∀ o ∈ s.fl.ops, ∀ inv, o.crew.team.launch = c.launch.id → o.kind = .flip (leafRange x.leaf) inv → o.performed = true) →
        ∃ u, exec (.flip d a) s = .next u ∧ u.mem = s.mem ∧ u.teams = s.teams ∧
          u.launches = s.launches.map (fun l => if l.id = c.launch.id then
            { l with dvs := l.dvs.modify (leafRange x.leaf) (fun g => { g with sel := !g.sel }) } else l) ∧
          (∃ ops lines, u.fl.invs = s.fl.invs ++ [⟨s.serial, false, c.launch.id, g.base, g.len, ops, lines⟩]) ∧
          (∃ cr, u.crews[c.n]? = some cr ∧ (∀ q ∈ fieldRegs d 2, cr.pending q = true) ∧ cr.vregs = c.crew.vregs)))

/-- R60, R117, R118, R125, R126, R243 to R245, R247, R248, R258: path fences, prefetch, discards, witness merges and waits,
RESV.  PFENCE.C waits for the crew's stores, atomics and memory-side commands, VERS among them; WALL for the lines that an
active thread has written and that are not performed; its witness is the broad one of its scope.  The merge of two witnesses
is given in numbers: of two of one line the later version (R48), and else the broad witness of the wider scope.  PREF and
DISC.LINE read translations that no TLB holds at their homes and change no byte; a walk that meets a poisoned entry gives no
line (log entry 129, DEDUCED).  That WMERGE's invalid-witness trap reports 0 is log entry 99, DESIGN CHOICE. -/
def Obligations.FencesAndWitnesses : Prop :=
  ∀ (s : State) (c : Ctx) (d a b : BitVec 7),
    (Issues (formOf (.pfenceS d)) s c →
      (s.storesOut c.crew.key = true → exec (.pfenceS d) s = .next s.waitGroup) ∧
      (s.storesOut c.crew.key = false →
        exec (.pfenceS d) s = .next (c.done s (c.vec64 d (fun _ => 0x6000000000000000#64))))) ∧
    (Issues (formOf .pfenceC) s c →
      ((∃ o ∈ s.fl.ops, o.crew = c.crew.key ∧ (o.kind.writes = true ∨ o.kind = .vers) ∧ o.unperformed = true) →
        exec .pfenceC s = .next s.waitGroup) ∧
      ((∀ o ∈ s.fl.ops, o.crew = c.crew.key → (o.kind.writes = true ∨ o.kind = .vers) → o.unperformed = false) → ∃ t, exec .pfenceC s = .next t ∧ t.mem = s.mem ∧
        t.crews = (c.done s c.crew).crews ∧ t.fl.l1 = s.fl.l1 ∧
        t.fl.konst = s.fl.konst.filter (fun x => decide (x.core ≠ c.team.core)))) ∧
    (∀ held : Prop, (held ↔ ∀ k ∈ c.slots, 2 ^ 56 ≤ (c.crew.src64 a k).toNat ∨ inWindow (c.crew.src64 a k).toNat = true ∨
        (s.tlbFind c.team.core c.launch.id (c.crew.src64 a k).toNat).isSome = true) →
      (∀ l : BitVec 1, Issues (formOf (.pref a l)) s c → ∃ t, exec (.pref a l) s = .next t ∧ t.mem.bytes = s.mem.bytes ∧
        (held → t.mem = s.mem) ∧ t.crews = (c.done s c.crew).crews ∧ t.fl.l1 = s.fl.l1 ∧
        (t.fl.ops = s.fl.ops ∨ ∃ o, t.fl.ops = s.fl.ops ++ [o] ∧ o.kind = .pref (decide (l = 0#1)) ∧ o.accs = [] ∧
          ∀ r ∈ o.reqs, ∃ ln, r.target = .home ln ∧ 128 * ln < Config.mainBytes ∧
            ∃ k ∈ c.slots, s.fate c.team.core c.launch (c.crew.src64 a k) Need.load = .to (.home ln))) ∧
      (Issues (formOf (.discLine a)) s c → ∃ t, exec (.discLine a) s = .next t ∧ t.mem.bytes = s.mem.bytes ∧
        (held → t.mem = s.mem) ∧ t.crews = (c.done s c.crew).crews ∧
        (∀ x ∈ s.fl.l1, x.core ≠ c.team.core → x ∈ t.fl.l1) ∧
        (held ∨ MemoryClean s → t.fl.l1 = s.fl.l1.filter (fun x => !(decide (x.core = c.team.core) && c.slots.any (fun k =>
          decide (s.fate c.team.core c.launch (c.crew.src64 a k) {} = .to (.home x.line)))))))) ∧
    (Issues (formOf .discL1) s c → ∃ t, exec .discL1 s = .next t ∧ t.mem = s.mem ∧ t.crews = (c.done s c.crew).crews ∧
      t.fl.konst = s.fl.konst ∧ t.fl.l1 = s.fl.l1.filter (fun x => decide (x.core ≠ c.team.core))) ∧
    (Issues (formOf .discK) s c → ∃ t, exec .discK s = .next t ∧ t.mem = s.mem ∧ t.crews = (c.done s c.crew).crews ∧
      t.fl.l1 = s.fl.l1 ∧ t.fl.konst = s.fl.konst.filter (fun x => decide (x.core ≠ c.team.core))) ∧
    (Issues (formOf (.wmerge d a b)) s c →
      ((∀ k ∈ c.slots, witOk (c.crew.src64 a k) = true ∧ witOk (c.crew.src64 b k) = true) →
        exec (.wmerge d a b) s = .next (c.done s (c.vec64 d (fun k => witMerge (c.crew.src64 a k) (c.crew.src64 b k))))) ∧
      (∀ (k : Nat) (pre post : List Nat) (ok : Nat → Bool), c.threads = pre ++ k :: post →
        (∀ j, ok j = (witOk (c.crew.src64 a j) && witOk (c.crew.src64 b j))) →
        (∀ j ∈ pre, ok j = true ∧ (c.launch.prot = true → ok (j + 16) = true)) →
        (ok k = false ∨ (c.launch.prot = true ∧ ok (k + 16) = false)) →
        exec (.wmerge d a b) s = .next (s.takeTrap { cause := 4, thread := some k }).ran)) ∧
    (∀ (x y : DWord) (form scope : DWord → Nat) (wide : Nat → DWord) (ahead : Nat), (∀ w, form w = w.toNat / 2 ^ 61) →
      (∀ w, scope w = if form w = 1 then 2 else if form w = 2 then 3 else w.toNat / 2 ^ 58 % 8) →
      (∀ n, wide n = BitVec.ofNat 64 (3 * 2 ^ 61 + n * 2 ^ 58)) → ahead = (x.toNat % 4096 + 4096 - y.toNat % 4096) % 4096 →
      (witOk x = true ↔ x = 0#64 ∨ form x = 1 ∨ form x = 2 ∨ ∃ n ≤ 4, x = wide n) ∧
      (witOk x = true → witOk y = true → witMerge x y = if x = 0#64 then y else if y = 0#64 then x
        else if (form x = 1 ∨ form x = 2) ∧ x.toNat / 4096 = y.toNat / 4096 then
          (if ahead ≤ 2047 then x else if ahead = 2048 then wide (scope x) else y)
        else wide (max (scope x) (scope y)))) ∧
    (∀ out : Prop, (out ↔ ∃ o ∈ s.fl.ops, o.crew = c.crew.key ∧ o.kind.writes = true ∧
        ((o.accs = [] ∧ o.mask &&& c.act ≠ 0#32 ∧ o.unperformed = true) ∨ ∃ a ∈ o.accs, c.act.getLsbD a.slot = true ∧
          a.fin = false ∧ ∃ r, o.reqs[a.req]? = some r ∧ r.performed = false)) → Issues (formOf (.wall d)) s c →
      (out → exec (.wall d) s = .next s.waitGroup) ∧
      (¬ out → exec (.wall d) s = .next (c.done s (c.vec64 d (fun _ =>
        BitVec.ofNat 64 (3 * 2 ^ 61 + (match c.grp.hints.sc with
          | some x => x.toNat
          | none => 2) * 2 ^ 58)))))) ∧
    (Issues (formOf (.resv d b)) s c → exec (.resv d b) s = .next (c.done s (c.vec d (fun _ =>
      if b = 0#7 then c.crew.resvBase else if b = 1#7 then c.crew.resvCount else c.crew.running))))

/-- R160, R161, R166: AMAX.PUSH leaves with the largest absolute value of its active threads and the flag that a NaN among them
raises, AMAX_RING_PUSH performs it, raises the flag and gives the device witness.  A ring of 16 entries gives up its smallest
step to a greater one, and drops any other push.  AMAX.SCALE reads the ring's scale: the smallest power of two that brings
the largest finite value of the destination format up to the ring's largest value.  A control word with a zero bit set or a
code not allowed is an invalid instruction, a witness of a reserved form an invalid witness (its info of 0 is log entry 99,
DESIGN CHOICE), a ring that is not the launch's an access violation, and members of a protected launch that give different
values or witnesses a silent data error of row 3 (R139). -/
def Obligations.AbsmaxRings : Prop :=
  (∀ (s : State) (c : Ctx) (d a b : BitVec 7) (ctl : Word) (t : BitVec 2) (ring n : Nat) (m : DWord) (fl : BitVec 5),
    Issues (formOf (.amaxPush d a b)) s c → ctl = c.crew.src b 0 → t = ctl.extractLsb' 8 2 → ring = ctl.toNat % 64 →
    n = (if t = 1#2 then 2 else 1) →
    (¬ (ctl.toNat < 1024 ∧ ctl.toNat % 256 < 64) → exec (.amaxPush d a b) s = .next (s.takeTrap { cause := 1 }).ran) ∧
    (ctl.toNat < 1024 → ctl.toNat % 256 < 64 → c.reads a n = .ok () →
      (c.launch.rings.getLsbD ring = false → exec (.amaxPush d a b) s = .next (s.takeTrap { cause := 6 }).ran) ∧
      (c.launch.rings.getLsbD ring = true → c.readsGood a n = .ok () →
        (c.act = 0#32 → exec (.amaxPush d a b) s = .next (c.done s c.crew)) ∧
        (∀ top : List Nat → DWord, (∀ l, (∀ k ∈ l, (c.crew.num t a k).isNan = false → (absBits (c.crew.num t a k)).toNat ≤
              (top l).toNat) ∧ (top l = 0#64 ∨ ∃ k ∈ l, (c.crew.num t a k).isNan = false ∧ top l = absBits (c.crew.num t a k))) →
          c.launch.prot = true → top c.threads ≠ top (c.threads.map (· + 16)) →
          exec (.amaxPush d a b) s = .next (s.takeTrap { cause := 9, info := 3#64 }).ran) ∧
        (c.act ≠ 0#32 → MembersAgree c (c.crew.num t a) →
          (∀ k ∈ c.threads, (c.crew.num t a k).isNan = false → (absBits (c.crew.num t a k)).toNat ≤ m.toNat) →
          (m = 0#64 ∨ ∃ k ∈ c.threads, (c.crew.num t a k).isNan = false ∧ m = absBits (c.crew.num t a k)) →
          fl = (if ∃ k ∈ c.threads, (c.crew.num t a k).isNan = true then flInvalid else 0#5) →
          ∃ u, exec (.amaxPush d a b) s = .next u ∧
            Sent s u c c.crew (.amaxPush ring (c.crew.srcK b 1 0) m fl) (some ⟨d, 2⟩) none c.act [] (fun _ => .home 0)
              (fieldRegs d 2))))) ∧
  (∀ (s : State) (o : MOp) (ring : Nat) (step : Word) (m : DWord) (fl : BitVec 5) (d : RegDest) (cr : Crew),
    s.opOf o.id = some o → o.kind = .amaxPush ring step m fl → o.vdest = some d → s.crewOf o.crew = some cr → cr.vbad = [] →
    ∃ t, exec (.amaxRingPush o.id) s = .next t ∧ t.mem = s.mem ∧ t.teams = s.teams ∧ t.launches = s.launches ∧
      t.dev = { s.dev with rings := Cells.set [] s.dev.rings ring (ringPush (Cells.get [] s.dev.rings ring) step m) } ∧
      t.opOf o.id = none ∧ (∀ p ∈ s.fl.ops, p.id ≠ o.id → p ∈ t.fl.ops) ∧
      t.crewOf o.crew = some (((cr.orFlags fl).putVn d.field 2 ((s.bothSlots o (threadsOf o.mask)).map
        (fun k => (k, 0x6800000000000000#128)))).unmark o.id) ∧
      (∀ k, k ≠ o.crew → t.crewOf k = s.crewOf k)) ∧
  (∀ (es : List (Word × DWord)) (k : Word) (v : DWord),
    ((∃ e ∈ es, e.1 = k) → ringPush es k v = es.map (fun e => if e.1 = k then (k, maxU e.2 v) else e)) ∧
    ((∀ e ∈ es, e.1 ≠ k) → es.length < 16 → ringPush es k v = es ++ [(k, v)]) ∧
    (∀ low, (∀ e ∈ es, e.1 ≠ k) → 16 ≤ es.length → (∃ e ∈ es, e.1 = low) → (∀ e ∈ es, low.toNat ≤ e.1.toNat) →
      ringPush es k v = if low.toNat < k.toNat then es.map (fun e => if e.1 = low then (k, v) else e) else es)) ∧
  (∀ (s : State) (c : Ctx) (d a b : BitVec 7) (ctl : Word) (r : Nat × BitVec 5), Issues (formOf (.amaxScale d a b)) s c →
    ctl = c.crew.src a 0 →
    (¬ (ctl.toNat < 4096 ∧ ctl.toNat % 256 < 64 ∧ 2 ≤ ctl.toNat / 256 ∧ ctl.toNat / 256 ≤ 9) →
      exec (.amaxScale d a b) s = .next (s.takeTrap { cause := 1 }).ran) ∧
    (ctl.toNat < 4096 → ctl.toNat % 256 < 64 → 2 ≤ ctl.toNat / 256 → ctl.toNat / 256 ≤ 9 →
      (∀ (pre post : List Nat) (t : Nat), c.threads = pre ++ t :: post → (∀ j ∈ pre, witOk (c.crew.src64 b j) = true) →
        witOk (c.crew.src64 b t) = false →
        exec (.amaxScale d a b) s = .next (s.takeTrap { cause := 4, thread := some t }).ran) ∧
      ((∀ t ∈ c.threads, witOk (c.crew.src64 b t) = true) →
        (c.launch.rings.getLsbD (ctl.toNat % 64) = false →
          exec (.amaxScale d a b) s = .next (s.takeTrap { cause := 6 }).ran) ∧
        (c.launch.rings.getLsbD (ctl.toNat % 64) = true → c.launch.prot = true → ∀ (pre post : List Nat) (t : Nat),
          c.threads = pre ++ t :: post → (∀ j ∈ pre, c.crew.src64 b j = c.crew.src64 b (j + 16)) →
          c.crew.src64 b t ≠ c.crew.src64 b (t + 16) →
          exec (.amaxScale d a b) s = .next (s.takeTrap { cause := 9, info := 3#64, thread := some t }).ran) ∧
        (c.launch.rings.getLsbD (ctl.toNat % 64) = true → MembersAgree c (c.crew.src64 b) →
          r = ringScale (fp64.read ((Cells.get [] s.dev.rings (ctl.toNat % 64)).foldl (fun m e => maxU m e.2) 0#64).toNat)
            (ctl.toNat / 256) →
          exec (.amaxScale d a b) s = .next (c.done s ((c.vec d (fun _ => BitVec.ofNat 32 r.1)).orFlags
            (if c.act = 0#32 then 0#5 else r.2))))))) ∧
  (∀ (code fm : Nat) (fe : Int), (code, fm, fe) ∈ ([(2, 2047, 5), (3, 255, 120), (4, 14, 5), (5, 7, 13), (6, 7, 2),
      (7, 15, -1), (8, 3, 1), (9, 5, -1)] : List (Nat × Nat × Int)) →
    (∀ neg e, ringScale (.fin neg 0 e) code = (127, 0#5)) ∧ (∀ neg, ringScale (.inf neg) code = (254, flOverflow)) ∧
    ∀ (neg : Bool) (n : Nat) (x e z : Int), n ≠ 0 → z ≤ x → z ≤ fe + e → z ≤ fe + e - 1 →
      n * 2 ^ (x - z).toNat ≤ fm * 2 ^ (fe + e - z).toNat → fm * 2 ^ (fe + e - 1 - z).toNat < n * 2 ^ (x - z).toNat →
      ringScale (.fin neg n x) code =
        if 127 < e then (254, flOverflow) else if e < -127 then (0, 0#5) else ((e + 127).toNat, 0#5))

/-! ### Homes, answers, translation -/

/-- R46, R49, R58, R112, R236 to R238, R254, R266, R267: what a home does with the line request of an operation, for a line
whose version is not lost.  A load, VERS, XPROG or ACCLOAD takes the line and changes no byte; a store lands byte by byte, the
later of two on one byte, and its version is the next; a command that computes writes what it computes from the line at that
moment (`AtomicResults` says what that is); a conditional versioned write lands, is held, is rejected by a home that holds 64, or
fails; and whenever a line is written, its held CWRs are examined in order of arrival.  ACCSAVE writes its cells and statuses;
ACCDRAIN reads its weights and writes w + s * x, rounded once.  When all lines are done, ACCLOAD writes its cells, and ACCDRAIN
and ACCSAVE give their flags and then the device witness.  That a load or VERS reads every granule of its line is the model's
reading (log entry 11, DEDUCED), as is the hold of an entry whose CWR is rejected (log entry 16, DEDUCED). -/
def Obligations.HomeCommands : Prop :=
  (∀ (s : State) (o : MOp) (i ln : Nat) (r : LReq) (l : Launch), s.opOf o.id = some o → o.reqs[i]? = some r →
    r.target = .home ln → r.st = .sent → s.blocked o i r = false → s.launchOf o.crew.team.launch = some l →
    (s.lineMeta ln).lost = false → s.sound = true →
    ((o.kind = .vers ∨ ∃ n sgn, o.kind = .load n sgn) → ∃ t q, exec (.homeCommand o.id i) s = .next t ∧
      t.mem.bytes = s.mem.bytes ∧ t.reqAt (o, i) = some q ∧ q.st = .performed ∧
      q.data = s.lineAt ln ∧ q.ver = (s.lineMeta ln).ver ∧
      q.poison = (s.lineMeta ln).poison ||| (s.lineMeta ln).bad ∧ (t.lineMeta ln).ver = (s.lineMeta ln).ver) ∧
    (((∃ n, o.kind = .xprog n) ∨ (∃ n g base, o.kind = .accload n g base) ∨
        (i % 2 = 0 ∧ (s.lineMeta ln).poison = 0#4 ∧ (s.lineMeta ln).bad = 0#4 ∧ (s.teamOf o.crew.team).isSome = true ∧
          ∃ n g base stride scale w, o.kind = .accdrain n g base stride scale w)) →
      ∃ t q, exec (.homeCommand o.id i) s = .next t ∧ t.mem.bytes = s.mem.bytes ∧ t.reqAt (o, i) = some q ∧ q.st = .performed ∧
        q.data = s.lineAt ln ∧ (t.lineMeta ln).ver = (s.lineMeta ln).ver ∧
        q.poison &&& o.readsAt i = ((s.lineMeta ln).poison ||| (s.lineMeta ln).bad) &&& o.readsAt i) ∧
    (∀ n, o.kind = .store n → s.holdsOf ln = [] → ∃ t q, exec (.homeCommand o.id i) s = .next t ∧
      (∀ a, readByte t.mem.bytes a = lastByte ((o.storeBytes i n).map (fun p => (128 * ln + p.1, p.2))) a
        (readByte s.mem.bytes a)) ∧
      (t.lineMeta ln).ver = (s.lineMeta ln).ver + 1#12 ∧ t.reqAt (o, i) = some q ∧
      q.st = .performed ∧ q.wrote = true ∧ q.ver = (s.lineMeta ln).ver + 1#12) ∧
    (∀ out, Computes o i (s.lineAt ln) (s.lineMeta ln).ver l.seed out → s.holdsOf ln = [] →
      (s.lineMeta ln).bad = 0#4 → o.foulAcc i (s.lineMeta ln).poison = none →
      ∃ t q, exec (.homeCommand o.id i) s = .next t ∧
        (∀ a, readByte t.mem.bytes a = lastByte (out.bytes.map (fun p => (128 * ln + p.1, p.2))) a
          (readByte s.mem.bytes a)) ∧
        (t.lineMeta ln).ver = (if out.bytes = [] then (s.lineMeta ln).ver else (s.lineMeta ln).ver + 1#12) ∧
        t.reqAt (o, i) = some q ∧ q.st = .performed ∧ q.ver = (t.lineMeta ln).ver ∧
        (out.bytes ≠ [] → q.flags = out.flags) ∧ (t.opOf o.id).map (·.accs) = some (o.giveOlds i out.olds).accs) ∧
    (∀ hs out, HoldsOn s ln hs →
      ((∃ n, o.kind = .store n ∧ out = o.storeBytes i n) ∨
        (o.kind = .cwr ∧ o.expects i = (s.lineMeta ln).ver ∧ out = o.storeBytes i 4) ∨
        (∃ x, Computes o i (s.lineAt ln) (s.lineMeta ln).ver l.seed x ∧ (s.lineMeta ln).bad = 0#4 ∧
          o.foulAcc i (s.lineMeta ln).poison = none ∧ x.bytes ≠ [] ∧ out = x.bytes)) →
      ∃ t, exec (.homeCommand o.id i) s = .next t ∧ WroteLine s t ln (s.lineMeta ln).ver out hs) ∧
    (∀ n g base tm, o.kind = .accsave n g base → s.teamOf o.crew.team = some tm → tm.accBad = [] → s.holdsOf ln = [] →
      ∃ t q, exec (.homeCommand o.id i) s = .next t ∧ t.reqAt (o, i) = some q ∧ q.st = .performed ∧ q.wrote = true ∧
        (t.lineMeta ln).ver = (s.lineMeta ln).ver + 1#12 ∧
        ∀ a k e first, k = 128 * i + a % 128 → e = 4 * regSlots g → first = (4 * regTotal g + 127) / 128 * 128 →
          readByte t.mem.bytes a =
            if a / 128 = ln ∧ k < 4 * regTotal g then BitVec.ofNat 8 (tm.cell g (k / e) / 256 ^ (k % e))
            else if a / 128 = ln ∧ first ≤ k ∧ k < first + regRows g * regCols g then tm.cellSt g (k - first)
            else readByte s.mem.bytes a) ∧
    (∀ n g base stride scale w tm src q0 e f els (V : Nat × Nat → Nat × BitVec 5), o.kind = .accdrain n g base stride scale w → i % 2 = 1 →
      s.teamOf o.crew.team = some tm → tm.accBad = [] → s.holdsOf ln = [] → o.reqs[i - 1]? = some q0 → q0.performed = true →
      (q0.target = r.target → src = s.lineAt ln ∧ (s.lineMeta ln).poison = 0#4 ∧ (s.lineMeta ln).bad = 0#4) →
      (q0.target ≠ r.target → src = q0.data) → f = fmtOf w → e = f.width / 8 → base.toNat % e = 0 → stride.toNat % e = 0 →
      els = (List.range (regRows g)).flatMap (fun p => (List.range (regCols g)).filterMap (fun j =>
        if ((base + stride.signExtend 64 * BitVec.ofNat 64 p).toNat + j * e) / 128 = r.vline then
          some (((base + stride.signExtend 64 * BitVec.ofNat 64 p).toNat + j * e) % 128, p * regCols g + j) else none)) →
      (∀ (p : Nat × Nat) (wt x sc : Machine.Num) (mixed : Word), p ∈ els → wt = f.read (lineNum src p.1 e) →
        x = (if g.getLsbD 31 then fp64 else fp32).read (tm.cell g p.2) → sc = fp32.read scale.toNat →
        mixed = mixLow l.seed (BitVec.ofNat 64 (r.vline % 2 ^ 49 * 128 + p.1 / e))
          (BitVec.ofNat 64 (3 * 2 ^ 62 + (s.lineMeta ln).ver.toNat)) →
        (zeroTimesInf sc x = true ∨ wt.isNan = true ∨ x.isNan = true ∨ sc.isNan = true →
          V p = (f.nan, if zeroTimesInf sc x = true ∨ wt.isSig = true ∨ x.isSig = true ∨ sc.isSig = true then flInvalid else 0#5)) ∧
        (zeroTimesInf sc x = false → wt.isNan = false → x.isNan = false → sc.isNan = false →
          ∃ z, UnitsFor z [wt, product sc x] ∧ V p = sumRounded f o.rm [wt, product sc x] z mixed)) →
      ∃ t q, exec (.homeCommand o.id i) s = .next t ∧ t.reqAt (o, i) = some q ∧ q.st = .performed ∧ q.wrote = true ∧
        q.flags = orAll (els.map (fun p => (V p).2)) ∧ (t.lineMeta ln).ver = (s.lineMeta ln).ver + 1#12 ∧
        ∀ a, readByte t.mem.bytes a = lastByte ((els.flatMap (fun p => numBytes p.1 e (V p).1)).map
          (fun p => (128 * ln + p.1, p.2))) a (readByte s.mem.bytes a)) ∧
    (o.kind = .cwr →
      (o.expects i = (s.lineMeta ln).ver → s.holdsOf ln = [] →
        ∃ t q, exec (.homeCommand o.id i) s = .next t ∧
          (∀ a, readByte t.mem.bytes a = lastByte ((o.storeBytes i 4).map (fun p => (128 * ln + p.1, p.2))) a
            (readByte s.mem.bytes a)) ∧
          (t.lineMeta ln).ver = (s.lineMeta ln).ver + 1#12 ∧ t.reqAt (o, i) = some q ∧
          q.st = .performed ∧ q.wrote = true ∧ q.ver = (s.lineMeta ln).ver + 1#12) ∧
      (1 ≤ (o.expects i - (s.lineMeta ln).ver).toNat → (o.expects i - (s.lineMeta ln).ver).toNat ≤ 2047 →
        s.heldAt (homeOf ln) < 64 → exec (.homeCommand o.id i) s = .next { s.setReq o.id i (fun q => { q with
          st := .held
          aged := some s.serial }) with serial := s.serial + 1 }) ∧
      (1 ≤ (o.expects i - (s.lineMeta ln).ver).toNat → (o.expects i - (s.lineMeta ln).ver).toNat ≤ 2047 →
        64 ≤ s.heldAt (homeOf ln) → exec (.homeCommand o.id i) s = .next { (s.setReq o.id i (fun q => { q with
          st := .rejected
          tries := q.tries + 1
          aged := if q.aged = none ∧ 64 ≤ q.tries + 1 then some s.serial else q.aged })).mapCrew o.crew
            (fun x => x.holdRetry o) with serial := s.serial + 1 }) ∧
      (2047 < (o.expects i - (s.lineMeta ln).ver).toNat → ∃ t q, exec (.homeCommand o.id i) s = .next t ∧
        t.mem.bytes = s.mem.bytes ∧ t.mem.lines = s.mem.lines ∧ t.crews = s.crews ∧ t.reqAt (o, i) = some q ∧
        q.st = .performed ∧ q.wrote = false ∧ q.ver = (s.lineMeta ln).ver))) ∧
  (∀ (s : State) (o : MOp) (cr : Crew) (tm : Team) (g : Word) (fl : BitVec 5), s.opOf o.id = some o →
    s.crewOf o.crew = some cr → s.teamOf o.crew.team = some tm → o.performed = true →
    fl = orAll (o.reqs.map (·.flags)) →
    (∀ i r d, ((∃ n base, o.kind = .accsave n g base) ∨ ∃ n base stride scale w, o.kind = .accdrain n g base stride scale w) →
      o.reqs[i]? = some r → o.udest = some d → ∃ t, exec (.storePerformed o.id i) s = .next t ∧ t.mem = s.mem ∧
        t.teams = s.teams ∧ t.opOf o.id = none ∧
        t.crewOf o.crew = some (((cr.orFlags fl).putU64 d.field.toNat 0x6800000000000000#64).unmark o.id)) ∧
    (∀ n base (byte : Nat → Byte), o.kind = .accload n g base →
      (∀ i k r, o.reqs[i]? = some r → k < 128 → byte (128 * i + k) = lineByte r.data k) →
      (∀ x, o.reqs.length * 128 ≤ x → byte x = 0#8) →
      ((∀ i r, o.reqs[i]? = some r → r.poison &&& o.readsAt i = 0#4) → Cells.wf 0#32 tm.acc = true →
        Cells.wf 0#8 tm.accSt = true → ∃ t u, exec (.loadResponse o.id) s = .next t ∧ t.mem = s.mem ∧ t.opOf o.id = none ∧
          t.teamOf o.crew.team = some u ∧
          (∀ k e, k < regRows g * regCols g → e = 4 * regSlots g →
            (∀ j < e, BitVec.ofNat 8 (u.cell g k / 256 ^ j) = byte (k * e + j)) ∧
            u.cellSt g k = byte ((4 * regTotal g + 127) / 128 * 128 + k) &&& 0x1F#8) ∧
          ∀ x, x < regBase g ∨ regBase g + regTotal g ≤ x → u.slot x = tm.slot x ∧ u.slotSt x = tm.slotSt x) ∧
      ((∃ i r, o.reqs[i]? = some r ∧ r.poison &&& o.readsAt i ≠ 0#4) → ∃ t, exec (.loadResponse o.id) s = .next t ∧
        t.mem = s.mem ∧ t.teams = s.teams ∧ t.opOf o.id = none ∧
        ∀ y ∈ t.gangs, y.launch = o.crew.team.launch → y.num = o.crew.team.gang → y.kill.isSome = true)))

/-- R24, R254 to R256, R266: what the threads of one command leave and return, one after another, in exact arithmetic.  Each
finds at its place what the threads before it have left, `old`; A is what those have done.  FloatArithmetic says what fpAdd
gives.  MSADD rounds one exact sum, under SR with the word that R158 mixes from the line's version before the command, and stays
at the largest finite value; that a signalling NaN alone makes it raise invalid is the model's reading (log entry 68, DEDUCED). -/
def Obligations.AtomicResults : Prop :=
  (∀ (l : Line) (op off b c n old : Nat) (new : Option Nat) (steps : List (Nat × Nat × Nat)) (A : CmdOut), op ≤ 12 →
    n = (if op ∈ [1, 10, 12] then 8 else 4) → A = atomicSteps l op steps → A.Finds l off n old → b < 256 ^ n → c < 256 ^ n →
    new = (match op with
      | 0 => some ((old + b) % 2 ^ 32)
      | 1 => some ((old + b) % 2 ^ 64)
      | 2 => some (if (BitVec.ofNat 32 old).toInt ≤ (BitVec.ofNat 32 b).toInt then old else b)
      | 3 => some (min old b)
      | 4 => some (if (BitVec.ofNat 32 old).toInt ≤ (BitVec.ofNat 32 b).toInt then b else old)
      | 5 => some (max old b)
      | 6 => some (old &&& b)
      | 7 => some (old ||| b)
      | 8 => some (old ^^^ b)
      | 9 => some b
      | 10 => some b
      | _ => if old = c then some b else none) →
    atomicSteps l op (steps ++ [(off, b, c)]) = ⟨A.bytes ++ (match new with
      | some v => numBytes off n v
      | none => []), A.olds ++ [old], 0#5⟩) ∧
  (∀ (l : Line) (dbl : Bool) (rm : BitVec 3) (off b n old : Nat) (f : Fmt) (r : Nat × BitVec 5) (steps : List (Nat × Nat))
      (A : CmdOut), n = (if dbl then 8 else 4) → f = (if dbl then fp64 else fp32) → A = fpSteps l dbl rm steps →
    A.Finds l off n old → r = fpAdd f rm (f.read old) (f.read b) →
    fpSteps l dbl rm (steps ++ [(off, b)]) = ⟨A.bytes ++ numBytes off n r.1, A.olds ++ [old], A.flags ||| r.2⟩) ∧
  (∀ (l : Line) (half : Bool) (rm : BitVec 3) (seed : DWord) (ver : BitVec 12) (vl off b old : Nat) (f : Fmt) (x y : Machine.Num)
      (mixed : Word) (z : Int) (r : Nat × BitVec 5) (top : Nat) (steps : List (Nat × Nat × Nat)) (A : CmdOut),
    f = (if half then fp16 else bf16) → A = msaddSteps l half rm seed ver steps → A.Finds l off 2 old → off < 128 →
    x = f.read old → y = f.read b → UnitsFor z [x, y] →
    mixed = mixLow seed (BitVec.ofNat 64 (vl % 2 ^ 49 * 128 + off / 2)) (BitVec.ofNat 64 (2 ^ 63 + ver.toNat)) →
    r = sumRounded f rm [x, y] z mixed →
    top = (if half then 0x7BFF else 0x7F7F) + (if x.units z + y.units z < 0 then 0x8000 else 0) →
    msaddSteps l half rm seed ver (steps ++ [(vl, off, b)]) = (if r.2 &&& flOverflow = 0#5 then
      ⟨A.bytes ++ numBytes off 2 r.1, A.olds ++ [old], A.flags ||| r.2⟩
      else ⟨A.bytes ++ numBytes off 2 top, A.olds ++ [old], A.flags ||| (flOverflow ||| flInexact)⟩)) ∧
  (∀ (l : Line) (op : Nat) (dbl half : Bool) (rm : BitVec 3) (seed : DWord) (ver : BitVec 12),
    atomicSteps l op [] = ⟨[], [], 0#5⟩ ∧ fpSteps l dbl rm [] = ⟨[], [], 0#5⟩ ∧
    msaddSteps l half rm seed ver [] = ⟨[], [], 0#5⟩)

/-- R60, R107, R109, R114, R123, R139, R199, R243, R246, R298: what comes back.  A load that has its lines writes them,
extended, and is over; a poisoned or refused one kills its gang and writes nothing; a scratchpad load reads its allocation,
or the access of one thread alone where a move asks for it (log entry 64, DESIGN CHOICE); a store's line gives each of its
threads the witness of the line and a scratchpad store lands; a rejected request leaves where an entry that is not reserved is
free, or, aged, in the order in which requests were marked, a reserved one, and is rejected again otherwise (the counts are
the model's reading: log entry 91); an answer of another device is taken, and a refusal kills the gang as it arrives. -/
def Obligations.Responses : Prop :=
  ∀ (s : State) (o : MOp) (cr : Crew), s.opOf o.id = some o → s.crewOf o.crew = some cr → cr.vbad = [] →
    (∀ size sgn, o.kind = .load size sgn → o.performed = true →
      ((∀ r ∈ o.reqs, r.refused = false) → o.foulLoad = none →
        (∀ d, o.vdest = some d → o.udest = none → ∃ t, exec (.loadResponse o.id) s = .next t ∧ t.mem.bytes = s.mem.bytes ∧
          t.mem.lines = s.mem.lines ∧ t.opOf o.id = none ∧ t.crewOf o.crew = some ((cr.putVn d.field d.width
            (o.accs.map (fun a => (a.slot, o.loaded size sgn a)))).unmark o.id)) ∧
        (∀ d v rest, o.udest = some d → o.accs.map (o.loaded size sgn) = v :: rest → (∀ w ∈ rest, w = v) →
          (∀ l, s.launchOf o.crew.team.launch = some l → l.prot = true → cr.upset = false) → ∃ t, exec (.loadResponse o.id) s = .next t ∧ t.mem.bytes = s.mem.bytes ∧
            t.mem.lines = s.mem.lines ∧ t.opOf o.id = none ∧ t.crewOf o.crew = some ((if d.width = 2 then cr.putU64 d.field.toNat (v.setWidth 64)
              else cr.putU d.field.toNat (v.setWidth 32)).unmark o.id))) ∧
      ((∃ r ∈ o.reqs, r.refused = true) ∨ o.foulLoad.isSome = true → ∃ t x, exec (.loadResponse o.id) s = .next t ∧
        t.mem.bytes = s.mem.bytes ∧ t.opOf o.id = none ∧ t.crewOf o.crew = some x ∧ x.vregs = cr.vregs ∧ x.uregs = cr.uregs ∧
        x.stopped = true ∧
        ∀ g ∈ t.gangs, g.launch = o.crew.team.launch → g.num = o.crew.team.gang → g.kill.isSome = true)) ∧
    (∀ size sgn gang r k tm d, o.kind = .scLoad size sgn gang → o.reqs = [r] → r.target = .scratch k →
      s.blocked o 0 r = false → s.teamOf k = some tm → tm.scBad = [] → o.vdest = some d →
      (∀ a ∈ o.accs, a.req = 0 ∧ a.fin = false ∧ tm.foul (a.va.toNat / 32) = false) →
      ∃ t, exec (.loadResponse o.id) s = .next t ∧ t.mem = s.mem ∧ t.opOf o.id = none ∧
        t.crewOf o.crew = some ((cr.putVn d.field d.width (o.accs.map (fun a => (a.slot, loadValue size sgn
          (leNum ((List.range size).map (fun j => tm.scratchAt (a.va.toNat + j)))))))).unmark o.id)) ∧
    (∀ size sgn gang r k tm n, o.kind = .scLoad size sgn gang → o.reqs = [r] → r.target = .scratch k → r.performed = false →
      s.blocked o 0 r = false → s.teamOf k = some tm → tm.scBad = [] →
      (∀ a ∈ o.accs, a.req = 0 ∧ a.fin = false ∧ tm.foul (a.va.toNat / 32) = false) →
      (s.environment (.single o.id n)).crews = s.crews ∧ (s.environment (.single o.id n)).opOf o.id = some { o with
        accs := o.accs.map (fun a => if a.slot ∈ s.bothSlots o [n] then { a with
          out := loadValue size sgn (leNum ((List.range size).map (fun j => tm.scratchAt (a.va.toNat + j))))
          fin := true } else a) }) ∧
    (∀ size i r d, o.kind = .store size → o.reqs[i]? = some r → r.st = .performed → r.refused = false →
      o.vdest = some d → ∃ t x, exec (.storePerformed o.id i) s = .next t ∧ t.mem = s.mem ∧ t.crewOf o.crew = some x ∧
        x.vregs = (cr.putVn d.field 2 ((o.accsOf i).flatMap (fun a => (s.bothSlots o [a.slot]).map
          (fun k => (k, (r.witness a).setWidth 128))))).vregs ∧ x.uregs = cr.uregs ∧
        (∀ a ln, r.target = .home ln → (r.witness a).toNat = 2 ^ 61 + a.va.toNat / 128 % 2 ^ 49 * 4096 + r.ver.toNat) ∧
        (∀ a dev ln, r.target = .remote dev ln →
          (r.witness a).toNat = 2 ^ 62 + dev % 2 ^ 11 * 2 ^ 50 + ln % 2 ^ 38 * 4096 + r.ver.toNat) ∧
        ((∀ j q, o.reqs[j]? = some q → j ≠ i → q.st = .delivered) → t.opOf o.id = none ∧ ∀ p ∈ x.pend, p.op ≠ o.id)) ∧
    (∀ size gang i r k tm, o.kind = .scStore size gang → o.reqs[i]? = some r → r.target = .scratch k →
      r.performed = false → s.blocked o i r = false → s.teamOf k = some tm → Cells.wf 0#8 tm.scratch = true →
      (∀ a ∈ o.accs, a.fin = false) → ∃ t u, exec (.storePerformed o.id i) s = .next t ∧ t.mem = s.mem ∧ t.teamOf k = some u ∧
        ∀ a, u.scratchAt a = lastByte (o.scratchBytes i size) a (tm.scratchAt a)) ∧
    (∀ i r free kept, o.reqs[i]? = some r → r.st = .rejected →
      free = ((o.kind.fetches && (s.fetching o.core).contains r.target) ||
        decide (s.entriesUsed o.core - s.reservedUsed o.core < 240)) →
      kept = (match r.aged with
        | some now => decide (s.reservedUsed o.core < 16) && !s.agedBefore o.core now
        | none => false) →
      (free = true ∨ kept = true → exec (.requestRetry o.id i) s = .next ((s.setReq o.id i (fun q => { q with
        st := .sent
        aged := none
        kept := !free })).freeRetry o.id)) ∧
      (free = false → kept = false → exec (.requestRetry o.id i) s =
        .next { s.setReq o.id i (fun q => q.reject s.serial) with serial := s.serial + 1 })) ∧
    (∀ size sgn i r d ln l, o.kind = .load size sgn → o.reqs[i]? = some r → r.target = .remote d ln →
      r.st = .sent → s.blocked o i r = false → s.launchOf o.crew.team.launch = some l →
      (∀ data old ver poison ok fl, ∃ t, exec (.remoteResponse o.id i (.line data old ver poison ok fl)) s = .next t ∧
        t.mem = s.mem ∧ t.crews = s.crews ∧ (t.opOf o.id).bind (fun x => x.reqs[i]?) = some { r with
          st := .performed
          data := data
          poison := poison
          ver := ver
          wrote := ok
          flags := fl
          point := s.serial }) ∧
      (∃ t x, exec (.remoteResponse o.id i .refused) s = .next t ∧ t.mem = s.mem ∧
        (t.opOf o.id).bind (fun x => x.reqs[i]?) = some { r with
          st := .performed
          refused := true } ∧ t.crewOf o.crew = some x ∧ x.vregs = cr.vregs ∧ x.uregs = cr.uregs ∧ x.stopped = true ∧
        ∀ g ∈ t.gangs, g.launch = o.crew.team.launch → g.num = o.crew.team.gang → g.kill.isSome = true))

/-- R45, R57, R58, R61, R64, R70 to R74, R121: fills, scrubs, speculative requests and walks change no byte of memory.  A
fill brings its line to its slice, from which, if it is full, its oldest line leaves (the choice of that line is the model's:
log entry 14); a scrub turns uncorrectable granules into poisoned ones; a walk
that one of the 64 walkers of its die has taken ends for every miss merged into it: at a leaf it fills their cores' TLBs and
frees them, at an invalid entry it parks them on the page under the lowest free ticket, with one fault; a walk that 64 older
ones of its die precede waits (that a page before its walk is a unit of 64 KiB is the model's reading: log entry 98); a
ticket that frees goes to the page that waits first.  R40: the stack of a main-memory byte and its address in the stack name
the byte. -/
def Obligations.LinesAndWalks : Prop :=
  (∀ a c : Nat, c = a / 1024 → stackOf (a / 128) = c % 12 ∧ stackLocal a = c / 12 * 1024 + a % 1024 ∧
    ∀ b, stackOf (a / 128) = stackOf (b / 128) → stackLocal a = stackLocal b → a = b) ∧
  (∀ (s : State) (ln : Nat) (o : MOp) (i : Nat), 128 * ln < Config.mainBytes → ln ∉ s.mem.resident →
    s.wanting ln = some (o, i) → (s.lineMeta ln).lost = false → s.sound = true →
    ∃ t, exec (.stackFill ln) s = .next t ∧ t.mem.bytes = s.mem.bytes ∧
      (s.sliceFull (homeOf ln) = false → t.mem.resident = s.mem.resident ++ [ln]) ∧
      (∀ pre x post, s.sliceFull (homeOf ln) = true → s.mem.resident = pre ++ x :: post → homeOf x = homeOf ln →
        (∀ y ∈ pre, homeOf y ≠ homeOf ln) → t.mem.resident = pre ++ post ++ [ln]) ∧
      (t.lineMeta ln).ver = (s.lineMeta ln).ver ∧ t.crews = s.crews) ∧
  (∀ (s : State) (ln : Nat), s.dev.power = true → 4 ≤ s.dev.step.toNat → lineExists ln = true →
    (s.lineMeta ln).lost = false → s.sound = true → ∃ t, exec (.patrolScrub ln) s = .next t ∧ t.mem.bytes = s.mem.bytes ∧ t.crews = s.crews ∧
      t.lineMeta ln = ⟨(s.lineMeta ln).ver, (s.lineMeta ln).poison ||| (s.lineMeta ln).bad, 0#4, 0#4⟩ ∧
      ((s.lineMeta ln).bad = 0#4 → t.dev.held = s.dev.held)) ∧
  (∀ (s : State) (n pa : Nat) (va : DWord) (c : Crew) (t : Team) (l : Launch) (path : SpecPath), s.crews[n]? = some c →
    s.teamOf c.key.team = some t → s.launchOf c.key.team.launch = some l → c.stopped = false → va.toNat < 2 ^ 56 →
    inWindow va.toNat = false → (path = .tlb ∨ (s.resolve t.core l va .load Need.load false none = .ok (.main pa) ∧
      s.writeAhead t.core (.home (pa / 128)) = false ∧ s.entriesUsed t.core - s.reservedUsed t.core < 240)) →
    ∃ u, exec (.speculativeRequest n va path) s = .next u ∧ u.mem.bytes = s.mem.bytes ∧ u.crews = s.crews ∧
      u.teams = s.teams ∧ u.gangs = s.gangs) ∧
  (∀ (s : State) (w : Walk) (l : Launch) (r : WalkEnd × List Nat) (pre post : List Walk) (m : Miss) (ms : List Miss),
    s.fl.walks = pre ++ w :: post → (∀ x ∈ pre, x.id ≠ w.id) → s.launchOf w.launch = some l → w.misses = m :: ms →
    (∀ x ∈ w.misses, s.waits x.who = true ∧ x.va / 65536 = w.page) →
    r = s.walk l (w.page * 65536) → (State.readEntries { s with
      fl := { s.fl with walks := s.fl.walks.filter (fun y => !decide (y.id = w.id)) } } l.id r.2).2 = none →
    (64 ≤ (pre.filter (fun x => decide (x.die = w.die))).length → exec (.tableWalk w.id) s = .refused .notEnabled) ∧
    ((pre.filter (fun x => decide (x.die = w.die))).length < 64 →
      (∀ e lv, r.1 = .leaf e lv → ∃ t, exec (.tableWalk w.id) s = .next t ∧ t.mem.bytes = s.mem.bytes ∧
        t.fl.walks = s.fl.walks.filter (fun y => !decide (y.id = w.id)) ∧
        ∀ y ∈ w.misses, t.waits y.who = false ∧ ∃ x ∈ t.fl.tlb, x.loc = y.core ∧ x.covers l.id (w.page * 65536) = true ∧
          x.leaf = e ∧ x.lg = pageLg lv) ∧
      (∀ lv n f, r.1 = .invalid lv → s.freeTicket = some n → (∀ x ∈ s.fl.faults, x.ticket ≠ 0) →
        (∀ x ∈ s.fl.faults, ¬ (x.launch = w.launch ∧ x.page = w.page)) →
        f = ⟨w.launch, w.page, n, m.access, lv, m.core, s.lcoreOf m.who⟩ →
        ∃ t, exec (.tableWalk w.id) s = .next t ∧ t.mem.bytes = s.mem.bytes ∧ t.fl.tlb = s.fl.tlb ∧
          t.fl.faults = s.fl.faults ++ [f] ∧ t.parkedOn f = true ∧ ∀ y ∈ w.misses, t.waits y.who = false))) ∧
  (∀ (s : State) (f : Fault72) (n : Nat), s.fl.faults.find? (fun x => decide (x.ticket = 0)) = some f →
    s.freeTicket = some n → ∃ t, exec .ticketAssign s = .next t ∧ t.mem = s.mem ∧ t.crews = s.crews ∧
      t.fl.faults = s.fl.faults.map (fun x => if x = f then { f with ticket := n } else x))

/-! ### Ordered atomic regions, tiles, copies -/

/-- R260 to R265: ORD.ATOM leaves one tagged update per active thread and counts itself; after its participant's close it only
counts.  ORD.CLOSE leaves its pair pending, or after the merge answers at once; an update is accepted at its home under the
next acceptance number; at a home that holds 16 the update of the highest tag (of equal tags that of the higher heat, then the
earlier to arrive) is appended to its heat's spill area, or, where that is full, fails its heat, whose updates are discarded; a
close is counted once; with the last close the heat merges.  The merge takes, element by element, the updates of the spill area
and of the buffers in ascending tag, of equal tags the last accepted; it writes each element's new value, one write to a line,
and gives every close the flags and the device witness.  The last close of a failed heat kills the gangs of its closes.  That
an update may go to a vault as well is the model's reading (log entry 104, DEDUCED).  That an ORD.ATOM issued after its participant's ORD.CLOSE has its update discarded before it leaves, and
that an ORD.CLOSE after the merge adds the heat's flags, is the model's choice (log entry 65, DEDUCED). -/
def Obligations.Heats : Prop :=
  (∀ (s : State) (c : Ctx) (c0 a b : BitVec 7) (ctl : Word) (n p size : Nat) (h : Heat) (pa : Nat → PAddr)
      (ea : Nat → DWord) (data tag : Nat → BitVec 128) (own : Crew),
    Issues (formOf (.ordAtom c0 a b)) s c → ctl = c.crew.src c0 0 → ctl.toNat < 2 ^ 24 → ctl.toNat / 16 % 16 = 0 →
    n = ctl.toNat % 16 → p = ctl.toNat / 256 → c.launch.heats[n]? = some h → p ≤ h.np → h.failed = false →
    size = heatSize h.op → c.reads b (if size = 8 then 2 else 1) = .ok () →
    c.readsGood b (if size = 8 then 2 else 1) = .ok () → (∀ k, ea k = c.crew.src64 a k) →
    (∀ t ∈ c.threads, h.ext ≤ (ea t).toNat ∧ (ea t).toNat + size ≤ h.ext + h.len) →
    (∀ k, data k = c.crew.dataOf b size k &&& BitVec.ofNat 128 (2 ^ (8 * size) - 1)) →
    (∀ k, tag k = BitVec.ofNat 128 (p * 2 ^ 37 + (Cells.get 0#32 c.crew.ordk n).toNat * 2 ^ 5 + c.ownThread k)) →
    own = { c.crew with ordk := Cells.set 0#32 c.crew.ordk n (Cells.get 0#32 c.crew.ordk n + 1#32) } →
    MembersAgree c (fun k => (ea k, data k, tag k)) → Placed s c c.threads size Need.both (fun x => !x.isRemote) ea pa →
    (c.act = 0#32 → exec (.ordAtom c0 a b) s = .next (c.done s own)) ∧
    (s.closing c.launch.id n p h = true → ∃ t, exec (.ordAtom c0 a b) s = .next t ∧ t.mem = s.mem ∧
      t.crews = (c.done s own).crews ∧ t.teams = s.teams ∧ t.launches = s.launches ∧ t.fl.ops.length = s.fl.ops.length ∧
      ∀ x ∈ t.fl.l1, x ∈ s.fl.l1 ∧ (x.core = c.team.core → ∀ k ∈ c.threads, (pa k).target ≠ .home x.line)) ∧
    (c.act ≠ 0#32 → s.closing c.launch.id n p h = false → ∃ t, exec (.ordAtom c0 a b) s = .next t ∧ OnePerLine t ∧
      Sent s t c own (.ordAtom n) (some ⟨127#7, 0⟩) none c.act (c.threads.map (fun k => (k, ea k, data k, tag k)))
        (fun k => (pa k).target) [])) ∧
  (∀ (s : State) (c : Ctx) (d a : BitVec 7) (ctl : Word) (n p : Nat) (h : Heat), Issues (formOf (.ordClose d a)) s c →
    c.act ≠ 0#32 → ctl = c.crew.src a 0 → ctl.toNat < 2 ^ 24 → ctl.toNat / 16 % 16 = 0 → n = ctl.toNat % 16 →
    p = ctl.toNat / 256 → c.launch.heats[n]? = some h → p ≤ h.np →
    (h.merged = true → exec (.ordClose d a) s = .next (c.done s ((c.crew.orFlags h.flags).putV64 d
      (c.slots.map (fun k => (k, 0x6800000000000000#64)))))) ∧
    (h.merged = false → ∃ t, exec (.ordClose d a) s = .next t ∧
      Sent s t c c.crew (.ordClose n p false) (some ⟨d, 2⟩) none c.act [] (fun _ => .home 0) (fieldRegs d 2))) ∧
  (∀ (s : State) (o : MOp) (n u ln : Nat) (a : Acc) (r : LReq) (h : Heat), s.opOf o.id = some o → o.kind = .ordAtom n →
    o.accs[u]? = some a → o.reqs[a.req]? = some r → r.target = .home ln → r.st = .sent → a.fin = false →
    s.heatOf o.crew.team.launch n = some h →
    ((h.failed = true ∨ h.merged = true ∨ h.closed.contains (a.aux.toNat / 2 ^ 37) = true) →
      ∃ t, exec (.ordUpdateAccept o.id u) s = .next t ∧ t.mem = s.mem ∧ t.crews = s.crews) ∧
    (h.failed = false → h.merged = false → h.closed.contains (a.aux.toNat / 2 ^ 37) = false →
      (s.mem.updates.filter (fun x => decide (x.home = homeOf ln))).length < 16 →
      ∃ t num, exec (.ordUpdateAccept o.id u) s = .next t ∧ t.mem.bytes = s.mem.bytes ∧ t.crews = s.crews ∧
        num = Cells.get 0#32 s.mem.accNum (accKey o.crew.team.launch n (homeOf ln)) ∧
        t.mem.updates = s.mem.updates ++ [⟨homeOf ln, o.crew.team.launch, n, 128 * ln + a.va.toNat % 128, a.aux.toNat,
          a.data.setWidth 64, num, s.serial + 1⟩])) ∧
  (∀ (s : State) (o : MOp) (n p : Nat) (h : Heat), s.opOf o.id = some o → o.kind = .ordClose n p false →
    s.heatOf o.crew.team.launch n = some h →
    (∀ x ∈ s.fl.ops, x.crew = o.crew → x.id < o.id → x.kind ≠ .ordAtom n) →
    ∃ t g, exec (.heatCloseCount o.id) s = .next t ∧ t.heatOf o.crew.team.launch n = some g ∧ p ∈ g.closed ∧
      (h.closed.contains p = true → g.closed = h.closed) ∧
      (h.closed.length + 1 ≤ h.np → h.closed.contains p = false → t.mem = s.mem ∧ t.crews = s.crews ∧
        g = { h with closed := h.closed ++ [p] })) ∧
  (∀ (s : State) (o : MOp) (n u ln : Nat) (a : Acc) (r : LReq) (h g : Heat) (x w : Upd), s.opOf o.id = some o →
    o.kind = .ordAtom n → o.accs[u]? = some a → o.reqs[a.req]? = some r → r.target = .home ln → r.st = .sent → a.fin = false →
    s.heatOf o.crew.team.launch n = some h → h.failed = false → h.merged = false →
    h.closed.contains (a.aux.toNat / 2 ^ 37) = false →
    (s.mem.updates.filter (fun x => decide (x.home = homeOf ln))).length = 16 → MemoryClean s →
    x = ⟨homeOf ln, o.crew.team.launch, n, 128 * ln + a.va.toNat % 128, a.aux.toNat, a.data.setWidth 64,
      Cells.get 0#32 s.mem.accNum (accKey o.crew.team.launch n (homeOf ln)), s.serial + 1⟩ →
    (w = x ∨ w ∈ s.mem.updates ∧ w.home = homeOf ln) →
    (∀ y, y = x ∨ y ∈ s.mem.updates ∧ y.home = homeOf ln → y ≠ w →
      y.tag < w.tag ∨ (y.tag = w.tag ∧ (y.heat < w.heat ∨ (y.heat = w.heat ∧ w.since < y.since)))) →
    s.heatOf w.launch w.heat = some g →
    (∀ at0, at0 = g.spillAt (64 + 32 * g.count) → g.count < (g.spillb - 64) / 32 → g.spill % 128 = 0 →
      (∀ pg ∈ g.spillPa, pg % 65536 = 0) → ∃ t, exec (.ordUpdateAccept o.id u) s = .next t ∧ t.crews = s.crews ∧
        t.heatOf w.launch w.heat = some { g with count := g.count + 1 } ∧
        t.mem.updates = (if w = x then s.mem.updates else s.mem.updates.filter (fun y => !decide (y = w)) ++ [x]) ∧
        ∀ b, readByte t.mem.bytes b = lastByte (numBytes at0 8 w.pa ++ numBytes (at0 + 8) 8 w.tag ++
          numBytes (at0 + 16) 8 w.value.toNat ++ numBytes (at0 + 24) 4 w.acc.toNat ++ numBytes (at0 + 28) 4 w.heat ++
          numBytes (g.spillAt 0) 8 (g.count + 1)) b (readByte s.mem.bytes b)) ∧
    ((g.spillb - 64) / 32 ≤ g.count → ∃ t, exec (.ordUpdateAccept o.id u) s = .next t ∧ t.crews = s.crews ∧
      t.mem.bytes = s.mem.bytes ∧ t.heatOf w.launch w.heat = some { g with failed := true } ∧
      t.mem.updates = s.mem.updates.filter (fun y => !(decide (y.launch = w.launch) && decide (y.heat = w.heat))) ++
        (if x.launch = w.launch ∧ x.heat = w.heat then [] else [x]))) ∧
  (∀ (s : State) (o : MOp) (n p size : Nat) (h : Heat) (us : List MUpd) (V : Nat → Nat × BitVec 5) (own : MOp → Prop),
    s.opOf o.id = some o → o.kind = .ordClose n p false → s.heatOf o.crew.team.launch n = some h →
    (∀ x ∈ s.fl.ops, x.crew = o.crew → x.id < o.id → x.kind ≠ .ordAtom n) →
    h.closed.contains p = false → h.closed.length = h.np →
    (∀ x, own x ↔ x ∈ s.fl.ops ∧ x.crew.team.launch = o.crew.team.launch ∧
      (x.id = o.id ∨ ∃ q, x.kind = .ordClose n q true)) →
    (h.failed = false → h.merged = false → MemoryClean s → size = heatSize h.op →
      us = (List.range h.count).map (fun k => ⟨s.numAt (h.spillAt (64 + 32 * k)) 8, s.numAt (h.spillAt (64 + 32 * k) + 8) 8,
          s.numAt (h.spillAt (64 + 32 * k) + 16) 8, s.numAt (h.spillAt (64 + 32 * k) + 24) 4⟩) ++
        (s.mem.updates.filter (fun u => decide (u.launch = o.crew.team.launch) && decide (u.heat = n))).map
          (fun u => ⟨u.pa, u.tag, u.value.toNat, u.acc.toNat⟩) →
      (∀ u ∈ us, u.pa % size = 0 ∧ paExists u.pa = true) →
      (∀ a, V a = heatFold h (s.numAt a size) (keptUpdates (us.filter (fun u => decide (u.pa = a))))) →
      ∃ t g, exec (.heatCloseCount o.id) s = .next t ∧ t.heatOf o.crew.team.launch n = some g ∧ g.merged = true ∧
        (∀ b < 5, g.flags.getLsbD b = true ↔ ∃ u ∈ us, (V u.pa).2.getLsbD b = true) ∧
        t.mem.updates = s.mem.updates.filter (fun u => !(decide (u.launch = o.crew.team.launch) && decide (u.heat = n))) ∧
        (∀ a, readByte t.mem.bytes a = if ∃ u ∈ us, u.pa = a / size * size then
          BitVec.ofNat 8 ((V (a / size * size)).1 / 256 ^ (a % size)) else readByte s.mem.bytes a) ∧
        (∀ ln, (t.lineMeta ln).ver = if ∃ u ∈ us, u.pa / 128 = ln then (s.lineMeta ln).ver + 1#12 else (s.lineMeta ln).ver) ∧
        (∀ x, own x → t.opOf x.id = none) ∧
        ∀ x d cr, own x → x.vdest = some d → (∀ y, own y → y.crew = x.crew → y = x) → s.crewOf x.crew = some cr →
          cr.vbad = [] → t.crewOf x.crew = some (((cr.orFlags g.flags).putVn d.field 2
            ((s.slotsOf x).map (fun k => (k, 0x6800000000000000#128)))).unmark x.id)) ∧
    (h.failed = true → ∃ t, exec (.heatCloseCount o.id) s = .next t ∧ t.mem = s.mem ∧
      (∀ k cr, s.crewOf k = some cr → ∃ y, t.crewOf k = some y ∧ y.vregs = cr.vregs ∧ y.flags = cr.flags) ∧
      ∀ x, own x → t.opOf x.id = none ∧ ∀ y ∈ t.gangs, y.launch = x.crew.team.launch → y.num = x.crew.team.gang →
        y.kill.isSome = true ∧ ((∀ z ∈ s.gangs, z.launch = y.launch → z.kill = none) → y.kill.map (·.cause) = some 6#8))) ∧
  (∀ (h : Heat) (x : Nat) (us : List MUpd) (u : MUpd) (v : Nat × BitVec 5) (f : Fmt), v = heatFold h x us →
    f = (if h.op = 0 then fp32 else if h.op = 1 then fp64 else bf16) → heatFold h x [] = (x, 0#5) ∧
    heatFold h x (us ++ [u]) = (if h.op = 3 then ((v.1 + u.value) % 2 ^ 32, v.2)
      else if h.op = 4 then ((v.1 + u.value) % 2 ^ 64, v.2)
      else ((fpAdd f h.rm (f.read v.1) (f.read u.value)).1, v.2 ||| (fpAdd f h.rm (f.read v.1) (f.read u.value)).2))) ∧
  (∀ (l : List MUpd), (keptUpdates l).Pairwise (fun x y => x.tag ≤ y.tag) ∧
    ∀ u, u ∈ keptUpdates l ↔ u ∈ l ∧ ∀ v ∈ l, v.tag = u.tag → v.acc ≤ u.acc)

/-- R84 to R86, R95: the tile instructions, and TILE_DRAINED. -/
def Obligations.TileTables : Prop :=
  (∀ (alloc : Nat) (others : List Word) (d : Word), tileBase d = 128 * (d.toNat % 2048) ∧
    tileBytes d = (d.toNat / 2 ^ 21 + 1) * (16 * (d.toNat / 2 ^ 11 % 1024 + 1)) ∧
    (tileLegal alloc others d = true ↔ d.toNat / 2 ^ 11 % 1024 ≤ 511 ∧ tileBase d + tileBytes d ≤ alloc ∧
      ∀ o ∈ others, tileBase d + tileBytes d ≤ tileBase o ∨ tileBase o + tileBytes o ≤ tileBase d)) ∧
  (∀ (s : State) (c : Ctx) (a b d : BitVec 6) (x : Option Tile), x = c.team.tile b.toNat →
    ((∃ y, x = some y ∧ y.st ≠ .empty) →
      (Issues (formOf (.tiledef a b)) s c → exec (.tiledef a b) s = .next s.waitGroup) ∧
      (Issues (formOf (.tiledefClr b)) s c → exec (.tiledefClr b) s = .next s.waitGroup)) ∧
    ((∀ y, x = some y → y.st = .empty) →
      (Issues (formOf (.tiledef a b)) s c →
        (tileLegal (4096 * c.team.spu) (c.team.otherTiles b.toNat) (c.crew.u a.toNat) = true →
          exec (.tiledef a b) s = .next (c.done (s.mapTeam c.team.key
            (fun t => t.setTile b.toNat (some ⟨c.crew.u a.toNat, .empty, 0⟩))) c.crew)) ∧
        (tileLegal (4096 * c.team.spu) (c.team.otherTiles b.toNat) (c.crew.u a.toNat) = false →
          exec (.tiledef a b) s = .next (s.takeTrap { cause := 6 }).ran)) ∧
      (Issues (formOf (.tiledefClr b)) s c →
        exec (.tiledefClr b) s = .next (c.done (s.mapTeam c.team.key (fun t => t.setTile b.toNat none)) c.crew))) ∧
    (Issues (formOf (.tilestat d b)) s c → exec (.tilestat d b) s = .next (c.done s (c.crew.putU d.toNat (match x with
      | none => 0#32
      | some y => match y.st with
        | .empty => 4#32
        | .filling => 5#32
        | .ready => 6#32
        | .draining => 7#32)))) ∧
    (Issues (formOf (.trel b)) s c →
      (x = none → exec (.trel b) s = .next (s.takeTrap { cause := 6 }).ran) ∧
      (∀ y, x = some y →
        (y.st = .filling → exec (.trel b) s = .next s.waitGroup) ∧
        (y.st = .empty ∨ y.st = .draining → exec (.trel b) s = .next (c.done s c.crew)) ∧
        (y.st = .ready → exec (.trel b) s = .next (c.done { s.mapTeam c.team.key (fun t => t.setTile b.toNat (some { y with
            st := .draining
            owner := s.serial })) with serial := s.serial + 1 } c.crew))))) ∧
  (∀ (s : State) (n k : Nat) (t : Team) (x : Tile), s.teams[n]? = some t → t.tile k = some x →
    (x.st = .draining → (∀ m ∈ s.fl.cmds, m.crew.team = t.key → m.names k = true → m.started = false → x.owner ≤ m.id) →
      exec (.tileDrained n k) s = .next (s.setTeam n (t.setTile k (some ⟨x.desc, .empty, 0⟩)))) ∧
    (x.st ≠ .draining → exec (.tileDrained n k) s = .refused .notEnabled))

/-- R81, R87, R92, R96 to R98, R101, R102: a copy whose descriptor is right, whose tiles are empty and whose core has fewer
than 32 copies in flight issues; else it waits.  A descriptor that is not right, an undefined tile, an empty transform slot,
and a mask of CPY.MC that is zero, has a bit above 7, or names a position without a team or tiles not all defined and alike
are traps.  XPROG asks for its 64 bytes, or traps where their address is misaligned or may not be read, or walks; they load its
slot, unless the program is not legal or a byte of it poisoned, which kill the gang and leave the slot as it was.  That an
invalid witness reports 0 is the model's choice (log entry 99, DESIGN CHOICE); that a program ends at its first word of kind 00
whatever its other bits is its reading (log entry 30, DEDUCED), as are that a copy takes the selection bits in force when it
issues (log entry 32, DEDUCED), the address that a misaligned XPROG reports (log entry 43, DEDUCED) and that an illegal program
is found after issue (log entry 105, DEDUCED). -/
def Obligations.CopiesIssue : Prop :=
  (∀ (s : State) (c : Ctx) (a b : BitVec 6) (x : Tile) (ws p : List Word) (i : Instr) (used : Word) (rows sr ok : Bool)
      (cp : Copy), c.team.tile b.toNat = some x → ws = Cells.get [] c.team.xprog (c.xslot a) →
    p = ws.takeWhile (fun w => w.toNat / 2 ^ 30 ≠ 0) →
    (i = .xform a b → ws ≠ [] ∧ ∀ o ∈ s.fl.ops, o.crew = c.crew.key → o.kind ≠ .xprog (c.xslot a)) →
    (i, used, rows, sr, ok, cp) ∈ ([
      (.cpy a b, 0x80000000#32, true, false, true, c.copy s a .plain false (tileRows x.desc) (tileRowBytes x.desc) 0
        (tileRowBytes x.desc) [(c.team.key, b.toNat)] none),
      (.cpyCvt a b, 0x80000FF0#32, true, decide (c.rm = 5#3), countsOk (tileRowBytes x.desc) (c.dfmt a) (c.sfmt a),
        c.copy s a (c.cvtKind a) false (tileRows x.desc) (tileRowBytes x.desc) 0 (tileRowBytes x.desc)
          [(c.team.key, b.toNat)] none),
      (.xform a b, 0x8001F000#32, false, false, decide (c.eszCode a ≤ 4) &&
          decide (progCount p * 2 ^ c.eszCode a = tileBytes x.desc) && xorsOk p (c.eszCode a) (tileBytes x.desc),
        c.copy s a (.xform (2 ^ c.eszCode a) p) false 1 (tileBytes x.desc) 0 0 [(c.team.key, b.toNat)] none)] :
          List (Instr × Word × Bool × Bool × Bool × Copy)) →
    Issues (formOf i) s c → DescFits c a used rows →
    (ok = false → exec i s = .next (s.takeTrap { cause := 6 }).ran) ∧
    (ok = true → (x.st ≠ .empty ∨ 32 ≤ (s.fl.copies.filter (fun y => decide (y.core = c.team.core))).length) →
      exec i s = .next s.waitGroup) ∧
    (ok = true → x.st = .empty → (s.fl.copies.filter (fun y => decide (y.core = c.team.core))).length < 32 →
      ∃ t u, exec i s = .next t ∧ CopyIssued s t c cp [] sr ∧ t.teamOf c.team.key = some u ∧
        u.tile b.toNat = some ⟨x.desc, .filling, s.serial⟩ ∧ ∀ n, n ≠ b.toNat → u.tile n = c.team.tile n)) ∧
  (∀ (s : State) (c : Ctx) (d a b : BitVec 6) (mva : DWord) (i : Instr) (used : Word) (rows : Bool),
    mva = c.crew.u64 a.toNat →
    (i, used, rows) ∈ ([(.cpy a b, 0x80000000#32, true), (.cpyMc d a b, 0x80000000#32, true), (.cpyCvt a b, 0x80000FF0#32, true),
      (.xform a b, 0x8001F000#32, false), (.cpyOut a, 0x80000000#32, true), (.cpyCvtOut a, 0x80000FF0#32, true),
      (.xformOut a, 0x8001F000#32, false)] : List (Instr × Word × Bool)) → Issues (formOf i) s c →
    (witOk (c.crew.u64 (a.toNat + 6)) = false → exec i s = .next (s.takeTrap { cause := 4 }).ran) ∧
    (witOk (c.crew.u64 (a.toNat + 6)) = true →
      (mva.toNat % 4 ≠ 0 → exec i s = .next (s.takeTrap { cause := 6, info := mva }).ran) ∧
      (mva.toNat % 4 = 0 → ¬ DescFits c a used rows → exec i s = .next (s.takeTrap { cause := 6 }).ran)) ∧
    (DescFits c a used rows → c.team.tile b.toNat = none → i = .cpy a b ∨ i = .cpyCvt a b ∨ i = .xform a b →
      exec i s = .next (s.takeTrap { cause := 6 }).ran) ∧
    (DescFits c a used rows → i = .xform a b ∨ i = .xformOut a → Cells.get [] c.team.xprog (c.xslot a) = [] →
      (∀ o ∈ s.fl.ops, o.crew = c.crew.key → o.kind ≠ .xprog (c.xslot a)) →
      exec i s = .next (s.takeTrap { cause := 6 }).ran)) ∧
  (∀ (s : State) (c : Ctx) (d a b : BitVec 6) (pos : List Nat), Issues (formOf (.cpyMc d a b)) s c →
    DescFits c a 0x80000000#32 true → pos = (List.range 8).filter (fun i => (c.crew.u (a.toNat + 4)).getLsbD i) →
    (256 ≤ (c.crew.u (a.toNat + 4)).toNat ∨ pos = [] ∨
      (∃ i ∈ pos, s.teamOf { c.team.key with pos := i } = none) ∨
      (∃ i ∈ pos, ∃ t, s.teamOf { c.team.key with pos := i } = some t ∧ t.tile b.toNat = none) ∨
      (∃ i ∈ pos, ∃ j ∈ pos, ∃ t u x y, s.teamOf { c.team.key with pos := i } = some t ∧
        s.teamOf { c.team.key with pos := j } = some u ∧ t.tile b.toNat = some x ∧ u.tile b.toNat = some y ∧
        (tileRows x.desc ≠ tileRows y.desc ∨ tileRowBytes x.desc ≠ tileRowBytes y.desc))) →
    exec (.cpyMc d a b) s = .next (s.takeTrap { cause := 6 }).ran) ∧
  (∀ (s : State) (c : Ctx) (d a b : BitVec 6) (pos : List Nat) (m nb : Nat), Issues (formOf (.cpyMc d a b)) s c →
    DescFits c a 0x80000000#32 true → (c.crew.u (a.toNat + 4)).toNat < 256 →
    pos = (List.range 8).filter (fun i => (c.crew.u (a.toNat + 4)).getLsbD i) → pos ≠ [] →
    (∀ i ∈ pos, ∃ t x, s.teamOf { c.team.key with pos := i } = some t ∧ t.tile b.toNat = some x ∧ x.st = .empty ∧
      tileRows x.desc = m ∧ tileRowBytes x.desc = nb) →
    (s.fl.copies.filter (fun y => decide (y.core = c.team.core))).length < 32 →
    ∃ t, exec (.cpyMc d a b) s = .next t ∧
      CopyIssued s t c (c.copy s a .plain false m nb 0 nb (pos.map (fun i => ({ c.team.key with pos := i }, b.toNat)))
        (some d)) [.u d.toNat, .u (d.toNat + 1)] false ∧
      ∀ i ∈ pos, ∃ u x, t.teamOf { c.team.key with pos := i } = some u ∧ u.tile b.toNat = some x ∧ x.st = .filling) ∧
  (∀ (s : State) (c : Ctx) (a : BitVec 6) (w4 w5 : Word) (ws p : List Word) (i : Instr) (used : Word) (rows sr ok : Bool)
      (cp : Copy), w4 = c.crew.u (a.toNat + 4) → w5 = c.crew.u (a.toNat + 5) →
    ws = Cells.get [] c.team.xprog (c.xslot a) → p = ws.takeWhile (fun w => w.toNat / 2 ^ 30 ≠ 0) →
    (i = .xformOut a → ws ≠ [] ∧ ∀ o ∈ s.fl.ops, o.crew = c.crew.key → o.kind ≠ .xprog (c.xslot a)) →
    ∀ m nb spa sstr, m = w4.toNat / 2 ^ 18 + 1 → nb = 4 * (w5.toNat / 2 ^ 16 + 1) → spa = w4.toNat % 2 ^ 18 →
      sstr = 4 * (w5.toNat % 2 ^ 16) →
    (i, used, rows, sr, ok, cp) ∈ ([
      (.cpyOut a, 0x80000000#32, true, false, decide (spa + (m - 1) * sstr + nb ≤ 4096 * c.team.spu),
        c.copy s a .plain true m nb spa sstr [] none),
      (.cpyCvtOut a, 0x80000FF0#32, true, decide (c.rm = 5#3), decide (spa + (m - 1) * sstr + nb ≤ 4096 * c.team.spu) &&
          countsOk nb (c.sfmt a) (c.dfmt a), c.copy s a (c.cvtKind a) true m nb spa sstr [] none),
      (.xformOut a, 0x8001F000#32, false, false, decide (c.eszCode a ≤ 4) &&
          decide (spa + progCount p * 2 ^ c.eszCode a ≤ 4096 * c.team.spu) &&
          xorsOk p (c.eszCode a) (progCount p * 2 ^ c.eszCode a),
        c.copy s a (.xform (2 ^ c.eszCode a) p) true 1 (progCount p * 2 ^ c.eszCode a) spa 0 [] none)] :
          List (Instr × Word × Bool × Bool × Bool × Copy)) →
    Issues (formOf i) s c → DescFits c a used rows →
    (spa % 4 ≠ 0 ∨ ok = false → exec i s = .next (s.takeTrap { cause := 6 }).ran) ∧
    (spa % 4 = 0 → ok = true → (s.fl.copies.filter (fun y => decide (y.core = c.team.core))).length < 32 →
      ∃ t, exec i s = .next t ∧ CopyIssued s t c cp [] sr ∧ t.teams = s.teams)) ∧
  (∀ (s : State) (c : Ctx) (a b : BitVec 6) (p : PAddr), Issues (formOf (.xprog a b)) s c →
    (c.crew.u64 a.toNat).toNat % 64 = 0 → Reaches s c Need.load (c.crew.u64 a.toNat) p → notHost p = true →
    ∃ t, exec (.xprog a b) s = .next t ∧ Sent s t c c.crew (.xprog b.toNat) none none c.act
      [(0, c.crew.u64 a.toNat, 0#128, 0#128)] (fun _ => p.target) []) ∧
  (∀ (s : State) (c : Ctx) (a b : BitVec 6) (ea : DWord), Issues (formOf (.xprog a b)) s c → ea = c.crew.u64 a.toNat →
    ((ea.toNat % 64 ≠ 0 ∨ 2 ^ 56 ≤ ea.toNat ∨
        (inWindow ea.toNat = true ∧ granted c.launch (ea.toNat - Config.windowBase) = false) ∨
        (inWindow ea.toNat = false ∧ ∃ t, s.tlbFind c.team.core c.launch.id ea.toNat = some t ∧ Need.load.ok t.leaf = false) ∨
        (∃ p, Reaches s c Need.load ea p ∧ notHost p = false)) →
      exec (.xprog a b) s = .next (s.takeTrap { cause := 6, info := ea }).ran) ∧
    (ea.toNat % 64 = 0 → ea.toNat < 2 ^ 56 → inWindow ea.toNat = false → s.tlbFind c.team.core c.launch.id ea.toNat = none →
      exec (.xprog a b) s = .next (s.startWalk ea.toNat .load none).ran)) ∧
  (∀ (s : State) (o : MOp) (r : LReq) (rs : List LReq) (a : Acc) (as : List Acc) (slot : Nat) (tm : Team) (ws p : List Word)
      (legal : Prop), s.opOf o.id = some o → o.kind = .xprog slot → o.performed = true → o.reqs = r :: rs → o.accs = a :: as →
    (∀ q ∈ o.reqs, q.refused = false) → s.teamOf o.crew.team = some tm →
    ws = (List.range 16).map (fun k => BitVec.ofNat 32 (lineNum r.data (a.va.toNat % 128 + 4 * k) 4)) →
    p = ws.takeWhile (fun w => w.toNat / 2 ^ 30 ≠ 0) →
    (legal ↔ (∃ w ∈ p, w.toNat / 2 ^ 30 = 1) ∧ ∀ w ∈ p, w.toNat / 2 ^ 30 ≠ 3 ∧ (w.toNat / 2 ^ 30 = 2 →
      w.toNat / 2 ^ 22 % 256 = 0 ∧ w.toNat % 64 = 0 ∧ 1 ≤ w.toNat / 64 % 16 ∧ w.toNat / 64 % 16 ≤ 8 ∧
      w.toNat / 2 ^ 10 % 64 + w.toNat / 64 % 16 ≤ w.toNat / 2 ^ 16 % 64)) →
    ∃ t, exec (.loadResponse o.id) s = .next t ∧ t.mem = s.mem ∧ t.opOf o.id = none ∧
      (r.poison &&& o.readsAt 0 = 0#4 → legal → t.teamOf o.crew.team = some { tm with
        xprog := Cells.set [] tm.xprog slot ws }) ∧
      (r.poison &&& o.readsAt 0 ≠ 0#4 ∨ ¬ legal → t.teams = s.teams ∧
        ∀ y ∈ t.gangs, y.launch = o.crew.team.launch → y.num = o.crew.team.gang → y.kill.isSome = true ∧
          ((∀ z ∈ s.gangs, z.launch = y.launch → z.kill = none) → y.kill.map (·.cause) =
            some (if r.poison &&& o.readsAt 0 = 0#4 then 6#8 else 8#8))))

/-- R81, R82, R86, R89, R96 to R102, R284: the steps of copies and batches.  A fill's line is read whole at its home; an outward
line writes its home exactly where its bytes lie, of several that name one byte the last, and with its last line the copy gives
its flags and is over; a fill whose lines are done makes its tiles ready, each with the bytes that it moves, plain, converted or
transformed, and no other, and gives its flags; a word that a fill writes before that takes the fill's whole 4 bytes; SEAL, WAITB
and BATCH_FINISH.  That a line is one step, that a fill's words land in TILE_READY unless a move lands one before, and that a copy
reads at a time of the model's choosing is the model's choice (log entry 31, DESIGN CHOICE), as is that the targets of a CPY.MC
become ready together (log entry 135, DESIGN CHOICE); that WAITB waits for every batch that its witness stands for is its reading
(log entry 134, DEDUCED).  Conversions says what convFloat gives. -/
def Obligations.CopySteps : Prop :=
  (∀ (s : State) (cp : Copy) (i pa : Nat) (ln : CopyLn) (l : Launch) (va : Nat), s.copyOf cp.id = some cp →
    cp.lines[i]? = some ln → s.launchOf cp.crew.team.launch = some l → ln.done = false → ln.asked = none →
    (∀ x ∈ cp.lines.take i, x.done = true ∨ x.asked ≠ none) → cp.hold = .free →
    (∀ x ∈ s.fl.copies, x.core = cp.core → x.id < cp.id → x.begun = true) →
    va = 128 * ln.vline + (match cp.pieces.findSome? (clip ln.vline) with
      | some p => p.1
      | none => 0) →
    s.copyAddr cp l va = .ok (.main pa) → s.sound = true → (s.lineMeta (pa / 128)).lost = false →
    (cp.out = false → ∃ t, exec (.copyLine cp.id i) s = .next t ∧ t.mem.bytes = s.mem.bytes ∧ t.crews = s.crews ∧
      t.teams = s.teams ∧ (t.lineMeta (pa / 128)).poison = (s.lineMeta (pa / 128)).poison |||
        ((s.lineMeta (pa / 128)).bad &&& cp.readsOf ln.vline) ∧
      (t.copyOf cp.id).map (fun x => x.lines[i]?) = some (some { ln with
        done := true
        data := s.lineAt (pa / 128)
        poison := (t.lineMeta (pa / 128)).poison })) ∧
    (cp.out = true → s.holdsOf (pa / 128) = [] → ∃ t, exec (.copyLine cp.id i) s = .next t ∧
      (∀ a, readByte t.mem.bytes a = lastByte ((outLine (((s.takeWords cp (cp.needs ln.vline)).2).outward l.seed).1
        ((s.takeWords cp (cp.needs ln.vline)).2.writtenTo (.home (pa / 128))) ln.vline).1.map (fun p => (128 * (pa / 128) + p.1, p.2))) a (readByte s.mem.bytes a)) ∧
      (t.lineMeta (pa / 128)).ver = (s.lineMeta (pa / 128)).ver + 1#12) ∧
    (∀ tm src, cp.out = true → s.holdsOf (pa / 128) = [] → (∀ x ∈ cp.lines, x.done = true → x.asked ≠ some (.home (pa / 128))) →
      s.teamOf cp.crew.team = some tm →
      (∀ o, src o = match cp.taken.find? (fun x => decide (x.1 = o / 4)) with
        | some x => x.2.1.extractLsb' (8 * (o % 4)) 8
        | none => if o / 4 ∈ cp.needs ln.vline then tm.scratchAt o else 0#8) →
      ∃ t, exec (.copyLine cp.id i) s = .next t ∧
        (∀ a, readByte t.mem.bytes a = lastByte (((cp.moved l.seed src).1.filter (fun p => decide (p.1 / 128 = ln.vline))).map
          (fun p => (128 * (pa / 128) + p.1 % 128, p.2))) a (readByte s.mem.bytes a)) ∧
        ∀ cr, s.crewOf cp.crew = some cr → (∀ j x, cp.lines[j]? = some x → j ≠ i → x.done = true) →
          t.copyOf cp.id = none ∧ t.crewOf cp.crew = some { cr with flags := cr.flags ||| (cp.moved l.seed src).2 })) ∧
  (∀ (s : State) (cp : Copy) (l : Launch), s.copyOf cp.id = some cp → s.launchOf cp.crew.team.launch = some l →
    cp.out = false → (∀ x ∈ cp.lines, x.done = true) → ∃ t, exec (.tileReady cp.id) s = .next t ∧ t.mem = s.mem ∧
      t.copyOf cp.id = none ∧
      (∀ k n tm y, (k, n) ∈ cp.tiles → s.teamOf k = some tm → tm.tile n = some y →
        ∃ u, t.teamOf k = some u ∧ u.tile n = some ⟨y.desc, .ready, 0⟩) ∧
      (∀ k n tm y u src, (∀ a, src a = (match cp.lines.find? (fun x => decide (x.vline = a / 128)) with
          | some x => lineByte x.data (a % 128)
          | none => 0#8)) → cp.landed = [] → cp.tiles.Pairwise (fun x y => x.1 ≠ y.1) → (k, n) ∈ cp.tiles →
        s.teamOf k = some tm → tm.tile n = some y → Cells.wf 0#8 tm.scratch = true → t.teamOf k = some u →
        ∀ a, u.scratchAt a = if tileBase y.desc ≤ a ∧ a < tileBase y.desc + tileBytes y.desc then
          lastByte (cp.moved l.seed src).1 (a - tileBase y.desc) (tm.scratchAt a) else tm.scratchAt a) ∧
      (∀ cr src, (∀ a, src a = (cp.gotByte a).1) → s.crewOf cp.crew = some cr → ∃ x, t.crewOf cp.crew = some x ∧
        x.flags = cr.flags ||| (cp.moved l.seed src).2 ∧ (∀ p ∈ x.pend, p.op ≠ cp.id) ∧
        ∀ d, cp.dest = some d → x.uregs = (cr.putU64 d.toNat 0x6400000000000000#64).uregs)) ∧
  (∀ (s : State) (cp : Copy) (l : Launch) (i w : Nat) (x : TeamKey × Nat) (tm : Team) (y : Tile), s.copyOf cp.id = some cp →
    s.launchOf cp.crew.team.launch = some l → cp.tiles[i]? = some x → s.teamOf x.1 = some tm → tm.tile x.2 = some y →
    Cells.wf 0#8 tm.scratch = true → ∃ u, (s.environment (.land cp.id i w)).teamOf x.1 = some u ∧
      (∀ a, a < tileBase y.desc + 4 * w ∨ tileBase y.desc + 4 * w + 4 ≤ a → u.scratchAt a = tm.scratchAt a) ∧
      ((∀ a, u.scratchAt a = tm.scratchAt a) ∨ (∀ k < 4, u.scratchAt (tileBase y.desc + 4 * w + k) =
        lastByte ((cp.inward l.seed).1.map (fun p => (p.1, p.2.1))) (4 * w + k) (tm.scratchAt (tileBase y.desc + 4 * w + k))))) ∧
  (∀ (s : State) (c : Ctx) (d b : BitVec 6) (cur : Nat → Batch), (∀ t, cur t = ⟨t, Cells.get 0#32 c.crew.batch t⟩) →
    (Issues (formOf (.seal d)) s c →
      (∀ t ∈ c.threads, s.batchOpen c.crew.key (cur t) = true → c.crew.sealedOf t < 63) →
      exec (.seal d) s = .next (c.done s ((c.crew.sealed
          (Cells.setAll 0#32 c.crew.batch (c.threads.map (fun t => (t, (cur t).number + 1#32))))
          (c.crew.sealedB ++ (c.threads.filter (fun t => s.batchOpen c.crew.key (cur t))).map cur)).putU
          d.toNat (cur (lowThread c.act)).number))) ∧
    (Issues (formOf (.waitb d b)) s c →
      ((∃ x ∈ c.crew.sealedB, x.thread ∈ c.threads ∧ b.toNat < ((cur x.thread).number - x.number).toNat) →
        exec (.waitb d b) s = .next s.waitGroup) ∧
      ((∀ x ∈ c.crew.sealedB, x.thread ∈ c.threads → ((cur x.thread).number - x.number).toNat ≤ b.toNat) →
        exec (.waitb d b) s = .next (c.done s (c.crew.putU64 d.toNat (broad c.scope)))))) ∧
  (∀ (s : State) (n t b : Nat) (c : Crew), s.crews[n]? = some c → ⟨t, BitVec.ofNat 32 b⟩ ∈ c.sealedB →
    s.batchOpen c.key ⟨t, BitVec.ofNat 32 b⟩ = false → exec (.batchFinish n t b) s =
      .next (s.setCrew n (c.sealed c.batch (c.sealedB.filter (fun x => !decide (x = ⟨t, BitVec.ofNat 32 b⟩))))))

/-! ### The matrix engine and accumulator memory -/

/-- R88, R221 to R231, R239, R240: a matrix command whose tiles are ready and whose shapes fit issues under its crew's next
identifier; it waits while a tile that it names is not ready, the sequencer is full or its identifier is in use, and traps where a
tile or its region is undefined or of the wrong shape, a scale tile has another layout, an index or a row of A does not fit, or a
field of HINT.C or a word that it names is not right;
it starts, reading each word of its tiles then or, where it was peeked, as it was before; it settles its escalated cells and
retires; MWAIT waits for the identifier and reads the mask.  Cell (i, j) gets the sum of c and the exact products of the K
elements under their scales, rounded once, and is escalated by the window of R224, in units of 2^z; that a NaN or an infinity
counts for nothing in the window is the model's reading (log entry 112, DEDUCED).  That a word of a tile is read at the command's start or at a move
before it is the model's choice (log entry 31, DESIGN CHOICE), and so is that an MWAIT that waits keeps the command it found
at its first try (log entry 35, DESIGN CHOICE). -/
def Obligations.MatrixCommands : Prop :=
  (∀ (s : State) (c : Ctx) (m : BitVec 2) (n : BitVec 6) (ta tb : BitVec 5) (acc f : BitVec 4) (f3 : BitVec 3) (i : Instr)
      (mm nn code : Nat) (sc : Option (Nat × Nat)) (rows : List (Option Nat)) (mask : BitVec 16) (xa xb : Tile) (g : Word)
      (hc : BitVec 22) (fld w : Nat) (v : Conv) (idx : Nat → Nat), w = 2 * c.W →
    (∀ r, idx r = (c.crew.v (fld + r / w) (r % w / 2)).toNat / 2 ^ (16 * (r % 2)) % 2 ^ 16) →
    Issues (formOf i) s c → mm = (if m = 0#2 then 64 else if m = 1#2 then 128 else 256) →
    nn = (if n = 0#6 then 1024 else 16 * n.toNat) → hc = c.grp.hints.c.getD 0#22 →
    fld = (c.grp.hints.cField.getD 127#7).toNat →
    v = Conv.of (c.crew.u (fld - 96)) (c.crew.u (fld - 95)) (c.crew.u (fld - 94)) (c.crew.u (fld - 93)) →
    c.team.tile ta.toNat = some xa → c.team.tile tb.toNat = some xb → xa.st = .ready → xb.st = .ready →
    ((i = .mma m n ta tb acc f ∧ code = f.toNat ∧ sc = none ∧ mm ≤ tileRows xa.desc ∧
        rows = (List.range mm).map some ∧ mask = 0#16) ∨
      (i = .mmas m n ta tb acc f ∧ code = f.toNat ∧ sc = some (hc.toNat / 32 % 32, hc.toNat % 32) ∧
        mm ≤ tileRows xa.desc ∧ rows = (List.range mm).map some ∧ mask = 0#16 ∧
        (∃ x, c.team.tile (hc.toNat / 32 % 32) = some x ∧ x.st = .ready ∧ scaleLayoutOk x.desc mm = true) ∧
        (∃ x, c.team.tile (hc.toNat % 32) = some x ∧ x.st = .ready ∧ scaleLayoutOk x.desc nn = true)) ∨
      (i = .mmaG m n ta tb acc f3 ∧ code = f3.toNat ∧ sc = none ∧ mask = 0#16 ∧ fld < 96 ∧ fld % (mm / w) = 0 ∧
        c.readsRun fld (mm / w) = .ok () ∧ (∀ k < mm / w, fld + k ∉ c.crew.vbad) ∧ rows.length = mm ∧
        (c.launch.prot = true → ∀ r < mm, idx r = (c.crew.v (fld + r / w) (r % w / 2 + 16)).toNat / 2 ^ (16 * (r % 2)) % 2 ^ 16) ∧
        ∀ r < mm, idx r / 2 ^ 11 % 16 = 0 ∧ (2 ^ 15 ≤ idx r → rows[r]? = some none) ∧
          (idx r < 2 ^ 15 → idx r < tileRows xa.desc ∧ rows[r]? = some (some (idx r)))) ∨
      (i = .mmaCv m n ta tb acc f3 ∧ code = f3.toNat ∧ sc = none ∧ 96 ≤ fld ∧ fld ≤ 126 ∧ fld % 4 = 0 ∧
        (c.crew.u (fld - 94)).toNat < 2 ^ 28 ∧ (c.crew.u (fld - 94)).toNat % 16 = 0 ∧
        (c.crew.u (fld - 93)).toNat < 2 ^ 24 ∧ v.nimg * v.h * v.w ≤ tileRows xa.desc ∧
        rows = (List.range mm).map v.row ∧ mask = v.mask mm)) →
    matRowBytes code false ≤ tileRowBytes xa.desc → nn ≤ tileRows xb.desc → matRowBytes code true ≤ tileRowBytes xb.desc →
    c.team.region acc.toNat = some g → mm ≤ regRows g → nn ≤ regCols g →
    (s.fl.cmds.filter (fun x => decide (x.core = c.team.core))).length < 64 →
    (∀ x ∈ s.fl.cmds, x.crew = c.crew.key → x.core = c.team.core → x.ident ≠ c.crew.mnext) →
    ∃ t cmd, exec i s = .next t ∧ CommandIssued s t c cmd ∧ cmd.region = g ∧ cmd.num = acc.toNat ∧ cmd.m = mm ∧
      cmd.n = nn ∧ cmd.fmt = BitVec.ofNat 4 code ∧ cmd.scaled = sc.isSome ∧ cmd.ta = ta.toNat ∧ cmd.tb = tb.toNat ∧
      cmd.rowsA = rows ∧ cmd.mask = mask) ∧
  (∀ (s : State) (c : Ctx) (m : BitVec 2) (n : BitVec 6) (ta tb : BitVec 5) (acc f : BitVec 4) (f3 : BitVec 3) (i : Instr)
      (mm nn code fld w : Nat) (sc : Option (Nat × Nat)) (named : List Nat) (lay fits : Prop) (fitA : Word → Prop)
      (word : Nat → Word) (idx other : Nat → Nat) (hc : BitVec 22) (late : Option Trap), w = 2 * c.W →
    (∀ r, idx r = (c.crew.v (fld + r / w) (r % w / 2)).toNat / 2 ^ (16 * (r % 2)) % 2 ^ 16) →
    (∀ r, other r = (c.crew.v (fld + r / w) (r % w / 2 + 16)).toNat / 2 ^ (16 * (r % 2)) % 2 ^ 16) →
    (∀ k, word k = c.crew.u (fld - 96 + k)) → Issues (formOf i) s c →
    mm = (if m = 0#2 then 64 else if m = 1#2 then 128 else 256) → nn = (if n = 0#6 then 1024 else 16 * n.toNat) →
    hc = c.grp.hints.c.getD 0#22 → fld = (c.grp.hints.cField.getD 127#7).toNat →
    named = [ta.toNat, tb.toNat] ++ (match sc with
      | some p => [p.1, p.2]
      | none => []) →
    (lay ↔ ∀ p, sc = some p → (∀ x, c.team.tile p.1 = some x → tileRowBytes x.desc = 64 ∧ tileRows x.desc = mm / 16) ∧
      ∀ x, c.team.tile p.2 = some x → tileRowBytes x.desc = 64 ∧ tileRows x.desc = nn / 16) →
    (fits ↔ (∃ xa xb, c.team.tile ta.toNat = some xa ∧ c.team.tile tb.toNat = some xb ∧ fitA xa.desc ∧
      matRowBytes code false ≤ tileRowBytes xa.desc ∧ nn ≤ tileRows xb.desc ∧ matRowBytes code true ≤ tileRowBytes xb.desc) ∧
      ∃ g, c.team.region acc.toNat = some g ∧ mm ≤ regRows g ∧ nn ≤ regCols g) →
    (∀ good : Prop, (good ↔ fld < 96 ∧ fld % (mm / w) = 0 ∧ ∀ k < mm / w, fld + k < 8 * c.crew.quota) →
      i = .mmaG m n ta tb acc f3 → (¬ good → exec i s = .next (s.takeTrap { cause := 1 }).ran) ∧
      (good → (∃ k < mm / w, c.crew.pending (.v (fld + k)) = true) → exec i s = .next s.waitGroup)) ∧
    (i = .mmaCv m n ta tb acc f3 → fld < 96 ∨ 126 < fld ∨ fld % 4 ≠ 0 ∨ 2 ^ 28 ≤ (word 2).toNat ∨ (word 2).toNat % 16 ≠ 0 ∨
      2 ^ 24 ≤ (word 3).toNat → exec i s = .next (s.takeTrap { cause := 1 }).ran) ∧
    (((i = .mma m n ta tb acc f ∧ code = f.toNat ∧ sc = none ∧ late = none ∧ ∀ d, fitA d ↔ mm ≤ tileRows d) ∨
      (i = .mmas m n ta tb acc f ∧ code = f.toNat ∧ sc = some (hc.toNat / 32 % 32, hc.toNat % 32) ∧ late = none ∧
        ∀ d, fitA d ↔ mm ≤ tileRows d) ∨
      (i = .mmaG m n ta tb acc f3 ∧ code = f3.toNat ∧ sc = none ∧ fld < 96 ∧ fld % (mm / w) = 0 ∧
        (∀ k < mm / w, fld + k < 8 * c.crew.quota ∧ c.crew.pending (.v (fld + k)) = false) ∧
        (((∀ k < mm / w, fld + k ∉ c.crew.vbad) ∧ (c.launch.prot = true → ∀ r < mm, idx r = other r) ∧ late = none) ∨
          ((∀ k < mm / w, fld + k ∉ c.crew.vbad) ∧ c.launch.prot = true ∧ (∃ r < mm, idx r ≠ other r) ∧ late = some {
            cause := 9
            info := BitVec.ofNat 64 (1 + Config.pick s.free % 7) }) ∨
          ∃ k < mm / w, fld + k ∈ c.crew.vbad ∧ (∀ j < k, fld + j ∉ c.crew.vbad) ∧ late = some {
            cause := 8
            info := BitVec.ofNat 64 (2 ^ 61 + (fld + k)) }) ∧
        ∀ d, fitA d ↔ ∀ r < mm, idx r / 2 ^ 11 % 16 = 0 ∧ (2 ^ 15 ≤ idx r ∨ idx r < tileRows d)) ∨
      (i = .mmaCv m n ta tb acc f3 ∧ code = f3.toNat ∧ sc = none ∧ late = none ∧ 96 ≤ fld ∧ fld ≤ 126 ∧ fld % 4 = 0 ∧
        (word 2).toNat < 2 ^ 28 ∧ (word 2).toNat % 16 = 0 ∧ (word 3).toNat < 2 ^ 24 ∧
        ∀ d, fitA d ↔ ((word 3).toNat / 2 ^ 16 % 256 + 1) * ((word 1).toNat / 2 ^ 24 + 1) *
          ((word 1).toNat / 2 ^ 16 % 256 + 1) ≤ tileRows d)) →
      ((∃ k ∈ named, c.team.tile k = none) → (lay → exec i s = .next (s.takeTrap { cause := 6 }).ran) ∧
        (¬ lay → exec i s = .next (s.takeTrap { cause := 3 }).ran)) ∧
      ((∀ k ∈ named, ∃ x, c.team.tile k = some x) → late = none →
        ((∃ k ∈ named, ∃ x, c.team.tile k = some x ∧ x.st ≠ .ready) → exec i s = .next s.waitGroup) ∧
        ((∀ k ∈ named, ∀ x, c.team.tile k = some x → x.st = .ready) →
          (¬ lay → exec i s = .next (s.takeTrap { cause := 3 }).ran) ∧
          (lay → ¬ fits → exec i s = .next (s.takeTrap { cause := 6 }).ran) ∧
          (lay → fits → (64 ≤ (s.fl.cmds.filter (fun x => decide (x.core = c.team.core))).length ∨
              ∃ x ∈ s.fl.cmds, x.core = c.team.core ∧ x.crew = c.crew.key ∧ x.ident = c.crew.mnext) →
            exec i s = .next s.waitGroup))) ∧
      (∀ t, late = some t → (∀ j ∈ named, ∃ x, c.team.tile j = some x) → fits → exec i s = .next (s.takeTrap t).ran))) ∧
  (∀ (s : State) (m : Cmd) (t : Team) (desc : Nat → Word) (sc : Option (Word × Word)), s.cmdOf m.id = some m →
    s.teamOf m.crew.team = some t → m.started = false → s.mayStart m = true → t.scBad = [] → t.accBad = [] →
    t.scPoison = [] → (∀ x ∈ m.seen, x.2.2 = false) → (∀ n, desc n = ((t.tile n).map (·.desc)).getD 0#32) →
    sc = (if m.scaled then some (desc m.sa, desc m.sb) else none) →
    ∃ u outs, exec (.matrixCommandStart m.id) s = .next u ∧ u.mem = s.mem ∧ u.crews = s.crews ∧
      outs = t.cellsOut m ((m.view t).operands m (desc m.ta) (desc m.tb) sc) ∧
      u.teamOf m.crew.team = some ((outs.filter (fun x => !x.2.wide)).foldl (fun t x =>
        t.setCell m.region x.1 x.2.bits (t.cellSt m.region x.1 ||| statusOf x.2.flags)) t) ∧
      (u.cmdOf m.id).map (·.started) = some true ∧
      (u.cmdOf m.id).map (fun x => x.left.map (·.1)) = some ((outs.filter (fun x => x.2.wide)).map (·.1))) ∧
  (∀ (t v : Team) (m : Cmd) (xa xb : Word) (sc : Option (Word × Word)) (code K : Nat) (fa fb f : Fmt) (i j : Nat)
      (r : Option Nat) (bits : Nat → Nat → Nat → Nat) (scale : Word → Nat → Nat → Nat) (a b x y : Nat → Machine.Num)
      (c : Machine.Num) (ps : List Machine.Num) (opposed : Prop),
    (code, K, fa, fb) ∈ ([(0, 128, e2m1, e2m1), (1, 96, e3m2, e3m2), (2, 96, e2m3, e2m3), (3, 64, e4m3, e4m3),
      (4, 64, e5m2, e5m2), (5, 128, e2m1, e2m1), (6, 32, fp16, fp16), (7, 32, bf16, bf16), (8, 16, fp32, fp32),
      (9, 8, fp64, fp64), (10, 64, e4m3, e5m2), (11, 64, e5m2, e4m3)] : List (Nat × Nat × Fmt × Fmt)) →
    m.fmt.toNat = code → (sc.isSome = true → 32 ≤ K) → m.rowsA[i]? = some r → j < m.n →
    (∀ p w k, bits p w k = ((List.range 8).map (fun q =>
      (v.scratchAt (p + w * k / 8 + q)).toNat * 256 ^ q)).sum / 2 ^ (w * k % 8) % 2 ^ w) →
    (∀ d r k, scale d r k = (v.scratchAt (tileBase d + 64 * (r / 16) + 16 * (r % 4) + 4 * (r % 16 / 4) + k / 32)).toNat) →
    (∀ k, a k = match r with
      | none => .fin false 0 0
      | some n => fa.read (bits (tileBase xa + n * tileRowBytes xa) fa.width k)) →
    (∀ k, b k = if code = 5 then lq2Num (bits (tileBase xb + j * tileRowBytes xb) 16 (k / 8)) (k % 8)
      else fb.read (bits (tileBase xb + j * tileRowBytes xb) fb.width k)) →
    (∀ k, x k = match sc with
      | none => a k
      | some d => (scaled (a k) (scale d.1 i k) true).1) →
    (∀ k, y k = match sc with
      | none => b k
      | some d => (scaled (b k) (scale d.2 j k) true).1) →
    f = (if m.region.getLsbD 31 then fp64 else fp32) → c = f.read (t.cell m.region (i * regCols m.region + j)) →
    ps = c :: ((List.range K).filter (fun k => !(x k).isNan && !(y k).isNan && !zeroTimesInf (x k) (y k))).map
      (fun k => product (x k) (y k)) →
    (opposed ↔ ∀ q, Num.inf q ∈ ps) →
    ∃ o, (t.cellsOut m (v.operands m xa xb sc))[i * m.n + j]? = some (i * regCols m.region + j, o) ∧
      (c.isNan = true ∨ opposed ∨
          (∃ k < K, (x k).isNan = true ∨ (y k).isNan = true ∨ zeroTimesInf (x k) (y k) = true) →
        o.bits = f.nan ∧ ∀ bad : Bool, (bad = true ↔ opposed ∨ c.isSig = true ∨ ∃ k < K,
            (a k).isSig = true ∨ (b k).isSig = true ∨ zeroTimesInf (x k) (y k) = true ∨
              ∃ d, sc = some d ∧ (scale d.1 i k = 255 ∨ scale d.2 j k = 255)) →
          o.flags = if bad then flInvalid else 0#5) ∧
      ∀ z, UnitsFor z ps →
        (c.isNan = false → ¬ opposed →
            (∀ k < K, (x k).isNan = false ∧ (y k).isNan = false ∧ zeroTimesInf (x k) (y k) = false) →
          (o.bits, o.flags) = sumRounded f m.rm ps z) ∧
        (∀ (us : List Int) (big d : Nat) (held : Int), us = ps.map (fun u => u.units z) →
          (∀ u ∈ us, u.natAbs ≤ big) → (∃ u ∈ us, u.natAbs = big) → d = big.log2 - 159 →
          held = (us.map (fun u => u.tdiv (2 ^ d))).sum →
          (o.wide = true ↔ (∃ u ∈ us, ¬ 2 ^ d ∣ u.natAbs) ∧ (held = 0 ∨
            (f.emin - f.mb ≤ z + d + 8 ∧ (held.natAbs.log2 : Int) ≤ f.mb + 8))))) ∧
  (∀ (s : State) (m : Cmd) (x : Nat × Word × Word × Byte), s.cmdOf m.id = some m →
    m.left.find? (fun y => decide (y.1 = x.1)) = some x →
    exec (.matrixEscalationSettle m.id x.1) s = .next ((s.mapTeam m.crew.team (fun t => t.setCell m.region x.1
      (x.2.2.1 ++ x.2.1).toNat (t.cellSt m.region x.1 ||| x.2.2.2))).mapCmd m.id (fun y => { y with
        left := y.left.filter (fun z => !decide (z.1 = x.1)) }))) ∧
  (∀ (s : State) (m : Cmd), s.cmdOf m.id = some m → m.started = true → m.left = [] →
    ∃ t, exec (.matrixCommandRetire m.id) s = .next t ∧ t.mem = s.mem ∧ t.teams = s.teams ∧ t.cmdOf m.id = none) ∧
  (∀ (s : State) (c : Ctx) (d i : BitVec 6), Issues (formOf (.mwait d i)) s c →
    (∀ m, s.fl.cmds.find? (fun x => decide (x.crew = c.crew.key) && decide (x.ident = i)) = some m →
      exec (.mwait d i) s = .next (s.waitMatrix m.id)) ∧
    ((∀ x ∈ s.fl.cmds, ¬ (x.crew = c.crew.key ∧ x.ident = i)) →
      exec (.mwait d i) s = .next (c.done s (c.crew.putU d.toNat (match c.ent.mwait with
        | some (_, some mask) => 0x80000000#32 ||| mask
        | _ => 0#32)))))

/-- R218 to R220, R230, R233 to R238: the ACC instructions at issue; x are the cells (slot, row of the strip, cell number)
that ACCRD and ACCWR name.  They trap where their region is undefined, where the control word or the registers of a strip are not
right or the strip lies outside the region, and where an address of ACCDRAIN, ACCSAVE or ACCLOAD is misaligned, not reachable or
of another device, the first such line deciding; a line in no TLB starts a walk; they wait for earlier commands on their cells.
That ACCDEF.CLR of an undefined region traps is the model's reading (log entry 41, DEDUCED), as is that a base of vz reads and
discards all of a strip's registers (log entry 93, DEDUCED); that ACCLOAD's invalid witness reports 0 is its choice (log entry 99,
DESIGN CHOICE). -/
def Obligations.Accumulators : Prop :=
  (∀ (s : State) (c : Ctx) (a : BitVec 6) (r : BitVec 4) (g : Word), g = c.crew.u a.toNat →
    (s.accNamed c.team.key r.toNat = true → Issues (formOf (.accdef a r)) s c →
      exec (.accdef a r) s = .next s.waitGroup) ∧
    (s.accNamed c.team.key r.toNat = false →
      (Issues (formOf (.accdef a r)) s c →
        (g.toNat / 2 ^ 11 % 64 = 0 ∧ regBase g + regTotal g ≤ 4096 * c.team.accu →
          exec (.accdef a r) s = .next (c.done (s.mapTeam c.team.key (fun t => { t with
            regions := Cells.set none t.regions r.toNat (some g) })) c.crew)) ∧
        (¬ (g.toNat / 2 ^ 11 % 64 = 0 ∧ regBase g + regTotal g ≤ 4096 * c.team.accu) →
          exec (.accdef a r) s = .next (s.takeTrap { cause := 6 }).ran)) ∧
      (Issues (formOf (.accdefClr r)) s c → (c.team.region r.toNat).isSome = true →
        exec (.accdefClr r) s = .next (c.done (s.mapTeam c.team.key (fun t => { t with
          regions := Cells.set none t.regions r.toNat none })) c.crew))) ∧
    (Issues (formOf (.accdefClr r)) s c → c.team.region r.toNat = none →
      exec (.accdefClr r) s = .next (s.takeTrap { cause := 6 }).ran)) ∧
  (∀ (s : State) (c : Ctx) (r : BitVec 4) (g : Word), c.team.region r.toNat = some g → Issues (formOf (.accz r)) s c →
    (s.accBusy c.team.key s.serial (regionSlots g) = true → exec (.accz r) s = .next s.waitGroup) ∧
    (s.accBusy c.team.key s.serial (regionSlots g) = false →
      exec (.accz r) s = .next (c.done (s.mapTeam c.team.key
        (fun t => t.zeroSlots (regBase g) (regBase g + regTotal g))) c.crew))) ∧
  (∀ (t : Team) (lo hi k : Nat), Cells.wf 0#32 t.acc = true → Cells.wf 0#8 t.accSt = true →
    ((t.zeroSlots lo hi).slot k = if lo ≤ k ∧ k < hi then 0#32 else t.slot k) ∧
    ((t.zeroSlots lo hi).slotSt k = if lo ≤ k ∧ k < hi then 0#8 else t.slotSt k)) ∧
  (∀ (s : State) (c : Ctx) (d a : BitVec 7) (n : BitVec 2) (r : BitVec 4) (i : Instr) (g ctl : Word)
      (slots : List Nat) (rows row0 first w : Nat) (x : List (Nat × Nat × Nat)),
    Issues (formOf i) s c → c.team.region r.toNat = some g → ctl = c.crew.src a 0 → ctl.toNat < 2 ^ 22 →
    ctl.toNat / 2 ^ 8 % 2 ^ 8 = 0 → rows = 2 ^ n.toNat → row0 = ctl.toNat % 256 → first = c.W * (ctl.toNat / 2 ^ 16) →
    row0 + rows ≤ regRows g → first < regCols g → w = (if i ≠ .accrdSt d a n r ∧ regWide g = true then 2 else 1) →
    (d ≠ 127#7 → d.toNat % w = 0 ∧ d.toNat + rows * w ≤ 8 * c.crew.quota) →
    slots = (if i = .accwr d a n r then c.threads else c.slots) →
    x = (List.range rows).flatMap (fun k => slots.filterMap (fun t =>
      if first + c.ownThread t < regCols g then some (t, k, (row0 + k) * regCols g + (first + c.ownThread t)) else none)) →
    (fieldRegs d (rows * w)).any c.crew.pending = false → c.crew.vbad = [] → c.team.accBad = [] →
    s.accBusy c.team.key s.serial (x.map (fun e => (cellSlot g e.2.2, regSlots g))) = false →
    (i = .accrd d a n r → exec i s = .next (c.done s (x.foldl (fun cr e =>
      if w = 2 then (cr.putK d (2 * e.2.1) e.1 (BitVec.ofNat 32 (c.team.cell g e.2.2))).putK d (2 * e.2.1 + 1) e.1
        (BitVec.ofNat 32 (c.team.cell g e.2.2 / 2 ^ 32))
      else cr.putK d e.2.1 e.1 (BitVec.ofNat 32 (c.team.cell g e.2.2))) c.crew))) ∧
    (i = .accrdSt d a n r → exec i s = .next (c.done s (x.foldl (fun cr e =>
      cr.putK d e.2.1 e.1 ((c.team.cellSt g e.2.2).setWidth 32)) c.crew))) ∧
    (i = .accwr d a n r → (c.launch.prot = true → ∀ e ∈ x, ∀ k, c.crew.srcK d k e.1 = c.crew.srcK d k (e.1 + 16)) →
      exec i s = .next (c.done (s.mapTeam c.team.key (fun t =>
      x.foldl (fun t e => t.setCell g e.2.2 (if w = 2 then
        (c.crew.srcK d (2 * e.2.1 + 1) e.1 ++ c.crew.srcK d (2 * e.2.1) e.1).toNat
        else (c.crew.srcK d e.2.1 e.1).toNat) 0#8) t)) c.crew))) ∧
  (∀ (s : State) (c : Ctx) (d a : BitVec 6) (r : BitVec 4) (w : BitVec 2) (g stride : Word) (base : DWord) (e : Nat)
      (i : Instr) (need : Need) (kind : OpKind) (ud : Option RegDest) (pend : List PReg) (lines : List Nat),
    c.team.region r.toNat = some g → base = c.crew.u64 a.toNat → stride = c.crew.u (a.toNat + 2) → e = drainBytes w →
    s.accBusy c.team.key s.serial (regionSlots g) = false →
    ((i = .accdrain d a r w ∧ need = Need.store ∧ base.toNat % e = 0 ∧ stride.toNat % e = 0 ∧
        (regRows g = 1 ∨ regCols g * e ≤ stride.toInt.natAbs) ∧ lines = linesOf (drainPieces g base stride w) ∧
        kind = .accdrain r.toNat g base stride (c.crew.u (a.toNat + 3)) w ∧ ud = some ⟨d.setWidth 7, 2⟩ ∧
        pend = [.u d.toNat, .u (d.toNat + 1)]) ∨
      (i = .accsave d a r ∧ need = Need.store ∧ base.toNat % 128 = 0 ∧
        lines = (List.range ((imageBytes g + 127) / 128)).map (fun k => base.toNat / 128 + k) ∧
        kind = .accsave r.toNat g base ∧ ud = some ⟨d.setWidth 7, 2⟩ ∧ pend = [.u d.toNat, .u (d.toNat + 1)]) ∨
      (i = .accload d a r ∧ need = Need.load ∧ base.toNat % 128 = 0 ∧ witOk (c.crew.u64 d.toNat) = true ∧
        lines = (List.range ((imageBytes g + 127) / 128)).map (fun k => base.toNat / 128 + k) ∧
        kind = .accload r.toNat g base ∧ ud = none ∧ pend = [])) →
    Issues (formOf i) s c →
    (∀ ln ∈ lines, 128 * ln < 2 ^ 56 ∧ ∃ p, Reaches s c need (BitVec.ofNat 64 (128 * ln)) p ∧ p.isRemote = false) →
    ∃ t, exec i s = .next t ∧ Sent s t c c.crew kind none ud c.act [] (fun _ => .home 0) pend) ∧
  (∀ (s : State) (c : Ctx) (d a : BitVec 7) (n : BitVec 2) (r : BitVec 4) (i : Instr) (ctl : Word) (rows row0 first w : Nat)
      (wide right inside : Prop), i ∈ [.accrd d a n r, .accrdSt d a n r, .accwr d a n r] → Issues (formOf i) s c →
    ctl = c.crew.src a 0 → rows = 2 ^ n.toNat → row0 = ctl.toNat % 256 → first = c.W * (ctl.toNat / 2 ^ 16) →
    (wide ↔ i ≠ .accrdSt d a n r ∧ ∃ g, c.team.region r.toNat = some g ∧ regWide g = true) → (wide → w = 2) → (¬ wide → w = 1) →
    (right ↔ ctl.toNat < 2 ^ 22 ∧ ctl.toNat / 2 ^ 8 % 2 ^ 8 = 0 ∧
      (d ≠ 127#7 → d.toNat % w = 0 ∧ d.toNat + rows * w ≤ 8 * c.crew.quota)) →
    (inside ↔ ∃ g, c.team.region r.toNat = some g ∧ row0 + rows ≤ regRows g ∧ first < regCols g) →
    (¬ right → exec i s = .next (s.takeTrap { cause := 1 }).ran) ∧
    (right → ¬ inside → exec i s = .next (s.takeTrap { cause := 6 }).ran) ∧
    (right → inside → ((fieldRegs d (rows * w)).any c.crew.pending = true ∨ (c.crew.vbad = [] ∧ ∀ g x,
        c.team.region r.toNat = some g → x = (List.range rows).flatMap (fun k =>
          (if i = .accwr d a n r then c.threads else c.slots).filterMap (fun t =>
            if first + c.ownThread t < regCols g then
              some (cellSlot g ((row0 + k) * regCols g + (first + c.ownThread t)), regSlots g) else none)) →
        s.accBusy c.team.key s.serial x = true) → exec i s = .next s.waitGroup)) ∧
  (∀ (s : State) (c : Ctx) (d a : BitVec 6) (r : BitVec 4) (w : BitVec 2) (i : Instr) (base : DWord) (stride : Word) (e : Nat),
    i ∈ [.accz r, .accdrain d a r w, .accsave d a r, .accload d a r] → Issues (formOf i) s c → base = c.crew.u64 a.toNat →
    stride = c.crew.u (a.toNat + 2) → e = (fmtOf w).width / 8 →
    (i = .accload d a r → witOk (c.crew.u64 d.toNat) = false → exec i s = .next (s.takeTrap { cause := 4 }).ran) ∧
    ((i = .accload d a r → witOk (c.crew.u64 d.toNat) = true) →
      (c.team.region r.toNat = none → exec i s = .next (s.takeTrap { cause := 6 }).ran) ∧
      (∀ g lines need acc, c.team.region r.toNat = some g →
        ((i = .accdrain d a r w ∧ (base.toNat % e ≠ 0 ∨ stride.toNat % e ≠ 0 ∨
            (regRows g ≠ 1 ∧ stride.toInt.natAbs < regCols g * e))) ∨
          ((i = .accsave d a r ∨ i = .accload d a r) ∧ base.toNat % 128 ≠ 0) →
          exec i s = .next (s.takeTrap { cause := 6, info := base }).ran) ∧
        ((i = .accdrain d a r w ∧ base.toNat % e = 0 ∧ stride.toNat % e = 0 ∧
            (regRows g = 1 ∨ regCols g * e ≤ stride.toInt.natAbs) ∧ lines = linesOf (drainPieces g base stride w)) ∨
          ((i = .accsave d a r ∨ i = .accload d a r) ∧ base.toNat % 128 = 0 ∧
            lines = (List.range ((imageBytes g + 127) / 128)).map (fun k => base.toNat / 128 + k)) →
          (i = .accload d a r → need = Need.load ∧ acc = .load) → (i ≠ .accload d a r → need = Need.store ∧ acc = .store) →
          (∀ pre ln post va, lines = pre ++ ln :: post → va = BitVec.ofNat 64 (128 * ln) →
            (∀ x ∈ pre, 128 * x < 2 ^ 56 ∧ ∃ p, Reaches s c need (BitVec.ofNat 64 (128 * x)) p ∧ p.isRemote = false) →
            (2 ^ 56 ≤ 128 * ln ∨ (128 * ln < 2 ^ 56 ∧ ((inWindow va.toNat = true ∧
                granted c.launch (va.toNat - Config.windowBase) = false) ∨
              (inWindow va.toNat = false ∧ ∃ t, s.tlbFind c.team.core c.launch.id va.toNat = some t ∧ need.ok t.leaf = false) ∨
              ∃ p, Reaches s c need va p ∧ p.isRemote = true)) →
              exec i s = .next (s.takeTrap { cause := 6, info := va }).ran) ∧
            (128 * ln < 2 ^ 56 → inWindow va.toNat = false → s.tlbFind c.team.core c.launch.id va.toNat = none →
              exec i s = .next (s.startWalk va.toNat acc none).ran)) ∧
          ((∀ x ∈ lines, 128 * x < 2 ^ 56 ∧ ∃ p, Reaches s c need (BitVec.ofNat 64 (128 * x)) p ∧ p.isRemote = false) →
            s.accBusy c.team.key s.serial (regionSlots g) = true → exec i s = .next s.waitGroup))))))

/-! ### Task queues, launches, gangs -/

/-- R345, R347, R349 to R357: the TASK instructions and the device's own steps on queues, with their traps.  POP leaves its
registers pending, POP.TRY answers at once; a queue offers its lowest returned entry, else the next, and a bound one the crew's
own lowest; a dispatch writes the entry and the lease and moves the indices; PUSH fills the next slot or finds the queue full;
FIN finishes an entry; head stops at the lowest unfinished one; QSTAT, QCTL, the governor and notices.  Of two waiting POPs
outside deterministic launches the one that began earlier is served first, of those that began in one clk the one of the lower
logical team index, then of the lower CREWID.  The model's readings (DEDUCED): which waiting POPs are compared (log entry 17);
POP.TRY looks past them (18); operand bits that FIN, QSTAT and QCTL ignore (19); the governor's pair and team (23, 123); any
enabled queue sends its message (25); a clk common to all cores is a cycle of the base-die clock (103).  Its choices (DESIGN
CHOICE): an invalid witness reports 0 (99); the POP of a crew that has ended is served (124); a PUSH reaches its queue in the
step that issues it (140). -/
def Obligations.TaskQueues : Prop :=
  (∀ (s : State) (c : Ctx) (d a : BitVec 6) (sel : Word), sel = c.crew.u a.toNat → Issues (formOf (.pop d a)) s c →
    (((sel = 512#32 ∧ c.launch.det = false) ∨ ∃ q, sel.toNat < 512 ∧ s.declared c.launch.id sel.toNat = some q ∧
        (8 ≤ sel.toNat ∨ c.launch.priv = true) ∧ (c.launch.det = true → q.bound ≠ none) ∧
        (q.bound = none ∨ q.bound = some c.team.type)) →
      ∃ t, exec (.pop d a) s = .next t ∧ Sent s t c
        { c.crew with pop := some ⟨s.serial, d, sel, s.serial, s.dev.bclk, c.grp.first, c.ent.mask, c.next, false⟩ } .pop none
        (some ⟨d.setWidth 7, 2⟩) c.act [] (fun _ => .home 0)
        ((List.range 8).map PReg.u ++ [.u d.toNat, .u (d.toNat + 1)])) ∧
    (512 < sel.toNat → exec (.pop d a) s = .next (s.takeTrap { cause := 1 }).ran) ∧
    (sel = 512#32 → c.launch.det = true → exec (.pop d a) s = .next (s.takeTrap { cause := 5 }).ran) ∧
    (sel.toNat < 512 → (s.declared c.launch.id sel.toNat = none ∨ (sel.toNat < 8 ∧ c.launch.priv = false)) →
      exec (.pop d a) s = .next (s.takeTrap { cause := 6 }).ran) ∧
    (∀ q, sel.toNat < 512 → s.declared c.launch.id sel.toNat = some q → (8 ≤ sel.toNat ∨ c.launch.priv = true) →
      ((c.launch.det = true ∧ q.bound = none) ∨ ∃ ty, q.bound = some ty ∧ ty ≠ c.team.type) →
      exec (.pop d a) s = .next (s.takeTrap { cause := 6 }).ran)) ∧
  (∀ (s : State) (c : Ctx) (d a : BitVec 6) (sel : Word), sel = c.crew.u a.toNat → Issues (formOf (.popTry d a)) s c →
    (512 < sel.toNat → exec (.popTry d a) s = .next (s.takeTrap { cause := 1 }).ran) ∧
    (sel.toNat ≤ 512 → c.launch.det = true → exec (.popTry d a) s = .next (s.takeTrap { cause := 5 }).ran) ∧
    (sel.toNat < 512 → c.launch.det = false → (s.declared c.launch.id sel.toNat = none ∨ (sel.toNat < 8 ∧ c.launch.priv = false) ∨
        ∃ q ty, s.declared c.launch.id sel.toNat = some q ∧ q.bound = some ty ∧ ty ≠ c.team.type) →
      exec (.popTry d a) s = .next (s.takeTrap { cause := 6 }).ran)) ∧
  (∀ (s : State) (l : Launch) (k : CrewKey) (q : Queue),
    (q.bound = none →
      (∀ i ∈ q.returned, (∀ j ∈ q.returned, j = i ∨ (i - q.head).toNat < (j - q.head).toNat) → s.offer l k q = some i) ∧
      (q.returned = [] → s.offer l k q = if q.next = q.tail then none else some q.next)) ∧
    (∀ ty, q.bound = some ty →
      (∀ i, s.offer l k q = some i ↔ OpenTo s l k q ty i ∧ ∀ j, OpenTo s l k q ty j → (i - q.head).toNat ≤ (j - q.head).toNat) ∧
      (s.offer l k q = none ↔ ∀ i, ¬ OpenTo s l k q ty i))) ∧
  (∀ (s : State) (c : Ctx) (d a : BitVec 6) (sel : Word), sel = c.crew.u a.toNat → Issues (formOf (.popTry d a)) s c →
    c.launch.det = false → s.sound = true →
    (sel = 512#32 ∨ ∃ q, sel.toNat < 512 ∧ s.declared c.launch.id sel.toNat = some q ∧
      (8 ≤ sel.toNat ∨ c.launch.priv = true) ∧ (q.bound = none ∨ q.bound = some c.team.type)) →
    (s.chosen c.launch c.team c.crew.key sel = none →
      exec (.popTry d a) s = .next (c.done s ((c.crew.putU d.toNat 0#32).putU (d.toNat + 1) 0#32))) ∧
    (∀ q i, s.chosen c.launch c.team c.crew.key sel = some (q, i) → ¬ EntryPoisoned s q i →
      (s.lineMeta (q.at i / 128)).bad = 0#4 → ∃ u, exec (.popTry d a) s = .next u ∧
        Dispatched s u c.n (c.crew.advance c.grp c.next) c.team c.launch d q i)) ∧
  (∀ (s : State) (n : Nat) (cr : Crew) (p : PopWait) (t : Team) (l : Launch) (q : Queue) (i : Word), s.sound = true →
    s.crews[n]? = some cr → s.popReady cr = some (p, t, l) →
    (l.det = false → ∀ x ∈ s.crews, ∀ y u m, s.popReady x = some (y, u, m) → m.det = false → PopEarlier y u x.key p t cr.key →
      s.chosen m u x.key y.sel = none) → s.chosen l t cr.key p.sel = some (q, i) →
    (¬ EntryPoisoned s q i → (s.lineMeta (q.at i / 128)).bad = 0#4 → ∃ u, exec (.dispatch n) s = .next u ∧
      u.opOf p.op = none ∧ Dispatched s u n { cr.unmark p.op with pop := none } t l p.dest q i) ∧
    (EntryPoisoned s q i → ∃ u, exec (.dispatch n) s = .next u ∧ u.mem.bytes = s.mem.bytes ∧
      (∀ x ∈ u.teams, x.key = t.key → ⟨q.num, i⟩ ∈ x.leases) ∧
      ∀ g ∈ u.gangs, g.launch = cr.key.team.launch → g.num = cr.key.team.gang → g.kill.isSome = true)) ∧
  (∀ (s : State) (n : Nat) (cr x : Crew) (p y : PopWait) (t u : Team) (l m : Launch), s.crews[n]? = some cr →
    s.popReady cr = some (p, t, l) → l.det = false → x ∈ s.crews → s.popReady x = some (y, u, m) → m.det = false →
    PopEarlier y u x.key p t cr.key → (s.chosen m u x.key y.sel).isSome = true →
    exec (.dispatch n) s = .refused .notEnabled) ∧
  (∀ (s : State) (l : Launch) (t : Team) (k : CrewKey) (sel : Word) (q : Queue) (i : Word),
    s.chosen l t k sel = some (q, i) → t.leases.length < 64 ∧ q ∈ s.queues ∧ q.launch = l.id ∧ q.num ≠ 7 ∧
      s.offer l k q = some i ∧ (sel.getLsbD 9 = true → q.role = t.nextRole) ∧
      (sel.getLsbD 9 = false → q.num = sel.toNat % 512) ∧
      ∀ r ∈ s.named l t sel, (s.offer l k r).isSome = true → r.prio ≤ q.prio ∧
        (r.prio = q.prio → (q.num + 512 - Cells.get 0 s.dev.rp q.prio) % 512 ≤
          (r.num + 512 - Cells.get 0 s.dev.rp q.prio) % 512)) ∧
  (∀ (s : State) (c : Ctx) (d a : BitVec 6) (n : Nat) (q : Queue), n = (c.crew.u (a.toNat + 8)).toNat →
    Issues (formOf (.push d a)) s c →
    (512 ≤ n ∨ c.crew.u (a.toNat + 9) ≠ 0#32 → exec (.push d a) s = .next (s.takeTrap { cause := 1 }).ran) ∧
    (n < 512 → c.crew.u (a.toNat + 9) = 0#32 →
      (witOk (c.crew.u64 (a.toNat + 10)) = false → exec (.push d a) s = .next (s.takeTrap { cause := 4 }).ran) ∧
      (witOk (c.crew.u64 (a.toNat + 10)) = true →
        ((n < 8 ∧ (c.launch.priv = false ∨ (n ≠ 2 ∧ n ≠ 7))) ∨ (n ≠ 7 ∧ s.declared c.launch.id n = none) ∨
            (n = 7 ∧ s.queueOf 7 = none) → exec (.push d a) s = .next (s.takeTrap { cause := 6 }).ran) ∧
        ((n = 7 ∧ c.launch.priv = true ∧ s.queueOf 7 = some q) ∨
            ((8 ≤ n ∨ (n = 2 ∧ c.launch.priv = true)) ∧ s.declared c.launch.id n = some q) →
          (q.full = true → exec (.push d a) s =
            .next (c.done s ((c.crew.putU d.toNat 1#32).putU (d.toNat + 1) q.tail))) ∧
          (q.full = false → SlotClean s (q.at q.tail) → ∃ t, exec (.push d a) s = .next t ∧
            Written s t (q.at q.tail) ((List.range 32).map (fun k =>
              BitVec.ofNat 8 ((c.crew.u (a.toNat + k / 4)).toNat / 2 ^ (8 * (k % 4))))) ∧
            (t.lineMeta (q.at q.tail / 128)).ver = (s.lineMeta (q.at q.tail / 128)).ver + 1#12 ∧
            t.queues = (s.withQueue n (fun x => { x with tail := x.tail + 1#32 })).queues ∧
            t.dev.out = s.dev.out ++ (if (Cells.get 0#32 s.dev.msix n).getLsbD 7 = true then
              [OutMsg.msix ((Cells.get 0#32 s.dev.msix n).setWidth 6)] else []) ∧
            (n ≠ 2 → t.crews = (c.done s ((c.crew.putU d.toNat 0#32).putU (d.toNat + 1) q.tail)).crews)))))) ∧
  (∀ (s : State) (c : Ctx) (a : BitVec 6) (w : Word) (x : Lease), w = c.crew.u (a.toNat + 1) →
    x = ⟨w.toNat % 512, c.crew.u a.toNat⟩ → Issues (formOf (.fin a)) s c →
    (w.getLsbD 31 = true → x ∈ c.team.leases → exec (.fin a) s = .next { (c.done s c.crew).withQueue x.queue
      (fun q => q.finish x.index) with
        teams := s.teams.map (fun t => if t.key = c.team.key then { t with leases := t.leases.erase x } else t) }) ∧
    (w.getLsbD 31 = false ∨ x ∉ c.team.leases → exec (.fin a) s = .next (s.takeTrap { cause := 6 }).ran)) ∧
  (∀ (q : Queue) (i : Word), (q.finish i).head ∉ (q.finish i).finished ∧ (q.finish i).tail = q.tail ∧
    (q.head ≠ i → q.head ∉ q.finished → q.finish i = { q with finished := q.finished ++ [i] }) ∧
    (q.head = i → i ∉ q.finished → i + 1#32 ∉ q.finished → q.finish i = { q with head := i + 1#32 })) ∧
  (∀ (s : State) (c : Ctx) (d a : BitVec 6) (n : Nat), n = (c.crew.u a.toNat).toNat % 512 →
    Issues (formOf (.qstat d a)) s c →
    ((n < 8 ∧ c.launch.priv = false) ∨ (if n = 7 then s.queueOf 7 else s.declared c.launch.id n) = none →
      exec (.qstat d a) s = .next (s.takeTrap { cause := 6 }).ran) ∧
    ((8 ≤ n ∨ c.launch.priv = true) → ∀ q, (if n = 7 then s.queueOf 7 else s.declared c.launch.id n) = some q →
      exec (.qstat d a) s = .next (c.done s ((c.crew.putU d.toNat
        (BitVec.ofNat 32 ((q.tail - q.next).toNat + q.returned.length))).putU (d.toNat + 1) q.head)))) ∧
  (∀ (s : State) (c : Ctx) (a b : BitVec 6) (n : Nat) (v : Word), n = (c.crew.u a.toNat).toNat % 512 →
    v = c.crew.u (a.toNat + 1) → Issues (formOf (.qctl a b)) s c → (b = 0#6 → v.toNat < 8) →
    (b = 1#6 → v.toNat < 16 ∧ c.launch.det = false) → (b = 3#6 → v.toNat < 2) →
    ((n < 8 ∧ c.launch.priv = false) ∨ n = 7 ∨ s.declared c.launch.id n = none) →
    exec (.qctl a b) s = .next (s.takeTrap { cause := 6 }).ran) ∧
  (∀ (s : State) (c : Ctx) (a b : BitVec 6) (n : Nat) (v : Word) (q : Queue), n = (c.crew.u a.toNat).toNat % 512 →
    v = c.crew.u (a.toNat + 1) → Issues (formOf (.qctl a b)) s c → (8 ≤ n ∨ (c.launch.priv = true ∧ n < 7)) →
    s.declared c.launch.id n = some q →
    (b = 0#6 → (v.toNat < 8 → exec (.qctl a b) s =
        .next ((c.done s c.crew).withQueue n (fun x => { x with prio := v.toNat }))) ∧
      (8 ≤ v.toNat → exec (.qctl a b) s = .next (s.takeTrap { cause := 1 }).ran)) ∧
    (b = 1#6 → (v.toNat < 16 → c.launch.det = false → exec (.qctl a b) s =
        .next ((c.done s c.crew).withQueue n (fun x => { x with role := v.setWidth 4 }))) ∧
      (16 ≤ v.toNat → exec (.qctl a b) s = .next (s.takeTrap { cause := 1 }).ran) ∧
      (v.toNat < 16 → c.launch.det = true → exec (.qctl a b) s = .next (s.takeTrap { cause := 5 }).ran)) ∧
    (b = 2#6 → (v.toNat % 65536 < v.toNat / 65536 ∧ v.toNat / 65536 ≤ 2 ^ q.lg → exec (.qctl a b) s =
        .next ((c.done s c.crew).withQueue n (fun x => { x with
          low := v.toNat % 65536
          high := v.toNat / 65536 }))) ∧
      (v.toNat / 65536 ≤ v.toNat % 65536 ∨ 2 ^ q.lg < v.toNat / 65536 →
        exec (.qctl a b) s = .next (s.takeTrap { cause := 6 }).ran)) ∧
    (b = 3#6 → (v.toNat < 2 → exec (.qctl a b) s =
        .next ((c.done s c.crew).withQueue n (fun x => { x with governed := decide (v = 1#32) }))) ∧
      (2 ≤ v.toNat → exec (.qctl a b) s = .next (s.takeTrap { cause := 1 }).ran))) ∧
  (∀ (s : State) (l : Launch) (x y : Queue) (t : Team), s.launchOf l.id = some l → l.gov = true → l.det = false →
    s.queues.Pairwise (fun p q => p.num ≠ q.num) → Calls s l x y t →
    (∀ p q u, Calls s l p q u → x.num < p.num ∨ (x.num = p.num ∧ y.num ≤ q.num)) →
    (t.mark = none ∧ t.role = y.role ∧ ∀ u ∈ s.teams, u.key.launch = l.id → u.st ≠ .ended → u.role = y.role → u.mark = none →
      (∃ ty, l.types[u.type]? = some ty ∧ ty.rmask.getLsbD x.role.toNat = true) → t.index ≤ u.index) ∧
    exec (.roleGovernor l.id) s = .next { s with
      teams := s.teams.map (fun u => if u.key = t.key then { u with mark := some x.role } else u)
      queues := s.queues.map (fun q => if q.num = x.num ∨ q.num = y.num then { q with govAt := some s.dev.bclk } else q) }) ∧
  (∀ (s : State) (n : Nat) (h : Nat × List Byte) (q : Queue), n < 7 → s.dev.held.find? (fun x => decide (x.1 = n)) = some h →
    h.2.length = 32 → s.queueOf n = some q →
    (q.full = true → exec (.noticeAppend n) s = .refused .notEnabled) ∧
    (q.full = false → SlotClean s (q.at q.tail) → ∃ t, exec (.noticeAppend n) s = .next t ∧
      Written s t (q.at q.tail) (h.2.take 2 ++ leBytes 2 (Cells.get 0 s.dev.lost n) ++ h.2.drop 4) ∧
      t.queues = (s.withQueue n (fun x => { x with tail := x.tail + 1#32 })).queues ∧
      t.dev.held = s.dev.held.erase h ∧ t.dev.lost = Cells.set 0 s.dev.lost n 0))

/-- R333 to R340, R343, R358, R359: a request is taken in order and refused, its completion entry written
over its slot, or waits to be placed; each of its logical clusters takes, in ascending order, the first physical cluster from
its own number upward, modulo 32, that fits; a placed one starts, its granted vault units zeroed, its rings emptied and its
heats opened, with its teams, their tiles and regions, and its crews as they begin, a crew's reservation base the sum of the
counts of the crews before it by logical team index (`id'` is a team's TEAMID) and CREWID (R258); a launch that is over
appends its completion entry and releases what it
held.  `num` is a little-endian field at an offset of the record; the checks of its fields and tables, and each reason of R339,
are said in numbers; what `mapHeats` translates is named only.  The model's own: that the identifiers are one more each time
(log entry 5, DESIGN CHOICE), what the end of a launch waits for beside the teams (log entry 24, DEDUCED), that it sends the
message of any enabled queue (log entry 25, DEDUCED), that the other reasons are evaluated where a granule is poisoned, and
the lowest wins (log entry 73, DEDUCED), the tag of a refused record (log entry 72, DEDUCED), that a heat's pages are walked
at the request and at the start (log entry 74, DEDUCED), that the counters of RSLV.STAT start again with the launch
(log entry 76, DEDUCED), that a heat descriptor's zero bytes are checked (log entry 94, DEDUCED), and that a heat may reach
the vaults granted to its launch (log entry 104, DEDUCED). -/
def Obligations.LaunchSteps : Prop :=
  (∀ (s : State) (q : Queue) (r : Nat) (tag : Word), s.dev.ready = true → s.request = none → s.queueOf 7 = some q →
    q.next ≠ q.tail → SlotClean s (q.at q.next) → r = s.numAt (q.at q.next + 8) 8 → tag = s.wordAt (r + 0x24) →
    ((EntryPoisoned s q q.next ∨ readByte s.mem.bytes (q.at q.next) ≠ 8#8) →
      ∃ t, exec .launchRequest s = .next t ∧ t.request = none ∧ t.launches = s.launches ∧ t.crews = s.crews ∧
        Written s t (q.at q.next) (completion 0#32 0#32 1 8 0 0 0) ∧
        t.queues = (s.withQueue 7 (fun x => ({ x with next := x.next + 1#32 } : Queue).finish q.next)).queues) ∧
    (¬ EntryPoisoned s q q.next → readByte s.mem.bytes (q.at q.next) = 8#8 → MemoryClean s →
      (r + 256 ≤ Config.mainBytes → r % 4096 ≠ 0 ∨ s.headerOk r = false ∨ s.tablesOk r = false →
        ∃ t, exec .launchRequest s = .next t ∧ t.request = none ∧ t.launches = s.launches ∧
          Written s t (q.at q.next) (completion 0#32 tag 1 1 0 0 0) ∧
          t.queues = (s.withQueue 7 (fun x => ({ x with next := x.next + 1#32 } : Queue).finish q.next)).queues) ∧
      (r + 256 ≤ Config.mainBytes → r % 4096 = 0 → s.headerOk r = true → s.tablesOk r = true →
        (∀ n rest, (s.reasons r false).2 = n :: rest → ∃ t, exec .launchRequest s = .next t ∧ t.request = none ∧
          t.launches = s.launches ∧ Written s t (q.at q.next) (completion 0#32 tag 1 n 0 0 0) ∧
          t.queues = (s.withQueue 7 (fun x => ({ x with next := x.next + 1#32 } : Queue).finish q.next)).queues) ∧
        ((s.reasons r false).2 = [] → ∃ t, exec .launchRequest s = .next t ∧ t.mem.bytes = s.mem.bytes ∧
          t.request = some ⟨q.next, s.launchAt r, (s.entriesOf r 2).map s.queueAt⟩ ∧ t.launches = s.launches ∧
          t.queues = (s.withQueue 7 (fun x => { x with next := x.next + 1#32 })).queues)))) ∧
  (∀ (s : State) (r : Nat) (num : Nat → Nat → Nat) (l : Launch) (ts : List (Nat × Nat × Nat)),
    (∀ o k, num o k = ((List.range k).map (fun i => (readByte s.mem.bytes (r + o + i)).toNat * 256 ^ i)).sum) →
    ts = [(num 0x60 4, 256 * num 0x2A 1, 64), (num 0x64 4, 8 * num 0x3A 2, 8), (num 0x68 4, 32 * num 0x2B 1, 32),
      (num 0x6C 4, 16 * num 0x2C 1, 16), (num 0x70 4, 48 * num 0x2D 1, 8), (num 0x74 4, 8 * num 0x2E 1, 8)] →
    l = s.launchAt r →
    (∀ o k, s.numAt (r + o) k = num o k) ∧
    (s.headerOk r = true ↔ num 0 8 % 4 = 0 ∧ num 0x10 8 % 65536 = 0 ∧ num 0x20 4 < 32 ∧ num 0x28 2 ≤ 255 ∧
      (1 ≤ num 0x2A 1 ∧ num 0x2A 1 ≤ 8) ∧ num 0x2B 1 ≤ 64 ∧ num 0x2C 1 ≤ 64 ∧ num 0x2D 1 ≤ 16 ∧ num 0x2E 1 ≤ 128 ∧
      num 0x2F 1 = 0 ∧ (8 ≤ num 0x38 2 ∧ num 0x38 2 ≤ 511) ∧ (1 ≤ num 0x3A 2 ∧ num 0x3A 2 ≤ 2048) ∧ num 0x3C 4 = 0 ∧
      num 0x78 4 % 4 = 0 ∧ num 0x78 4 ≤ 2 ^ 26 ∧ num 0x7C 132 = 0) ∧
    (s.tablesOk r = true ↔ (∀ t ∈ ts, t.1 % t.2.2 = 0) ∧
      (∀ t ∈ ts, t.2.1 ≠ 0 → 256 ≤ t.1 ∧ t.1 + t.2.1 ≤ 2 ^ 20 ∧ r + t.1 + t.2.1 ≤ Config.mainBytes) ∧
      ts.Pairwise (fun a b => a.2.1 ≠ 0 → b.2.1 ≠ 0 → a.1 + a.2.1 ≤ b.1 ∨ b.1 + b.2.1 ≤ a.1) ∧
      num 0x10 8 + 65536 ≤ Config.mainBytes) ∧
    (l.codebase = num 0 8 ∧ l.database = num 8 8 ∧ l.pt0 = num 0x10 8 ∧ l.seed = BitVec.ofNat 64 (num 0x18 8) ∧
      l.det = (num 0x20 4).testBit 0 ∧ l.prot = (num 0x20 4).testBit 1 ∧ l.priv = (num 0x20 4).testBit 2 ∧
      l.gov = (num 0x20 4).testBit 3 ∧ l.vzero = (num 0x20 4).testBit 4 ∧ l.tag = BitVec.ofNat 32 (num 0x24 4) ∧
      l.retry = num 0x28 2 ∧ l.rings = BitVec.ofNat 64 (num 0x30 8) ∧ l.cq = num 0x38 2 ∧ l.codelen = num 0x78 4 ∧
      l.args = (List.range 8).map (fun i => BitVec.ofNat 32 (num (0x40 + 4 * i) 4))) ∧
    l.types = (List.range (num 0x2A 1)).map (fun i => s.typeAt (r + num 0x60 4 + 256 * i)) ∧
    l.places = (List.range (num 0x3A 2)).map (fun i => s.placeAt (r + num 0x64 4 + 8 * i)) ∧
    (s.entriesOf r 2).map s.queueAt = (List.range (num 0x2B 1)).map (fun i => s.queueAt (r + num 0x68 4 + 32 * i)) ∧
    l.dvs = (List.range (num 0x2C 1)).map (fun i => s.dvAt (r + num 0x6C 4 + 16 * i)) ∧
    l.heats = (List.range (num 0x2D 1)).map (fun i => s.heatAt (r + num 0x70 4 + 48 * i)) ∧
    l.grants = (List.range (num 0x2E 1)).map (fun i => s.grantAt (r + num 0x74 4 + 8 * i)) ∧
    (∀ (ty : TeamType) (b : Nat), b = num 9 1 → ty = s.typeAt r →
      (ty.pc = BitVec.ofNat 32 (num 0 4) ∧ ty.prio = BitVec.ofNat 6 (num 4 1) ∧ ty.crews = num 5 1 ∧ ty.quota = num 6 1 ∧
        ty.spu = num 7 1 ∧ ty.accu = num 8 1 ∧ ty.role = BitVec.ofNat 4 b ∧ ty.rmask = BitVec.ofNat 16 (num 10 2) ∧
        ty.resv = BitVec.ofNat 32 (num 12 4) ∧ ty.tiles = (List.range 32).map (fun i => BitVec.ofNat 32 (num (0x40 + 4 * i) 4)) ∧
        ty.accs = (List.range 16).map (fun i => BitVec.ofNat 32 (num (0xC0 + 4 * i) 4))) ∧
      (s.typeOk r = true ↔ num 0 4 % 4 = 0 ∧ num 4 1 ≤ 63 ∧ (1 ≤ num 5 1 ∧ num 5 1 ≤ 32) ∧ (1 ≤ num 6 1 ∧ num 6 1 ≤ 12) ∧
        num 7 1 ≤ 62 ∧ num 8 1 ≤ 16 ∧ b ≤ 15 ∧ (num 10 2).testBit b = true ∧ num 0x10 48 = 0)) ∧
    (∀ n, s.placeAt r = ⟨num 0 1, num 1 1, num 2 2, num 4 1⟩ ∧
      (s.placeOk n r = true ↔ num 1 1 < n ∧ num 4 1 ≤ 7 ∧ num 5 3 = 0)) ∧
    (∀ (q : Queue) (priv : Bool) (n : Nat), q = s.queueAt r →
      (q.num = num 0 2 ∧ q.lg = num 2 1 ∧ q.prio = num 3 1 ∧ q.role = BitVec.ofNat 4 (num 4 1) ∧
        q.hostVis = (num 5 1).testBit 0 ∧ q.governed = (num 5 1).testBit 1 ∧
        q.bound = (if (num 5 1).testBit 2 = true then some (num 6 1) else none) ∧ q.ring = num 8 8 ∧ q.low = num 0x10 4 ∧
        q.high = num 0x14 4 ∧ q.head = 0#32 ∧ q.tail = 0#32 ∧ q.next = 0#32 ∧ q.returned = [] ∧ q.finished = []) ∧
      (s.queueOk priv n r = true ↔ ((8 ≤ num 0 2 ∧ num 0 2 ≤ 511) ∨ (priv = true ∧ num 0 2 ≤ 6)) ∧
        (4 ≤ num 2 1 ∧ num 2 1 ≤ 20) ∧ num 3 1 ≤ 7 ∧ num 4 1 ≤ 15 ∧ num 5 1 < 8 ∧
        ((num 5 1).testBit 2 = true → num 6 1 < n) ∧ num 7 1 = 0 ∧ num 8 8 % (32 * 2 ^ num 2 1) = 0 ∧
        num 8 8 + 32 * 2 ^ num 2 1 ≤ Config.mainBytes ∧ num 0x10 4 < num 0x14 4 ∧ num 0x14 4 ≤ 2 ^ num 2 1 ∧
        num 0x18 8 = 0)) ∧
    s.dvAt r = ⟨num 0 8, num 8 8 / 2 * 2, decide (num 8 8 % 2 = 1)⟩ ∧
    s.grantAt r = ⟨num 0 1, num 2 1, num 3 1⟩ ∧
    (s.grantOk r = true ↔ num 0 1 ≤ 127 ∧ num 1 1 = 0 ∧ num 2 1 ≤ 191 ∧ 1 ≤ num 3 1 ∧ num 2 1 + num 3 1 ≤ 192 ∧
      num 4 4 = 0) ∧
    (∀ h, h = s.heatAt r → (h.ext = num 0 8 ∧ h.len = num 8 8 ∧ h.op = num 16 1 ∧ h.rm = BitVec.ofNat 3 (num 17 1) ∧
        h.np = num 20 4 ∧ h.spill = num 24 8 ∧ h.spillb = num 32 8 ∧ h.closed = [] ∧ h.merged = false) ∧
      (s.heatOk r = true ↔ num 16 1 ≤ 4 ∧ num 17 1 ≤ 4 ∧ num 18 2 = 0 ∧ num 20 4 ≤ 65535 ∧ num 40 8 = 0 ∧
        num 0 8 % 128 = 0 ∧ (1 ≤ num 8 8 ∧ num 8 8 ≤ 2 ^ 40) ∧ num 8 8 % heatSize (num 16 1) = 0 ∧ num 24 8 % 128 = 0 ∧
        num 32 8 % 32 = 0 ∧ 96 ≤ num 32 8 ∧ num 0 8 + num 8 8 ≤ 2 ^ 56 ∧
        num 24 8 + num 32 8 ≤ 2 ^ 56))) ∧
  (∀ (s : State) (r : Nat) (foul : Bool) (l : Launch) (qs : List Queue) (on : Nat → List TeamType), l = s.launchAt r →
    qs = (s.entriesOf r 2).map s.queueAt →
    (∀ k, on k = (l.places.filter (fun p => decide (p.lcore = k))).filterMap (fun p => l.types[p.type]?)) →
    (s.reasons r foul).2.Pairwise (· < ·) ∧ ∀ n, n ∈ (s.reasons r foul).2 ↔
      (n = 1 ∧ ((∃ a ∈ s.entriesOf r 0, s.typeOk a = false) ∨ (∃ a ∈ s.entriesOf r 1, s.placeOk l.types.length a = false) ∨
        (∃ a ∈ s.entriesOf r 2, s.queueOk l.priv l.types.length a = false) ∨ (∃ a ∈ s.entriesOf r 5, s.grantOk a = false) ∨
        ((∀ q ∈ qs, q.num ≠ l.cq) ∧ ∀ q ∈ s.queues, q.num = l.cq → q.hostVis = false))) ∨
      (n = 2 ∧ ((∃ k < 256, (∃ p ∈ l.places, p.lcore = k) ∧ (8 < (on k).length ∨ 32 < ((on k).map (·.crews)).sum ∨
          256 < ((on k).map (fun t => t.crews * t.quota)).sum ∨ 62 < ((on k).map (·.spu)).sum ∨
          16 < ((on k).map (·.accu)).sum)) ∨
        ¬ l.places.Pairwise (fun a b => a.gang = b.gang →
          a.lcore ≠ b.lcore ∧ a.lcore / 8 = b.lcore / 8 ∧ a.pos ≠ b.pos))) ∨
      (n = 3 ∧ ∃ ty ∈ l.types, (∃ d ∈ ty.tiles, d ≠ 0xFFFFFFFF#32 ∧ tileLegal (4096 * ty.spu) [] d = false) ∨
        ¬ (ty.tiles.filter (fun d => decide (d ≠ 0xFFFFFFFF#32))).Pairwise (fun a b =>
          tileBase a + tileBytes a ≤ tileBase b ∨ tileBase b + tileBytes b ≤ tileBase a) ∨
        (∃ d ∈ ty.accs, d ≠ 0xFFFFFFFF#32 ∧
          ¬ (d.toNat / 2 ^ 11 % 64 = 0 ∧ regBase d + regTotal d ≤ 4096 * ty.accu))) ∨
      (n = 4 ∧ ((∃ d ∈ l.dvs, d.base % 65536 ≠ 0 ∨ d.len % 65536 ≠ 0 ∨ d.len = 0 ∨ Config.windowBase < d.base + d.len) ∨
        ¬ l.dvs.Pairwise (fun a b => a.base + a.len ≤ b.base ∨ b.base + b.len ≤ a.base) ∨
        (∃ a ∈ s.entriesOf r 4, s.heatOk a = false) ∨ (s.mapHeats l l.heats).2 = none)) ∨
      (n = 5 ∧ (¬ qs.Pairwise (fun a b => a.num ≠ b.num) ∨ (∃ q ∈ qs, ∃ x ∈ s.queues, x.num = q.num) ∨
        ∃ x ∈ s.launches, ∃ k, x.rings.getLsbD k = true ∧ l.rings.getLsbD k = true)) ∨
      (n = 6 ∧ ∃ q ∈ qs, ∃ ty, q.bound = some ty ∧ ∃ k < 256, (∃ p ∈ l.places, p.lcore = k) ∧
        ∀ p ∈ l.places, p.lcore = k → p.type ≠ ty) ∨
      (n = 7 ∧ l.priv = true ∧ ∃ x ∈ s.launches, x.priv = true) ∨ (n = 8 ∧ foul = true)) ∧
  (∀ (s : State) (r : Request) (q : Queue) (id : Word) (l : Launch), s.request = some r → s.queueOf 7 = some q →
    id = (if s.dev.nextLid = 0#32 then 1#32 else s.dev.nextLid) → l = { r.launch with id := id } →
    (s.placement r.launch = none → exec .launchStart s = .refused .notEnabled) ∧
    (∀ ps hs, s.placement r.launch = some ps → (State.mapHeats { s with request := none } l l.heats).2 = some hs →
      ∃ t l', exec .launchStart s = .next t ∧ t.request = none ∧ t.dev.nextLid = id + 1#32 ∧
        t.launches = s.launches ++ [l'] ∧
        l' = { l with
          heats := hs
          clusters := ps
          sliced := s.slicedOut l ps
          start := t.mem.history.length } ∧
        t.gangs = s.gangs ++ (l.places.map (·.gang)).eraseDups.map (Gang.start id) ∧
        t.queues = (s.queues ++ r.queues.map (fun (x : Queue) => { x with launch := id })).map (fun (x : Queue) =>
          if x.num = 7 then x.finish r.index else x) ∧
        (∀ (id' resv : Nat → Nat) (i : Nat) (p : Place) (ty : TeamType),
          (∀ j q, l.places[j]? = some q →
            id' j = ((l.places.take j).filter (fun x => decide (x.lcore = q.lcore))).length ∧
            resv j = match l.types[q.type]? with
              | some x => x.crews * x.resv.toNat
              | none => 0) →
          l.places[i]? = some p → l.types[p.type]? = some ty → ∃ tm ∈ t.teams, tm.key = ⟨id, p.gang, p.pos⟩ ∧
          tm.lcore = p.lcore ∧ tm.teamid = id' i ∧ tm.type = p.type ∧ tm.role = ty.role ∧ tm.scratch = [] ∧
          tm.scPoison = [] ∧ tm.acc = [] ∧ tm.points = [] ∧
          tm.leases = [] ∧ tm.st = (if l'.sliced.contains (p.lcore / 8) then .sliced else .running) ∧
          (∀ n d, ty.tiles[n]? = some d →
            Cells.get none tm.tiles n = if d = 0xFFFFFFFF#32 then none else some ⟨d, .empty, 0⟩) ∧
          (∀ n d, ty.accs[n]? = some d →
            Cells.get none tm.regions n = if d = 0xFFFFFFFF#32 then none else some d) ∧
          ∀ n < ty.crews, ∃ c ∈ t.crews, c.key = ⟨tm.key, n⟩ ∧ c.quota = ty.quota ∧ c.vregs = [] ∧ c.preds = [] ∧
            c.uregs = Cells.setAll 0#32 [] (l.args.zipIdx.map (fun a => (8 + a.2, a.1))) ∧ c.evec = 0#32 ∧ c.rm = 0#3 ∧
            c.flags = 0#5 ∧ c.resvCount = ty.resv ∧ c.running = 0#32 ∧
            ((∀ k, (l.places.filter (fun x => decide (x.lcore = k))).length ≤ 8) →
              l.places.Pairwise (fun a b => a.gang = b.gang → a.pos ≠ b.pos) →
              c.resvBase = BitVec.ofNat 32 (((List.range l.places.length).map (fun j =>
                if ∃ q, l.places[j]? = some q ∧ 8 * q.lcore + id' j < 8 * p.lcore + id' i then resv j else 0)).sum +
                n * ty.resv.toNat)) ∧ ∃ e, c.entries = [e] ∧ e.pc = ty.pc ∧ e.prio = ty.prio ∧
              e.mask = (if l.prot = true then 0xFFFF#32 else 0xFFFFFFFF#32)) ∧
        (∀ k, Cells.get [] t.dev.rings k = if l.rings.getLsbD k = true then [] else Cells.get [] s.dev.rings k) ∧
        (∀ k, Cells.get 0#32 t.dev.counts k = if ∃ tm ∈ t.teams.drop s.teams.length, tm.core = k / 8 then 0#32
          else Cells.get 0#32 s.dev.counts k) ∧
        (MemoryClean s → (∀ g ∈ l.grants, g.vault ≤ 127 ∧ g.unit + g.count ≤ 192) → (∀ h ∈ hs, h.spillAt 0 % 128 = 0) →
          ∀ zeroed : Nat → Prop, (∀ a, zeroed a ↔ (l.vzero = true ∧ ∃ g ∈ l.grants,
              Config.vaultBase + g.vault * Config.vaultSlot + 65536 * g.unit ≤ a ∧
              a < Config.vaultBase + g.vault * Config.vaultSlot + 65536 * (g.unit + g.count)) ∨
            ∃ h ∈ hs, h.spillAt 0 ≤ a ∧ a < h.spillAt 0 + 64) →
          ∀ a, (zeroed a → readByte t.mem.bytes a = 0#8) ∧
            (¬ zeroed a → readByte t.mem.bytes a = readByte s.mem.bytes a)))) ∧
  (∀ (s : State) (l : Launch) (ok : List (Nat × Nat) → Nat → Nat → Prop),
    (∀ pre c p, ok pre c p ↔ (l.lcoresIn c).length ≤ (s.coresOf p).length ∧
      (s.held p).length + (pre.filter (fun y => decide (y.2 = p))).length < 2) →
    (∀ ps, s.placement l = some ps → ps.map (·.1) = l.lclusters ∧
      ∀ pre c p post, ps = pre ++ (c, p) :: post → ok pre c p ∧
        ∃ k < 32, p = (c + k) % 32 ∧ ∀ j < k, ¬ ok pre c ((c + j) % 32)) ∧
    (s.placement l = none → ∃ ps c post, l.lclusters = ps.map (·.1) ++ c :: post ∧ ∀ p < 32, ¬ ok ps c p)) ∧
  (∀ (s : State) (l : Launch) (q : Queue), s.launchOf l.id = some l → s.launchOver l = true → s.noticeDue l.id = false →
    s.queueOf l.cq = some q → 8 ≤ l.cq →
    (q.full = true → exec (.launchEnd l.id) s = .refused .notEnabled) ∧
    (q.full = false → SlotClean s (q.at q.tail) → ∃ t, exec (.launchEnd l.id) s = .next t ∧
      Written s t (q.at q.tail) (completion l.id l.tag (match l.endStatus with
        | some x => x.toNat
        | none => 0) 0 l.discarded l.relaunches (s.unfinished l.id)) ∧
      t.launches = s.launches.filter (fun x => decide (x.id ≠ l.id)) ∧
      t.teams = s.teams.filter (fun x => decide (x.key.launch ≠ l.id)) ∧
      t.crews = s.crews.filter (fun x => decide (x.key.team.launch ≠ l.id)) ∧
      t.gangs = s.gangs.filter (fun x => decide (x.launch ≠ l.id)) ∧
      t.queues = (s.withQueue l.cq (fun x => { x with tail := x.tail + 1#32 })).queues.filter
        (fun x => decide (x.num = 7 ∨ x.launch ≠ l.id)) ∧
      t.dev.out = s.dev.out ++ (if (Cells.get 0#32 s.dev.msix l.cq).getLsbD 7 = true
        then [.msix ((Cells.get 0#32 s.dev.msix l.cq).setWidth 6)] else []) ∧
      t.dev.rings = s.dev.rings ∧ (∀ o ∈ t.fl.ops, o.crew.team.launch ≠ l.id)))

/-- R86, R142, R287, R313, R351, R358, R362 to R366, R371 to R376, R344: what the control core does to a gang.  A kill ends its
teams, leaves their tiles undefined, returns its leases and posts the notice; a relaunch creates its teams anew, and a core to
which a team has moved loses its cached lines; a PREEMPT that comes too late is answered with its status,
a save leaves the images of the registers and the scratchpad in memory, a restore brings them back onto cores of the
cluster, a team that had ended as an ended one; a die reset kills with cause 11 and takes the die's cores away; at a task
boundary the logical clusters of a physical cluster change places, through the images of the device's own pool.  What the
model chooses here: accesses in flight at a kill (log entry 15, DEDUCED), the fate of a gang whose later cause is of another
class (38, DEDUCED), that a kill of cause 12 waits for the PREEMPTs handed over and any other answers them (78, DEDUCED), the statuses of a late PREEMPT (52, DESIGN CHOICE), the placement of a relaunch (79, DEDUCED), what a
save waits for (80, DESIGN CHOICE), which fields a restore reads (82 and 109, DEDUCED), the switch (83, DESIGN CHOICE) and
what a die reset drops (84, DESIGN CHOICE). -/
def Obligations.GangSteps : Prop :=
  (∀ (s : State) (i : Nat) (g : Gang) (k : KillInfo) (l : Launch), s.gangs[i]? = some g → g.kill = some k →
    s.launchOf g.launch = some l → (k.cause = 12#8 → g.todo = []) →
    ∃ t y, exec (.gangKill i) s = .next t ∧ t.mem = s.mem ∧ t.gangs[i]? = some y ∧ y.kill = none ∧ y.todo = [] ∧
      (g.fate l = 1 → y.st = .relaunchPending ∧ y.count = g.count + 1) ∧
      (g.fate l ≠ 1 → y.st = .ended ∧ y.count = g.count) ∧
      (∀ x ∈ t.teams, x.key.within g.launch g.num = true → x.st = .ended ∧ x.leases = [] ∧ ∀ n, x.tile n = none) ∧
      (∀ x ∈ t.crews, x.key.team.within g.launch g.num = true → x.entries = [] ∧ x.pend = [] ∧ x.group = none ∧
        x.stopped = true) ∧
      (∀ o ∈ t.fl.ops, o.crew.team.within g.launch g.num = false) ∧
      (∀ x ∈ t.fl.parks, x.crew.team.within g.launch g.num = false) ∧
      (∀ x ∈ s.teams, x.key.within g.launch g.num = true → ∀ e ∈ x.leases, ∀ q ∈ t.queues, q.num = e.queue →
        e.index ∈ q.returned) ∧
      ((s.dev.held.filter (fun h => decide (h.1 = 4))).length < 4096 →
        t.dev.held = s.dev.held ++ [(4, pad32 (k.notice g.launch g.num (g.fate l) y.count))]) ∧
      (∀ x ∈ t.launches, x.id = g.launch → g.fate l = 2 → x.endStatus.isSome = true)) ∧
  (∀ (s : State) (i : Nat) (g : Gang) (l l' : Launch), s.gangs[i]? = some g → s.launchOf g.launch = some l →
    g.st = .relaunchPending → g.kill = none → s.replace l (l.clusterOf g.num) g.num = some l' →
    allPairs gangPair l.places = true →
    (∀ tm ∈ (s.create l' (fun p => decide (p.gang = g.num))).1, tm.st = .sliced ∨ ∀ ty, l.types[tm.type]? = some ty →
      (needOf (ty :: s.typesAt tm.core g.launch g.num)).fits = true) →
    ∃ t y, exec (.gangRelaunch i) s = .next t ∧ t.mem = s.mem ∧ t.gangs[i]? = some y ∧ y = { g with st := .running } ∧
      ∀ p ∈ l.places, p.gang = g.num → ∀ ty, l.types[p.type]? = some ty →
        ∀ x ∈ t.teams, x.key = ⟨g.launch, p.gang, p.pos⟩ → x.lcore = p.lcore ∧ x.role = ty.role ∧ x.scratch = [] ∧
          x.leases = [] ∧ (x.st = .running ∨ x.st = .sliced) ∧
          (∀ o, s.teamOf x.key = some o → o.core ≠ x.core → (∀ y ∈ t.fl.l1, y.core ≠ x.core) ∧
            ∀ y ∈ t.fl.konst, y.core ≠ x.core) ∧
          ∀ c ∈ t.crews, c.key.team = x.key → c.key.crew < ty.crews → c.quota = ty.quota ∧ c.vregs = [] ∧
            c.stopped = false ∧ c.uregs = Cells.setAll 0#32 [] (l.args.zipIdx.map (fun a => (8 + a.2, a.1)))) ∧
  (∀ (s : State) (i n : Nat) (g : Gang) (p : PreemptOp) (rest : List PreemptOp), s.gangs[i]? = some g →
    g.todo = p :: rest → (∀ k, g.kill = some k → k.cause = 12#8) → s.preemptLate g p.save = some n →
    exec (if p.save then .gangSave i else .gangRestore i) s = .next (s.answered g p n 0)) ∧
  (∀ (s : State) (g : Gang) (save : Bool), s.preemptLate g save = (match g.st with
    | .ended => some 1
    | .relaunchPending => some 4
    | .saved _ _ => if save then some 2 else none
    | .running => if ∃ x ∈ s.teamsOf g.launch g.num, x.st = .sliced then some 4 else if save then none else some 2)) ∧
  (∀ (s : State) (g : Gang) (p : PreemptOp) (st size : Nat) (o : MOp) (c : Crew), s.opOf p.op = some o →
    s.crewOf p.crew = some c → g.kill = none → (g.todo.drop 1).any (·.save) = false → p.crew.team.launch ≠ g.launch →
    (s.answered g p st size).opOf p.op = none ∧ (s.answered g p st size).crewOf p.crew =
      some (((c.putU p.dest.toNat (BitVec.ofNat 32 st)).putU (p.dest.toNat + 1) (BitVec.ofNat 32 size)).unmark p.op) ∧
    (∀ x ∈ (s.answered g p st size).crews, x.key.team.within g.launch g.num = true → st ≠ 5 → (p.save = true → st ≠ 0) →
      x.stopped = x.entries.isEmpty)) ∧
  (∀ (s : State) (i : Nat) (g : Gang) (p : PreemptOp) (rest : List PreemptOp), s.gangs[i]? = some g → g.todo = p :: rest →
    p.save = true → g.kill = none → g.st = .running → s.slicedGang g = false → p.area % 4096 = 0 →
    s.quiet (fun k => k.within g.launch g.num) = true → MemoryClean s → p.crew.team.launch ≠ g.launch →
    (∀ x ∈ s.crews, x.key.team.within g.launch g.num = true → x.vbad = []) →
    (∀ x ∈ s.teams, x.key.within g.launch g.num = true → x.accBad = [] ∧ x.scBad = []) →
    (∀ x ∈ s.fl.parks, x.crew.team.within g.launch g.num = false) →
    ∃ t y, exec (.gangSave i) s = .next t ∧ t.gangs[i]? = some y ∧ y.st = .saved p.area false ∧ y.todo = rest ∧
      (∀ x ∈ t.teams, x.key.within g.launch g.num = true → x.st = .saved) ∧
      (∀ a, a < p.area → readByte t.mem.bytes a = readByte s.mem.bytes a) ∧
      (∀ k < 4096, readByte t.mem.bytes (p.area + k) = ((s.gangHeader g)[k]?).getD 0#8) ∧
      ∀ x ∈ (s.imagesOf g).1, (∀ a < 4096 * x.1.spu, readByte t.mem.bytes
          (p.area + x.2 + Team.scroff (s.crewsOf x.1.key) + a) = x.1.scratchAt a) ∧
        ∀ o ∈ (crewOffsets (s.crewsOf x.1.key)).1, ∀ c ∈ s.crewsOf x.1.key, c.key.crew = o.1 →
          (∀ d ∈ s.crewsOf x.1.key, d.key.crew = o.1 → d = c) →
          (∀ n < 64, t.wordAt (p.area + x.2 + o.2 + 0xA40 + 4 * n) = c.u n) ∧
          (∀ r < 8 * c.quota, ∀ k < 32, t.wordAt (p.area + x.2 + o.2 + 0xB80 + 128 * r + 4 * k) = c.v r k)) ∧
  (∀ (s : State) (i : Nat) (g : Gang) (p : PreemptOp) (rest : List PreemptOp) (a : Nat) (ts : List Team)
      (at0 : List (Team × Nat)), s.gangs[i]? = some g → g.todo = p :: rest → p.save = false → g.kill = none →
    g.st = .saved a false → ts = sortBy (fun (x y : Team) => decide (x.lcore < y.lcore)) (s.teamsOf g.launch g.num) →
    at0 = ts.zip (s.coresOf p.cluster) →
    ((ts.length ≤ (s.coresOf p.cluster).length ∧ ∀ x ∈ at0, ∃ l ty, s.launchOf g.launch = some l ∧
        l.types[x.1.type]? = some ty ∧ (needOf (ty :: s.typesAt x.2 g.launch g.num)).fits = true) →
      MemoryClean s → p.crew.team.launch ≠ g.launch → (s.teams.map (·.key)).Nodup → (s.crews.map (·.key)).Nodup →
      (∀ x ∈ (s.imagesOf g).1, s.numAt (p.area + x.2 + 0x600) 4 = 0) →
      ∃ t y, exec (.gangRestore i) s = .next t ∧ t.mem.bytes = s.mem.bytes ∧ t.gangs[i]? = some y ∧ y.st = .running ∧
        y.todo = rest ∧ ∀ x ∈ (s.imagesOf g).1, ∃ tm ∈ t.teams, tm.key = x.1.key ∧ tm.core ∈ s.coresOf p.cluster ∧
          ((∀ c ∈ t.crews, c.key.team = x.1.key → c.entries = []) → tm.st = .ended) ∧
          ((∃ c ∈ t.crews, c.key.team = x.1.key ∧ c.entries ≠ []) → tm.st = .running) ∧
          (∀ b < 4096 * x.1.spu, tm.scratchAt b =
            readByte s.mem.bytes (p.area + x.2 + Team.scroff (s.crewsOf x.1.key) + b)) ∧
          ∀ o ∈ (crewOffsets (s.crewsOf x.1.key)).1, ∀ c ∈ t.crews, c.key = ⟨x.1.key, o.1⟩ →
            (∀ n < 64, c.u n = s.wordAt (p.area + x.2 + o.2 + 0xA40 + 4 * n)) ∧
            ∀ r < 8 * c.quota, ∀ k < 32, c.v r k = s.wordAt (p.area + x.2 + o.2 + 0xB80 + 128 * r + 4 * k)) ∧
    ((s.coresOf p.cluster).length < ts.length → exec (.gangRestore i) s = .next (s.answered g p 3 0))) ∧
  (∀ (s : State) (die : Bool) (reason : BitVec 8), s.dev.power = true → reason.toNat ≤ 1 →
    (∀ x ∈ s.dev.diesDown, x.1 ≠ die.toNat) →
    ∃ t, exec (.dieReset die reason) s = .next t ∧ t.mem = s.mem ∧
      (∀ core, dieOf core = die.toNat → t.dev.coreOn core = false ∧ (∀ x ∈ t.fl.l1, x.core ≠ core) ∧
        (∀ x ∈ t.fl.konst, x.core ≠ core) ∧ (∀ x ∈ t.fl.tlb, x.loc ≠ core) ∧ (∀ x ∈ t.fl.parks, x.core ≠ core) ∧
        ∀ o ∈ t.fl.ops, o.core = core → ∀ r ∈ o.reqs, r.install = false) ∧
      (∀ (p : Nat) (x : Port), (p, x) ∈ s.dev.ports → p / 18 = die.toNat → x.trained = true → p ∈ t.dev.portsDown) ∧
      (∀ core, dieOf core ≠ die.toNat → t.dev.coreOn core = s.dev.coreOn core) ∧
      (∀ tm ∈ s.teams, dieOf tm.core = die.toNat → (tm.st = .running ∨ tm.st = .sliced) →
        ∀ g ∈ s.gangs, g.launch = tm.key.launch → g.num = tm.key.gang → g.kill = none →
        ∀ y ∈ t.gangs, y.launch = g.launch → y.num = g.num → (∀ z ∈ s.gangs, z.launch = g.launch → z.num = g.num → z = g) →
          ∃ k, y.kill = some k ∧ k.cause = 11#8)) ∧
  (∀ (s : State) (die : Bool) (us : BitVec 32) (x : Nat × Nat × Nat),
    s.dev.diesDown.find? (fun x => decide (x.1 = die.toNat)) = some x → us.toNat ≤ 3000000 →
    (s.dev.held.filter (fun h => decide (h.1 = 5))).length < 4096 →
    ((∀ g ∈ s.gangs, g.kill.isSome = true → ∀ tm ∈ s.teams, tm.key.within g.launch g.num = true → dieOf tm.core ≠ x.1) →
      (∀ p ∈ s.dev.portsDown, p / 18 ≠ x.1) → exec (.dieResetComplete die us) s = .next { s with dev := { s.dev with
        diesDown := s.dev.diesDown.filter (fun y => decide (y.1 ≠ x.1))
        held := s.dev.held ++ [(5, pad32 (noticeHead 6 0#32 ++ [BitVec.ofNat 8 x.1, BitVec.ofNat 8 x.2.1] ++
          leBytes 2 x.2.2 ++ leBytes 4 us.toNat))] } }) ∧
    ((∃ g ∈ s.gangs, g.kill.isSome = true ∧ ∃ tm ∈ s.teams, tm.key.within g.launch g.num = true ∧ dieOf tm.core = x.1) ∨
        (∃ p ∈ s.dev.portsDown, p / 18 = x.1) → exec (.dieResetComplete die us) s = .refused .notEnabled)) ∧
  (∀ (s : State) (cl : Nat), s.teamsIn cl .sliced = [] → exec (.timeSliceSwitch cl) s = .refused .notEnabled) ∧
  (∀ (s : State) (cl : Nat) (x : Team) (rest : List Team) (held : List (Launch × Nat)) (out back : TeamKey → Prop),
    s.teamsIn cl .sliced = x :: rest → s.coresOf cl ≠ [] →
    held = (s.held cl).filter (fun o => !(decide (o.1.id = x.key.launch) && decide (o.2 = x.lcore / 8))) →
    (∀ k, out k ↔ ∃ t ∈ s.teams, t.key = k ∧ clusterOf t.core = cl ∧ s.onCore t = true ∧
      ∃ o ∈ held, o.1.id = t.key.launch ∧ o.2 = t.lcore / 8) →
    (∀ k, back k ↔ ∃ t ∈ s.teams, t.key = k ∧ clusterOf t.core = cl ∧ t.key.launch = x.key.launch ∧
      t.lcore / 8 = x.lcore / 8 ∧ (t.st = .sliced ∨ (s.lingers t = true ∧ t.slice ≠ none))) →
    (∀ c : Crew, c.inPop = true ↔ ∃ p, c.pop = some p ∧ c.group = none ∧ c.wait = .free ∧
      ∀ e ∈ c.entries, e.blocked = true ∨ (e.hold = .free ∧ e.popWait = some p.op)) ∧
    ((∃ c ∈ s.crews, out c.key.team ∧ c.entries ≠ [] ∧ (c.inPop = false ∨ s.servable c = true)) →
      exec (.timeSliceSwitch cl) s = .refused .notEnabled) ∧
    ((s.teams.map (·.key)).Nodup → MemoryClean s →
      (∀ c ∈ s.crews, out c.key.team → c.vbad = [] ∧
        (c.entries = [] ∨ (c.inPop = true ∧ s.servable c = false ∧ c.stopped = false))) →
      (∃ c ∈ s.crews, back c.key.team ∧ c.entries ≠ [] ∧ (s.servable c = true ∨ c.started = false)) →
      (∀ p : TeamKey → Bool, (∀ k, p k = true ↔ out k) → s.quiet p = true) → (∀ p ∈ s.fl.parks, ¬ out p.crew.team) →
      (∀ y ∈ s.teams, out y.key → y.accBad = [] ∧ y.scBad = []) →
      (∀ y ∈ s.teams, back y.key → ∀ a, y.slice = some a → s.numAt (a + 0x600) 4 = 0) →
      ∃ t, exec (.timeSliceSwitch cl) s = .next t ∧ t.gangs = s.gangs ∧ t.queues = s.queues ∧
        (∀ a < Config.slicePool, readByte t.mem.bytes a = readByte s.mem.bytes a) ∧ (∀ y ∈ t.fl.l1, y.core ∉ s.coresOf cl) ∧
        (∀ y ∈ s.teams, ∃ z ∈ t.teams, z.key = y.key ∧
          (out y.key → (y.st = .running → z.st = .sliced) ∧ z.slice ≠ none ∧
            ((∀ w ∈ s.teams, out w.key → w.imageSize (s.crewsOf w.key) ≤ Config.sliceStride ∧
                (w.core = y.core → w.key = y.key)) → ∀ a, a = Config.slicePool + Config.sliceStride * y.core →
              z.slice = some a ∧
              (∀ b < 4096 * y.spu, readByte t.mem.bytes (a + Team.scroff (s.crewsOf y.key) + b) = y.scratchAt b) ∧
              ∀ o ∈ (crewOffsets (s.crewsOf y.key)).1, ∀ c ∈ s.crewsOf y.key, c.key.crew = o.1 →
                (∀ d ∈ s.crewsOf y.key, d.key.crew = o.1 → d = c) →
                (∀ n < 64, t.wordAt (a + o.2 + 0xA40 + 4 * n) = c.u n) ∧
                (∀ r < 8 * c.quota, ∀ k < 32, t.wordAt (a + o.2 + 0xB80 + 128 * r + 4 * k) = c.v r k))) ∧
          (back y.key → z.slice = none ∧ (y.slice = none → y.st = .sliced → z = { y with st := .running }) ∧
            ∀ a, y.slice = some a →
              (∀ b < 4096 * y.spu, z.scratchAt b = readByte s.mem.bytes (a + Team.scroff (s.crewsOf y.key) + b)) ∧
              ∀ o ∈ (crewOffsets (s.crewsOf y.key)).1, ∀ c ∈ t.crews, c.key = ⟨y.key, o.1⟩ →
                (∀ n < 64, c.u n = s.wordAt (a + o.2 + 0xA40 + 4 * n)) ∧
                ∀ r < 8 * c.quota, ∀ k < 32, c.v r k = s.wordAt (a + o.2 + 0xB80 + 128 * r + 4 * k)) ∧
          (¬ out y.key → ¬ back y.key → z = y))))

/-! ### Other devices, the host, resets, monitors -/

/-- R297, R298, R301, R303 to R308, R311, R346, R378 to R384: what comes from outside the part, and what it does.  The
model's choices: what is seen outside stands in Device.out (log entry 71), which bits of DEVID are kept (85), the step at
which a failed bring-up stops (86), one message for each entry that a QTAIL write adds (87), the moments before the ports
are on (88), a held CWR of another device (89), the fall of the stretch level (90), what REMOTE_REQUEST carries (96), a
reset in one step or step by step (110), a nonzero WINBASE ignored at 32 TiB (111), a write of DOMKEY keeps bits [15:0]
alone (120), QHEAD of an undeclared queue reads zero (122), ENCORES reads the fused map at all times (125), and the agenda
(6).  While a TLBINV of the host is under way, a posted write, no read is answered and no write of QTAIL taken (R308). -/
def Obligations.OutsideSteps : Prop :=
  (∀ (s : State) (r : RemoteReq), s.dev.ready = true → s.dev.portsOn = true → farSound r.op = true →
    s.fl.fabTags.find? (fun x => decide (x.1 = r.sender) && decide (x.2.1 = r.tag)) = none →
    (∀ h ∈ s.fl.far, ¬ (h.sender = r.sender ∧ h.tag = r.tag)) →
    (r.key ≠ s.dev.domkey.setWidth 16 ∨ lineExists r.line = false ∨ r.op = .flip ∨ r.op = .heat →
      exec (.remoteRequest r) s = .next (s.sendFar r.sender r.tag .refused)) ∧
    (r.key = s.dev.domkey.setWidth 16 → lineExists r.line = true → (s.lineMeta r.line).bad = 0#4 →
      (s.lineMeta r.line).poison = 0#4 → s.holdsOf r.line = [] → s.sound = true →
      (r.op = .read ∨ r.op = .vers → ∃ t, exec (.remoteRequest r) s = .next t ∧ t.mem.bytes = s.mem.bytes ∧
        t.dev.out = s.dev.out ++ [OutMsg.fabric r.sender r.tag
          (.line (s.lineAt r.line) (s.lineAt r.line) (s.lineMeta r.line).ver 0#4 false 0#5)]) ∧
      (∀ bytes foul, r.op = .write bytes foul → ∃ t, exec (.remoteRequest r) s = .next t ∧
        (∀ x, readByte t.mem.bytes x = lastByte (bytes.map (fun p => (128 * r.line + p.1, p.2))) x
          (readByte s.mem.bytes x)) ∧
        (t.lineMeta r.line).ver = (s.lineMeta r.line).ver + 1#12 ∧ t.dev.out = s.dev.out ++ [OutMsg.fabric r.sender r.tag
          (.line (t.lineAt r.line) (s.lineAt r.line) ((s.lineMeta r.line).ver + 1#12) (foul &&& granulesOf (bytes.map (·.1))) true 0#5)]) ∧
      (∀ expect bytes, r.op = .cwr expect bytes → (∀ h ∈ s.fl.far, h.since < s.serial) →
        (expect = (s.lineMeta r.line).ver → ∃ t, exec (.remoteRequest r) s = .next t ∧
          (∀ x, readByte t.mem.bytes x = lastByte (bytes.map (fun p => (128 * r.line + p.1, p.2))) x
            (readByte s.mem.bytes x)) ∧ (t.lineMeta r.line).ver = expect + 1#12) ∧
        (later expect (s.lineMeta r.line).ver = true → s.heldAt (homeOf r.line) < 64 →
          ∃ t, exec (.remoteRequest r) s = .next t ∧ t.mem = s.mem ∧ t.dev = s.dev ∧
            t.fl.far = s.fl.far ++ [⟨r.sender, r.tag, r.line, expect, bytes, s.serial⟩])))) ∧
  (∀ (s : State) (r : RemoteReq) (x : Nat × Nat × RemoteResp), s.dev.ready = true → s.dev.portsOn = true →
    farSound r.op = true →
    s.fl.fabTags.find? (fun x => decide (x.1 = r.sender) && decide (x.2.1 = r.tag)) = some x →
    exec (.remoteRequest r) s = .next (s.tell (OutMsg.fabric r.sender r.tag x.2.2))) ∧
  (∀ (s : State) (i device : Nat) (g : Gang) (o : MOp), s.gangs[i]? = some g → o ∈ s.fl.ops →
    o.crew.team.within g.launch g.num = true → o.awaits device = true → device ≠ 2047 →
    ∃ t, exec (.fabricTimeout i device) s = .next t ∧ t.mem = s.mem ∧
      (∀ x ∈ t.fl.ops, x.crew.team.within g.launch g.num = true → x.awaits device = false) ∧
      (∀ x ∈ t.fl.copies, x.crew.team.within g.launch g.num = true → x.awaits device = false) ∧
      (∀ x ∈ t.crews, x.key.team.within g.launch g.num = true → x.stopped = true) ∧
      ∀ x ∈ t.gangs, x.launch = g.launch → x.num = g.num → x.kill.isSome = true ∧ x.again = true) ∧
  (∀ (s : State) (port width cause : BitVec 8) (downns : BitVec 32) (peer : BitVec 16), s.dev.power = true →
    (width ∈ [1#8, 2#8, 4#8] → s.dev.portsOn = true → port.toNat < 36 →
      (Cells.get Port.off s.dev.ports port.toNat).trained = false →
      exec (.portTrainingComplete port width) s = .next { s with dev := s.dev.setPort port.toNat ⟨width.toNat, true⟩ }) ∧
    (width ∈ [0#8, 1#8, 2#8, 4#8] → cause.toNat ≤ 3 → peer.toNat ≤ 2046 →
      (Cells.get Port.off s.dev.ports port.toNat).trained = true →
      exec (.linkRetrain port width cause downns peer) s =
        .next (State.post { s with dev := s.dev.setPort port.toNat ⟨width.toNat, true⟩ } 3 (noticeHead 4 0#32 ++
          [port, width, cause, 0#8] ++ leBytes 4 downns.toNat ++ leBytes 2 peer.toNat)))) ∧
  (∀ (s : State) (off : BitVec 45) (len a : Nat), s.dev.ready = true → 1 ≤ len → off.toNat + len ≤ 2 ^ s.dev.bar2lg →
    a = s.dev.winbase.toNat + off.toNat →
    ((∃ i ∈ s.fl.invs, i.host = true) → exec (.hostBar2Read off len) s = .refused .notEnabled) ∧
    ((∀ i ∈ s.fl.invs, i.host = false) → (∃ k < len, paExists (a + k) = false) →
      exec (.hostBar2Read off len) s = .next (s.tell .hostAbort)) ∧
    ((∀ i ∈ s.fl.invs, i.host = false) → (∀ k < len, paExists (a + k) = true) → MemoryClean s → ∃ t, exec (.hostBar2Read off len) s = .next t ∧
      t.mem.bytes = s.mem.bytes ∧ t.crews = s.crews ∧ t.dev.out = s.dev.out ++
        [.hostRead ((List.range len).map (fun k => readByte s.mem.bytes (a + k))) false])) ∧
  (∀ (s : State) (off : BitVec 45) (bytes : List (BitVec 8)) (a : Nat), s.dev.ready = true → bytes ≠ [] →
    off.toNat + bytes.length ≤ 2 ^ s.dev.bar2lg → a = s.dev.winbase.toNat + off.toNat →
    ((∃ k < bytes.length, paExists (a + k) = false) → exec (.hostBar2Write off bytes) s = .next (s.tell .hostAbort)) ∧
    ((∀ k < bytes.length, paExists (a + k) = true) → MemoryClean s → ∃ t, exec (.hostBar2Write off bytes) s = .next t ∧
      t.crews = s.crews ∧ t.dev.out = s.dev.out ∧
      (∀ x, readByte t.mem.bytes x = if a ≤ x ∧ x < a + bytes.length then (bytes[x - a]?).getD 0#8
        else readByte s.mem.bytes x) ∧
      ∀ ln, (t.lineMeta ln).ver = if a / 128 ≤ ln ∧ ln ≤ (a + bytes.length - 1) / 128 then (s.lineMeta ln).ver + 1#12
        else (s.lineMeta ln).ver)) ∧
  (∀ (s : State) (v : BitVec 32), s.dev.power = true →
    (s.launches = [] → v.toNat % 2048 ≠ 2047 → exec (.devid v) s = .next { s with dev := { s.dev with
      devid := BitVec.ofNat 32 (v.toNat % 2048)
      portsOn := true } }) ∧
    (s.launches ≠ [] ∨ v.toNat % 2048 = 2047 → exec (.devid v) s = .next s)) ∧
  (∀ (s : State) (n : BitVec 9) (v : BitVec 32), (∃ i ∈ s.fl.invs, i.host = true) →
    exec (.qtail n v) s = .refused .notEnabled) ∧
  (∀ (s : State) (n : BitVec 9) (v : BitVec 32) (q : Queue) (k : Nat), s.dev.power = true →
    (∀ i ∈ s.fl.invs, i.host = false) →
    (s.dev.ready = false → exec (.qtail n v) s = .next s) ∧
    (s.dev.ready = true → s.queueOf n.toNat = none → exec (.qtail n v) s = .next s) ∧
    (s.dev.ready = true → s.queueOf n.toNat = some q → k = (v - q.tail).toNat →
      (q.hostVis = false ∨ 2 ^ q.lg - (q.tail - q.head).toNat < k → exec (.qtail n v) s = .next s) ∧
      (q.hostVis = true → k ≤ 2 ^ q.lg - (q.tail - q.head).toNat → ∃ t, exec (.qtail n v) s = .next t ∧
        t.mem.bytes = s.mem.bytes ∧ t.queues = (s.withQueue n.toNat (fun x => { x with tail := v })).queues ∧
        t.dev.out = s.dev.out ++ (if (Cells.get 0#32 s.dev.msix n.toNat).getLsbD 7 = true then
          List.replicate k (OutMsg.msix ((Cells.get 0#32 s.dev.msix n.toNat).setWidth 6)) else [])))) ∧
  (∀ (s : State) (off : BitVec 22) (v : BitVec 64), s.dev.ready = true →
    (∀ wide, off.toNat % (if wide then 8 else 4) ≠ 0 ∨ (wide = false ∧ 0x18 ≤ off.toNat ∧ off.toNat < 0x30) →
      exec (.bar0RegisterWrite off wide v) s = .next (s.tell .hostUnsupported)) ∧
    (∀ wide, exec (.bar0RegisterWrite 0#22 wide v) s = .next (s.writeDevid (v.setWidth 32))) ∧
    (∀ wide, exec (.bar0RegisterWrite 8#22 wide v) s = .next (if s.launches = [] then
      { s with dev := { s.dev with domkey := BitVec.ofNat 32 (v.toNat % 65536) } } else s)) ∧
    (∀ wide, exec (.bar0RegisterWrite 0x10#22 wide v) s =
      .next { s with dev := { s.dev with fabctl := BitVec.ofNat 64 (v.toNat % 2) } }) ∧
    exec (.bar0RegisterWrite 0x20#22 true v) s =
      .next (if v.toNat % 2 ^ 45 = 0 then { s with dev := { s.dev with hostbase := v } } else s) ∧
    exec (.bar0RegisterWrite 0x28#22 true v) s =
      .next (if v.toNat % 2 ^ s.dev.bar2lg = 0 ∧ (s.dev.bar2lg = 45 → v = 0#64)
        then { s with dev := { s.dev with winbase := v } } else s) ∧
    (∀ wide, exec (.bar0RegisterWrite 0x30#22 wide v) s =
      .next { s with dev := { s.dev with tlblaunch := v.setWidth 32 } }) ∧
    (∀ q : Nat, q < 512 → off = BitVec.ofNat 22 (0x10000 + 4 * q) → exec (.bar0RegisterWrite off false v) s =
      .next (if (v.setWidth 32 : Word) &&& 0xFFFFFF40#32 = 0#32 then
        { s with dev := { s.dev with msix := Cells.set 0#32 s.dev.msix q (v.setWidth 32) } } else s)) ∧
    (∀ q : Nat, q < 512 → exec (.bar0RegisterWrite (BitVec.ofNat 22 (0x100000 + 8 * q)) false v) s =
      exec (.qtail (BitVec.ofNat 9 q) (v.setWidth 32)) s)) ∧
  (∀ (s : State) (off : BitVec 22) (wide : Bool) (v : BitVec 64), s.dev.power = true → s.dev.ready = false →
    off.toNat % (if wide then 8 else 4) = 0 →
    (off = 0#22 → exec (.bar0RegisterWrite off wide v) s = .next (s.writeDevid (v.setWidth 32))) ∧
    (off = 8#22 → exec (.bar0RegisterWrite off wide v) s = .next (if s.launches = [] then
      { s with dev := { s.dev with domkey := BitVec.ofNat 32 (v.toNat % 65536) } } else s)) ∧
    (off ≠ 0#22 → off ≠ 8#22 → (wide = true ∨ off.toNat < 0x18 ∨ 0x30 ≤ off.toNat) →
      (∀ i ∈ s.fl.invs, i.host = false) → exec (.bar0RegisterWrite off wide v) s = .next s)) ∧
  (∀ (s : State) (off size : Nat), (∃ i ∈ s.fl.invs, i.host = true) → s.environment (.bar0Read off size) = s) ∧
  (∀ (s : State) (off size : Nat), (∀ i ∈ s.fl.invs, i.host = false) →
    (size ≠ 4 ∧ size ≠ 8) ∨ off % size ≠ 0 ∨ 2 ^ 22 < off + size ∨ (size = 4 ∧ 0x18 ≤ off ∧ off < 0x30) →
    s.environment (.bar0Read off size) = s.tell .hostUnsupported) ∧
  (∀ (s : State) (off : Nat) (w : DWord), off % 8 = 0 → off < 2 ^ 22 → (∀ i ∈ s.fl.invs, i.host = false) →
    (off = 0 ∧ w = s.dev.devid.setWidth 64) ∨ (off = 8 ∧ w = s.dev.domkey.setWidth 64) ∨
      (off = 0x10 ∧ w = s.dev.fabctl) ∨ (off = 0x18 ∧ w = 0#64) ∨ (off = 0x20 ∧ w = s.dev.hostbase) ∨
      (off = 0x28 ∧ w = s.dev.winbase) ∨ (off = 0x30 ∧ w = s.dev.tlblaunch.setWidth 64) ∨
      (∃ k < 256, off = 0x10000 + 8 * k ∧
        w = Cells.get 0#32 s.dev.msix (2 * k + 1) ++ Cells.get 0#32 s.dev.msix (2 * k)) ∨
      (∃ q < 512, off = 0x100000 + 8 * q ∧ w = (match s.queueOf q with
        | some x => if x.hostVis then x.tail.setWidth 64 else 0#64
        | none => 0#64)) ∨
      (∃ q < 512, off = 0x101000 + 8 * q ∧ w = (match s.queueOf q with
        | some x => x.head.setWidth 64
        | none => 0#64)) ∨
      (∃ n, 256 ≤ n ∧ off = 0x200000 + 8 * (n - 256) ∧ w = (if srMonitor n then s.dev.monitor n else 0#32).setWidth 64) ∨
      ((0x38 ≤ off ∧ off < 0x10000) ∧ w = 0#64) ∨ ((0x10800 ≤ off ∧ off < 0x100000) ∧ w = 0#64) ∨
      ((0x102000 ≤ off ∧ off < 0x200000) ∧ w = 0#64) →
    s.environment (.bar0Read off 8) = s.tell (.hostRead (leBytes 8 w.toNat) false) ∧
    (off < 0x18 ∨ 0x30 ≤ off →
      s.environment (.bar0Read off 4) = s.tell (.hostRead (leBytes 4 w.toNat) false) ∧
      s.environment (.bar0Read (off + 4) 4) = s.tell (.hostRead (leBytes 4 (w.toNat / 2 ^ 32)) false))) ∧
  (∀ (s : State) (n : BitVec 6), s.dev.power = true → 30 ≤ n.toNat → n.toNat ≤ 45 →
    exec (.bar2SizeChange n) s = .next { s with dev := { s.dev with
      bar2lg := n.toNat
      winbase := if n.toNat = 45 then 0#64
        else BitVec.ofNat 64 (s.dev.winbase.toNat / 2 ^ n.toNat * 2 ^ n.toNat) } }) ∧
  (∀ (s : State) (fail : BitVec 4) (rest : List Move), fail.toNat ≤ 3 → s.agenda = .boot fail :: rest →
    ∃ t, step s = .next t ∧ t.mem = s.mem ∧ t.fl = Flight.reset ∧ t.launches = [] ∧ t.gangs = [] ∧ t.teams = [] ∧
      t.crews = [] ∧ t.dev.power = true ∧ t.dev.ready = false ∧ t.dev.step = 0#4 ∧ t.dev.fail = 0#4 ∧
      t.dev.boot = some fail ∧ t.dev.devid = 0x7FF#32 ∧ t.dev.domkey = 0#32 ∧ t.dev.fabctl = 0#64 ∧
      t.dev.hostbase = 0#64 ∧ t.dev.winbase = 0#64 ∧ t.dev.tlblaunch = 0#32 ∧ t.dev.msix = [] ∧
      t.dev.enabled = s.dev.enabled ∧ t.dev.fusedOff = s.dev.fusedOff) ∧
  (∀ (s : State) (fail : BitVec 4), s.dev.boot = some fail → s.dev.power = true → s.agenda = [] →
    (fail = 0#4 ∨ s.dev.step ≠ (if fail = 3#4 then 1#4 else 2#4) → ∃ t, step s = .next t ∧
      t.dev.step = s.dev.step + 1#4 ∧ t.dev.fail = s.dev.fail ∧
      t.dev.boot = (if s.dev.step = 5#4 then none else some fail) ∧
      t.mem = (if s.dev.step = 3#4 then Mem.reset else s.mem) ∧
      (s.dev.step = 4#4 → t.queues = [Queue.seven] ∧ t.dev.rp = [] ∧ t.dev.rings = []) ∧
      (s.dev.step ≠ 4#4 → t.queues = s.queues ∧ t.dev.rp = s.dev.rp ∧ t.dev.rings = s.dev.rings)) ∧
    (fail ≠ 0#4 → s.dev.step = (if fail = 3#4 then 1#4 else 2#4) →
      step s = .next { s with dev := { s.dev with
        fail := fail
        boot := none } })) ∧
  (∀ (s : State) (i : Instr) (fail : BitVec 4), fail.toNat ≤ 3 →
    (i = .powerOn fail ∧ s.dev.power = false) ∨ ((i = .fundamentalReset fail ∨ i = .functionLevelReset fail) ∧
      s.dev.power = true) →
    ∃ t, exec i s = .next t ∧ t.mem = Mem.reset ∧ t.fl = Flight.reset ∧ t.launches = [] ∧ t.gangs = [] ∧ t.teams = [] ∧
      t.crews = [] ∧ t.queues = [Queue.seven] ∧ t.request = none ∧ t.dev.power = true ∧ t.dev.fail = fail ∧
      (fail = 0#4 ↔ t.dev.step = 6#4) ∧ (fail = 0#4 ↔ t.dev.ready = true) ∧ t.dev.devid = 0x7FF#32 ∧ t.dev.domkey = 0#32 ∧
      t.dev.fabctl = 0#64 ∧ t.dev.hostbase = 0#64 ∧ t.dev.winbase = 0#64 ∧ t.dev.tlblaunch = 0#32 ∧ t.dev.msix = [] ∧
      t.dev.rp = [] ∧ t.dev.rings = [] ∧ t.dev.enabled = s.dev.enabled ∧ t.dev.fusedOff = s.dev.fusedOff) ∧
  (∀ (s : State) (i : Instr), i = .boardPowerRemoval ∨ i = .powerLoss → s.dev.power = true →
    ∃ t, exec i s = .next t ∧ t.dev.power = false ∧ t.dev.ready = false ∧ t.launches = [] ∧ t.crews = [] ∧
      t.dev.enabled = s.dev.enabled ∧ t.dev.fusedOff = s.dev.fusedOff) ∧
  (∀ (s : State) (n : BitVec 9) (v : BitVec 32) (c level next : Nat), s.dev.power = true →
    ((304 ≤ n.toNat ∧ n.toNat < 306) ∨ (((288 ≤ n.toNat ∧ n.toNat < 304) ∨ n.toNat = 449) ∧ v.toNat < 65536) →
      exec (.monitorSample n v) s =
        .next { s with dev := { s.dev with monitors := Cells.set 0#32 s.dev.monitors n.toNat v } }) ∧
    (c < 32 → n.toNat = 256 + c → v.toNat < 65536 → Cells.wf 0#32 s.dev.monitors = true → level = s.dev.level c →
      next = (let t := (v.setWidth 16 : BitVec 16).toInt
        let up := if 16 * 120 ≤ t then 3 else if 16 * 110 ≤ t then 2 else if 16 * 100 ≤ t then 1 else 0
        if level < up then up
        else if 0 < level ∧ t < 16 * (100 + 10 * ((level : Int) - 1) - 5) then level - 1 else level) →
      ∃ t, exec (.monitorSample n v) s = .next t ∧ t.mem = s.mem ∧ t.crews = s.crews ∧ t.dev.level c = next ∧
        (∀ x, x < 32 → x ≠ c → t.dev.level x = s.dev.level x) ∧
        (next = level → t.dev.held = s.dev.held) ∧
        (next ≠ level → (s.dev.held.filter (fun h => decide (h.1 = 6))).length < 4096 → t.dev.held = s.dev.held ++
          [(6, pad32 (noticeHead 7 0#32 ++ [BitVec.ofNat 8 c, BitVec.ofNat 8 next, BitVec.ofNat 8 level, 0#8] ++
            leBytes 2 (v.toNat % 65536)))])))

/-! ### Encodings, the step, memory, reset, registers -/

/-- R16 to R25: what single words decode to, one word at least of each format, most of them worked out in the spec; words of
unassigned majors and minors, and words with a field that no row allows, decode to nothing. -/
def Obligations.DecodeWords : Prop :=
  (∀ p ∈ ([(0x00000000#32, .nop), (0x04C00001#32, .hintRm 1#3), (0x04400003#32, .hintG 0#1 3#3),
      (0x60504C40#32, .fadd 10#7 4#7 98#7 0#2), (0x04000061#32, .hintImm 97#22), (0x281832A0#32, .iaddi 3#7 3#7 0x2A0#12),
      (0x08C5FFFB#32, .bra 1#3 1#1 5#6 0xFFFB#16), (0xB4008005#32, .xprog 2#6 0#6), (0xB4020404#32, .xform 8#6 4#6),
      (0x84504050#32, .st 10#7 4#7 2#7 4#3), (0x80202810#32, .ld 4#7 2#7 4#3 16#9), (0x94208050#32, .ldw 4#7 8#7 2#7 4#3),
      (0x78383400#32, .cvt 7#7 3#7 4#4 0#4), (0x7C283C80#32, .quant 5#7 3#7 100#7), (0x6C504000#32, .fexp 10#7 4#7 0#2),
      (0xD1400101#32, .rslvStat 20#6 1#6), (0x50410620#32, .uadd 4#6 4#6 6#6 1#1), (0xC004A638#32, .mma 0#2 1#6 5#5 6#5 3#4 8#4),
      (0xA02820C0#32, .atomAdd 5#7 2#7 6#7 0#1), (0x14850000#32, .pop 8#6 20#6), (0x14020002#32, .fin 8#6),
      (0xCC066802#32, .accrd 0#7 102#7 2#2 0#4), (0xCC500207#32, .mwait 5#6 2#6), (0x55401200#32, .umovi 20#6 0x200#12),
      (0xC404A633#32, .mmaG 0#2 1#6 5#5 6#5 3#4 3#3), (0x0C01FFFF#32, .jmp 0#5 0x1FFFF#20)] :
      List (BitVec 32 × Instr)), decode p.1 = .ok p.2) ∧
  (∀ w ∈ [0xFFFFFFFF#32, 0x18000000#32, 0x1C000000#32, 0x5C000000#32, 0xBC000000#32, 0xD4000000#32, 0xD8000000#32],
    decode w = .error .unassigned) ∧
  (∀ w ∈ [0x00000100#32, 0x1000000C#32, 0x14000005#32, 0x24000010#32], decode w = .error .unassigned) ∧
  (∀ w ∈ [0x23080000#32, 0x24081000#32, 0x80202E10#32], decode w = .error .illFormed)

/-- Decoding and encoding agree on every word: a well-formed instruction decodes from its word to itself, and a word that
decodes to an instruction is that instruction's word. -/
def Obligations.DecodeEncode : Prop :=
  (∀ (i : Instr) (w : BitVec 32), i.wellFormed = true → encode i = some w → decode w = .ok i) ∧
  (∀ (i : Instr) (w : BitVec 32), decode w = .ok i → encode i = some w ∧ i.wellFormed = true) ∧
  (∀ (w : BitVec 32) (nbits : Nat) (i : Instr), decodeTableWord nbits w.toNat = some i ↔ decode w = .ok i)

/-- A step that issues fetches the word at the pc of a group and runs what it decodes to, on the machine as the fetch
leaves it; a word that is no instruction is an invalid instruction.  Behind a word that begins a sequence of R216, the words
fused with it issue in the same step (R217).  With several entries that may go on, the one that
ranks first goes on and the others age; a step that an agenda names is run, or dropped where the spec does not let it
happen.  (The order of the machine's own steps is the model's choice, log entry 6.) -/
def Obligations.StepRunsDecoded : Prop :=
  (∀ (s s1 : State) (n k : Nat) (cr : Crew) (t : Team) (l : Launch) (g : Group) (e : Entry) (w : Word),
    s1 = { s with cur := n } → s.crews[n]? = some cr → cr.group = some g → cr.entryOf g.thread = some e →
    s.teamOf cr.key.team = some t → s.launchOf cr.key.team.launch = some l →
    (s1.fetchTouch t.core l g.pc).fetch t.core l g.pc k = .ok w →
    (∀ i, decode w = .ok i → issueOne n k s = exec i (s1.fetchTouch t.core l g.pc)) ∧
    (∀ x, decode w = .error x → issueOne n k s = .next ((s1.fetchTouch t.core l g.pc).takeTrap { cause := 1 }).ran)) ∧
  (∀ (s s0 s1 : State) (rest : List Move) (n k : Nat) (cr : Crew) (t : Team) (l : Launch) (g : Group) (e : Entry)
      (w : Word) (i : Instr), s.agenda = .issue n k :: rest → s.dev.power = true → s0 = { s with agenda := rest } →
    s0.mayIssue n = true → s.crews[n]? = some cr → cr.overAged = none → cr.looseEntries = [e] →
    ((cr.group = none ∧ g = e.begin) ∨ cr.group = some g) → cr.entryOf g.thread = some e →
    s.teamOf cr.key.team = some t → s.launchOf cr.key.team.launch = some l →
    s1 = { s0.setCrew n { cr with
      group := some g
      entries := if e.yield = 0 then cr.entries else cr.entries.map (fun x => { x with yield := 0 }) } with cur := n } →
    (s1.fetchTouch t.core l g.pc).fetch t.core l g.pc k = .ok w → decode w = .ok i →
    (∀ u, exec i (s1.fetchTouch t.core l g.pc) = .next u → step s =
      .next (if g.hints.count = 0 then u.fuse n e.mask (fuseLimit i) (k / 65536) i g.pc else u)) ∧
    (∀ r, exec i (s1.fetchTouch t.core l g.pc) = r → (∀ u, r ≠ .next u) → step s = r)) ∧
  (∀ (t u v : State) (n k : Nat) (i j : Instr) (pc : Word) (c x : Crew) (e : Entry) (tm : Team) (l : Launch) (w : Word),
    t.crews[n]? = some c → c.group = none → c.stopped = false → t.waited = false → c.entryOf (lowThread e.mask) = some e →
    e.pc = pc + 4#32 → t.teamOf c.key.team = some tm → t.launchOf c.key.team.launch = some l →
    u = { t.beginGroup n e with cur := n } → (u.fetchTouch tm.core l e.pc).fetch tm.core l e.pc k = .ok w →
    decode w = .ok j → fuses i j = true → exec j (u.fetchTouch tm.core l e.pc) = .next v → v.waited = false →
    v.crews[n]? = some x → x.stopped = false → x.evec = c.evec → t.fuse n e.mask 1 k i pc = v) ∧
  (∀ (s s0 s1 s' t : State) (rest : List Move) (n k : Nat) (cr c1 : Crew) (es others : List Entry) (g : Group) (e : Entry),
    s.agenda = .issue n k :: rest → s.dev.power = true → s0 = { s with agenda := rest } → s0.mayIssue n = true →
    s.crews[n]? = some cr → cr.overAged = none → s0.readyEntries n cr = (s', es) → s'.crews[n]? = some c1 →
    ((c1.group = none ∧ firstEntry es = some e ∧ g = e.begin) ∨ c1.group = some g) →
    s1 = s'.setCrew n { c1 with group := some g } → others = es.filter (fun e => !e.mask.getLsbD g.thread) →
    (others ≠ [] ∨ ∃ x ∈ c1.looseEntries, x.mask.getLsbD g.thread = false ∧ 1 < x.yield) → issueOne n k s1 = .next t →
    (t.waited = true → step s = .next t) ∧
    (t.waited = false → step s = issueFused n k (s1.setCrew n (({ c1 with group := some g } : Crew).passed others
      g.thread)))) ∧
  (∀ (s : State) (i : Instr) (rest : List Move), s.agenda = .event i :: rest →
    (∀ t, exec i { s with agenda := rest } = .next t → step s = .next t) ∧
    (∀ r, exec i { s with agenda := rest } = .refused r → step s = .next { s with agenda := rest })) ∧
  (∀ (s : State) (n : Nat), s.agenda = [] → s.dev.power = true → s.dev.boot = none → firstDue s s.due = none →
    s.nextCrew s.turn = some n →
    step s = step { s with
      turn := n + 1
      agenda := [.issue n 0] })

/-- Every step, an instruction word, a step of the machine or of its environment, keeps the canonical forms of memory and
of its lines' metadata, and keeps every register at or above its crew's quota zero (R128, R130). -/
def Obligations.StepKeepsMemory : Prop :=
  (∀ s t : State, s.sound = true → step s = .next t → t.sound = true) ∧
  ∀ s t : State, s.regsFit → step s = .next t → t.regsFit

/-- R50, R306, R333, R350, R378: what reset leaves.  That State.reset is the part right after step 6 of R378 is the model's
choice (log entry 1); of the values that no rule gives (log entries 2 to 4, 20 and 106) the statement says nothing. -/
def Obligations.ResetState : Prop :=
  (∀ a, readByte State.reset.mem.bytes a = 0#8) ∧
  (∀ ln, (State.reset.lineMeta ln).ver = 0#12 ∧ (State.reset.lineMeta ln).poison = 0#4) ∧ State.reset.sound = true ∧
  (State.reset.dev.devid = 0x7FF#32 ∧ State.reset.dev.domkey = 0#32 ∧ State.reset.dev.fabctl = 0#64 ∧
    State.reset.dev.hostbase = 0#64 ∧ State.reset.dev.winbase = 0#64 ∧ State.reset.dev.tlblaunch = 0#32) ∧
  (∀ q, Cells.get 0#32 State.reset.dev.msix q = 0#32) ∧
  (∀ p, Cells.get 0 State.reset.dev.rp p = 0) ∧ (∀ r, Cells.get [] State.reset.dev.rings r = []) ∧
  (State.reset.dev.step = 6#4 ∧ State.reset.dev.fail = 0#4) ∧
  (∃ q, State.reset.queueOf 7 = some q ∧ q.ring = 0x00BFFFFF0000 ∧ q.slots = 2048 ∧ q.hostVis = true ∧ q.head = 0#32 ∧
    q.tail = 0#32) ∧
  (∀ n, n ≠ 7 → State.reset.queueOf n = none) ∧ State.reset.regsFit ∧
  (State.reset.launches = [] ∧ State.reset.gangs = [] ∧ State.reset.teams = [] ∧ State.reset.crews = [] ∧
    State.reset.fl = Flight.reset)

/-- R19, R20, R138, R187: what a register write leaves.  A vector result reaches the slots of active threads of its
registers inside its crew's quota and nothing else, vz discards, p0 discards and reads true; a word that goes on leaves every
other crew, every
team, launch, gang, queue, memory and device register as it was, and of its own crew only the entries move. -/
def Obligations.RegisterWrites : Prop :=
  (∀ (c : Ctx) (d : BitVec 7) (f : Nat → Word) (g : Nat → DWord) (r k : Nat), Cells.wf 0#32 c.crew.vregs = true → k < 32 →
    (∀ x ∈ c.slots, x < 32) →
    (c.vec d f).v r k = (if d.toNat < 96 ∧ r = d.toNat ∧ k ∈ c.slots ∧ r < 8 * c.crew.quota then f k
      else c.crew.v r k) ∧
    (c.vec64 d g).v r k = (if d.toNat < 96 ∧ r = d.toNat ∧ k ∈ c.slots ∧ r < 8 * c.crew.quota then (g k).extractLsb' 0 32
      else if d.toNat < 96 ∧ r = d.toNat + 1 ∧ k ∈ c.slots ∧ r < 8 * c.crew.quota then (g k).extractLsb' 32 32
      else c.crew.v r k)) ∧
  (∀ (c : Ctx) (d : BitVec 7) (f : Nat → Word) (g : Nat → DWord), 96 ≤ d.toNat → c.vec d f = c.crew ∧ c.vec64 d g = c.crew) ∧
  (∀ (c : Ctx) (d : BitVec 7) (f : Nat → Word) (g : Nat → DWord),
    ({ c.vec d f with vregs := c.crew.vregs } : Crew) = c.crew ∧ ({ c.vec64 d g with vregs := c.crew.vregs } : Crew) = c.crew) ∧
  (∀ (c : Ctx) (p : BitVec 3) (f : Nat → Bool) (q k : Nat), Cells.wf 0#32 c.crew.preds = true → k < 32 →
    (c.vecPred p f).p q k = (if p ≠ 0#3 ∧ q = p.toNat ∧ k ∈ c.slots then f k else c.crew.p q k) ∧
    ({ c.vecPred p f with preds := c.crew.preds } : Crew) = c.crew) ∧
  (∀ (c : Crew) (k : Nat), c.p 0 k = true ∧ c.src 127#7 k = 0#32 ∧ c.src64 127#7 k = 0#64) ∧
  (∀ (c : Crew) (f : BitVec 7) (k : Nat), 96 ≤ f.toNat → f.toNat < 127 → c.src f k = c.u (f.toNat - 96)) ∧
  (∀ (c : Crew) (n m : Nat) (w : Word), Cells.wf 0#32 c.uregs = true →
    (c.putU n w).u m = (if m = n then w else c.u m) ∧ ({ c.putU n w with uregs := c.uregs } : Crew) = c) ∧
  (∀ (c : Ctx) (s : State) (cr : Crew), c.done s cr = { s with
      crews := s.crews.set c.n (cr.advance c.grp c.next)
      waited := false } ∧
    ({ cr.advance c.grp c.next with
      entries := cr.entries
      group := cr.group
      started := cr.started } : Crew) = cr)
end

