-- ==== Sys2Proof/Laws/Cells.lean ====
section
/-!
SUPPORT. Sparse contents: a read after a write, and the canonical form that every write keeps.
-/

namespace Sys2Proof.Machine

variable {β : Type} [DecidableEq β]

/-- Every entry but the first of a canonical list has an index above the first, and none holds the default. -/
theorem Cells.wf_cons (dflt : β) (j : Nat) (v : β) (r : Cells β) :
    Cells.wf dflt ((j, v) :: r) = true ↔ v ≠ dflt ∧ (∀ e ∈ r, j < e.1) ∧ Cells.wf dflt r = true := by
  induction r generalizing j v with
  | nil => simp [Cells.wf]
  | cons e r ih =>
    obtain ⟨k, w⟩ := e
    simp only [Cells.wf, Bool.and_eq_true, decide_eq_true_eq, List.mem_cons, forall_eq_or_imp]
    rw [ih k w]
    constructor
    · rintro ⟨⟨h1, h2⟩, h3, h4, h5⟩
      exact ⟨h2, ⟨h1, fun e he => Nat.lt_trans h1 (h4 e he)⟩, h3, h4, h5⟩
    · rintro ⟨h2, ⟨h1, -⟩, h3, h4, h5⟩
      exact ⟨⟨h1, h2⟩, h3, h4, h5⟩

omit [DecidableEq β] in
theorem Cells.get_above (dflt : β) (r : Cells β) (k : Nat) (h : ∀ e ∈ r, k < e.1) : Cells.get dflt r k = dflt := by
  cases r with
  | nil => rfl
  | cons e r =>
    obtain ⟨j, v⟩ := e
    have := h (j, v) (by simp)
    simp_all [Cells.get]

/-- A write below the first index. -/
theorem Cells.set_lt (dflt : β) {r : Cells β} {j k : Nat} {w v : β} (h : k < j) :
    Cells.set dflt ((j, w) :: r) k v = if v = dflt then (j, w) :: r else (k, v) :: (j, w) :: r := by simp [Cells.set, h]

/-- A write at the first index. -/
theorem Cells.set_eq (dflt : β) {r : Cells β} {k : Nat} {w v : β} :
    Cells.set dflt ((k, w) :: r) k v = if v = dflt then r else (k, v) :: r := by simp [Cells.set]

/-- A write above the first index. -/
theorem Cells.set_gt (dflt : β) {r : Cells β} {j k : Nat} {w v : β} (h : j < k) :
    Cells.set dflt ((j, w) :: r) k v = (j, w) :: Cells.set dflt r k v := by
  simp [Cells.set, Nat.not_lt.mpr (Nat.le_of_lt h), Nat.ne_of_gt h]

/-- What a write leaves at an index above j still has an index above j. -/
theorem Cells.set_above (dflt : β) (r : Cells β) (j k : Nat) (v : β) (hjk : j < k) (h : ∀ e ∈ r, j < e.1) :
    ∀ e ∈ Cells.set dflt r k v, j < e.1 := by
  induction r with
  | nil => intro e he; by_cases hv : v = dflt <;> simp_all [Cells.set]
  | cons x r ih =>
    obtain ⟨i, w⟩ := x
    have hr : ∀ e ∈ r, j < e.1 := fun e he => h e (by simp [he])
    have hi : j < i := h (i, w) (by simp)
    intro e he
    rcases Nat.lt_trichotomy k i with h1 | rfl | h1
    · rw [Cells.set_lt dflt h1] at he
      split at he <;> simp only [List.mem_cons] at he
      · rcases he with rfl | he
        · exact hi
        · exact hr e he
      · rcases he with rfl | rfl | he
        · exact hjk
        · exact hi
        · exact hr e he
    · rw [Cells.set_eq] at he
      split at he
      · exact hr e he
      · rcases List.mem_cons.mp he with rfl | he
        · exact hjk
        · exact hr e he
    · rw [Cells.set_gt dflt h1] at he
      rcases List.mem_cons.mp he with rfl | he
      · exact hi
      · exact ih hr e he

/-- A write keeps the canonical form. -/
theorem Cells.wf_set (dflt : β) (c : Cells β) (k : Nat) (v : β) (h : Cells.wf dflt c = true) :
    Cells.wf dflt (Cells.set dflt c k v) = true := by
  induction c with
  | nil => by_cases hv : v = dflt <;> simp [Cells.set, Cells.wf, hv]
  | cons x r ih =>
    obtain ⟨j, w⟩ := x
    obtain ⟨hw, hj, hr⟩ := (Cells.wf_cons dflt j w r).mp h
    rcases Nat.lt_trichotomy k j with h1 | rfl | h1
    · rw [Cells.set_lt dflt h1]
      split
      · exact h
      · refine (Cells.wf_cons ..).mpr ⟨‹_›, ?_, h⟩
        intro e he
        rcases List.mem_cons.mp he with rfl | he
        · exact h1
        · exact Nat.lt_trans h1 (hj e he)
    · rw [Cells.set_eq]
      split
      · exact hr
      · exact (Cells.wf_cons ..).mpr ⟨‹_›, hj, hr⟩
    · rw [Cells.set_gt dflt h1]
      exact (Cells.wf_cons ..).mpr ⟨hw, Cells.set_above dflt r j k v h1 hj, ih hr⟩

/-- A read after a write. -/
theorem Cells.get_set (dflt : β) (c : Cells β) (k i : Nat) (v : β) (h : Cells.wf dflt c = true) :
    Cells.get dflt (Cells.set dflt c k v) i = if i = k then v else Cells.get dflt c i := by
  induction c with
  | nil =>
    by_cases hv : v = dflt
    · simp [Cells.set, hv, Cells.get]
    · rcases Nat.lt_trichotomy i k with h1 | rfl | h1
      · simp [Cells.set, hv, Cells.get, h1, Nat.ne_of_lt h1]
      · simp [Cells.set, hv, Cells.get]
      · simp [Cells.set, hv, Cells.get, Nat.not_lt.mpr (Nat.le_of_lt h1), Nat.ne_of_gt h1]
  | cons x r ih =>
    obtain ⟨j, w⟩ := x
    obtain ⟨hw, hj, hr⟩ := (Cells.wf_cons dflt j w r).mp h
    have low (n : Nat) (hn : n ≤ j) : Cells.get dflt r n = dflt :=
      Cells.get_above dflt r n (fun e he => Nat.lt_of_le_of_lt hn (hj e he))
    rcases Nat.lt_trichotomy k j with h1 | rfl | h1
    · rw [Cells.set_lt dflt h1]
      rcases Nat.lt_trichotomy i k with h2 | rfl | h2
      · split <;> simp [Cells.get, h2, Nat.ne_of_lt h2, Nat.lt_trans h2 h1]
      · split <;> simp_all [Cells.get]
      · split <;> simp [Cells.get, Nat.not_lt.mpr (Nat.le_of_lt h2), Nat.ne_of_gt h2]
    · rw [Cells.set_eq]
      rcases Nat.lt_trichotomy i k with h2 | rfl | h2
      · split <;> simp [Cells.get, h2, Nat.ne_of_lt h2, low i (Nat.le_of_lt h2)]
      · split
        · simp [low i (Nat.le_refl i), *]
        · simp [Cells.get]
      · split <;> simp [Cells.get, Nat.not_lt.mpr (Nat.le_of_lt h2), Nat.ne_of_gt h2]
    · rw [Cells.set_gt dflt h1]
      simp only [Cells.get, ih hr]
      rcases Nat.lt_trichotomy i j with h2 | rfl | h2
      · simp [h2, Nat.ne_of_lt (Nat.lt_trans h2 h1)]
      · simp [Nat.ne_of_lt h1]
      · simp [Nat.not_lt.mpr (Nat.le_of_lt h2), Nat.ne_of_gt h2]

theorem Cells.wf_setAll (dflt : β) (l : List (Nat × β)) (c : Cells β) (h : Cells.wf dflt c = true) :
    Cells.wf dflt (Cells.setAll dflt c l) = true := by
  induction l generalizing c with
  | nil => exact h
  | cons p l ih => exact ih _ (Cells.wf_set dflt c p.1 p.2 h)

theorem Cells.wf_filter (dflt : β) (p : Nat × β → Bool) (c : Cells β) (h : Cells.wf dflt c = true) :
    Cells.wf dflt (c.filter p) = true := by
  induction c with
  | nil => exact h
  | cons x r ih =>
    obtain ⟨j, w⟩ := x
    obtain ⟨hw, hj, hr⟩ := (Cells.wf_cons dflt j w r).mp h
    rw [List.filter_cons]
    split
    · exact (Cells.wf_cons ..).mpr ⟨hw, fun e he => hj e (List.mem_filter.mp he).1, ih hr⟩
    · exact ih hr

/-- Reading one byte after writing another, or the same. -/
theorem readByte_writeByte (m : List Host.Cell) (a b : Nat) (x : Byte) (h : memWf m = true) :
    readByte (writeByte m a x) b = if b = a then x else readByte m b := Cells.get_set 0#8 m a b x h

theorem memWf_writeByte (m : List Host.Cell) (a : Nat) (x : Byte) (h : memWf m = true) :
    memWf (writeByte m a x) = true := Cells.wf_set 0#8 m a x h

theorem memWf_writes (l : List (Nat × Byte)) (f : Nat → Nat) (m : List Host.Cell) (h : memWf m = true) :
    memWf (l.foldl (fun b p => writeByte b (f p.1) p.2) m) = true := by
  induction l generalizing m with
  | nil => exact h
  | cons p l ih => exact ih _ (memWf_writeByte m (f p.1) p.2 h)

end Sys2Proof.Machine
end

