-- ==== Sys2Proof/Laws/Issue.lean ====
section
/-!
SUPPORT. What the issue of an instruction word does: with the conditions of `Issues`, `prepare` passes and the body runs
on the state as it stands.
-/

namespace Sys2Proof.Machine

theorem filter_of_all {α : Type} (p : α → Bool) (l : List α) (h : ∀ x ∈ l, p x = true) : l.filter p = l :=
  List.filter_eq_self.mpr h

theorem opndReads_sub (c : Option (BitVec 7)) (o : Opnd) (r : PReg) (h : r ∈ opndReads c o) : r ∈ opndRegs c o := by
  cases o <;> simp_all [opndReads, opndRegs]

theorem opndWrites_sub (c : Option (BitVec 7)) (o : Opnd) (r : PReg) (h : r ∈ opndWrites o) : r ∈ opndRegs c o := by
  cases o <;> simp_all [opndWrites, opndRegs]

theorem mem_vNums (l : List PReg) (k : Nat) : k ∈ vNums l ↔ PReg.v k ∈ l := by
  induction l with
  | nil => simp [vNums]
  | cons r l ih =>
    cases r with
    | v n => simp [vNums] at ih ⊢; rw [ih]
    | u n => simp [vNums] at ih ⊢; rw [ih]

theorem reads_sub (f : Form) (h : Hints) (k : Nat) (hk : k ∈ vNums (f.shape.flatMap (opndReads h.cField))) :
    PReg.v k ∈ formRegs f h := by
  rw [mem_vNums, List.mem_flatMap] at hk
  obtain ⟨o, ho, hr⟩ := hk
  exact List.mem_flatMap.mpr ⟨o, ho, opndReads_sub _ _ _ hr⟩

theorem writes_sub (f : Form) (h : Hints) (k : Nat) (hk : k ∈ vNums (f.shape.flatMap opndWrites)) :
    PReg.v k ∈ formRegs f h := by
  rw [mem_vNums, List.mem_flatMap] at hk
  obtain ⟨o, ho, hr⟩ := hk
  exact List.mem_flatMap.mpr ⟨o, ho, opndWrites_sub _ _ _ hr⟩

theorem context_of_stands {s : State} {c : Ctx} (h : Stands s c) :
    s.context = .ok (c.n, c.crew, c.team, c.launch, c.grp, c.ent) := by
  obtain ⟨hn, hc, hg, ht, hl, he, -, -⟩ := h
  simp [State.context, hn, hc, hg, ht, hl, he]

/-- An instruction of form f that issues passes its checks and sees c. -/
theorem prepare_of_issues {f : Form} {s : State} {c : Ctx} (h : Issues f s c) : prepare f s = .ok c := by
  obtain ⟨hs, ⟨hfit, hok, hsr⟩, ⟨hq, hp, hb⟩, hg, htw⟩ := h
  have hctx := context_of_stands hs
  obtain ⟨hn, hc, hgrp, ht, hl, he, hnx, hlate, hact⟩ := hs
  have hsr' : (!(f.takes.noSr && decide (c.grp.hints.rm.getD c.crew.rm = 5#3))) = true := by
    cases hx : f.takes.noSr with
    | false => simp
    | true => simpa [Ctx.rm] using hsr hx
  have hpend : ((formRegs f c.grp.hints).any c.crew.pending) = false := by
    rw [List.any_eq_false]; intro r hr; simp [hp r hr]
  have hr1 : (vNums (f.shape.flatMap (opndReads c.grp.hints.cField))).find? (fun k => c.crew.vbad.contains k) = none := by
    rw [List.find?_eq_none]; intro k hk
    simpa using fun hm => hb k hm (reads_sub f c.grp.hints k hk)
  have hw1 : (vNums (f.shape.flatMap opndWrites)).find? (fun k => c.crew.vbad.contains k) = none := by
    rw [List.find?_eq_none]; intro k hk
    simpa using fun hm => hb k hm (writes_sub f c.grp.hints k hk)
  have hfil : c.crew.vbad.filter (fun k => !(vNums (f.shape.flatMap opndWrites)).contains k) = c.crew.vbad := by
    rw [List.filter_eq_self]; intro k hk
    simpa using fun hm => hb k hk (writes_sub f c.grp.hints k hm)
  have hspl : (threadsOf c.ent.mask).find? (fun x => c.launch.prot &&
      (c.crew.guard c.grp.hints.g x != c.crew.guard c.grp.hints.g (x + 16))) = none := by
    rw [List.find?_eq_none]; intro t htm
    cases hpr : c.launch.prot with
    | false => simp
    | true => simpa using hg hpr t htm
  have hup : (if (c.launch.prot && c.crew.upset) = true then f.twice.map (s.twiceTrap ·) else none) = none := by
    cases hpr : c.launch.prot with
    | false => simp
    | true =>
      cases hf : f.twice with
      | none => simp
      | some k => simp [htw (by simp [hf]) hpr]
  have hcr : ({ c.crew with vbad := c.crew.vbad } : Crew) = c.crew := rfl
  unfold prepare
  simp only [hctx, bind, Except.bind, hfit, hok, hsr', ensure, hq, Bool.and_self, if_true, hpend, hr1, hw1, hfil, ite_self,
    hspl, ← hact, hcr, Bool.false_eq_true, if_false]
  simp only [hup]
  simp only [← hnx, ← hlate]

theorem setCrew_same {s : State} {n : Nat} {c : Crew} (h : s.crews[n]? = some c) : s.setCrew n c = s := by
  have : putAt s.crews n c = s.crews := by
    unfold putAt
    obtain ⟨hlt, he⟩ := List.getElem?_eq_some_iff.mp h
    rw [← he]; exact List.set_getElem_self hlt
  simp [State.setCrew, this]

theorem setCrew_set {s : State} {n : Nat} (a b : Crew) : (s.setCrew n a).setCrew n b = s.setCrew n b := by
  simp [State.setCrew, putAt]

/-- An instruction word that issues runs its body on the state as it stands. -/
theorem issueF_eq {f : Form} {s : State} {c : Ctx} (h : Issues f s c) (body : Ctx → State → Res State) :
    issueF f body s = finishIssue s (body c s) := by
  have hn := h.1.1
  have hc := h.1.2.1
  have hl : c.late = none := h.1.2.2.2.2.2.2.2.1
  unfold issueF
  rw [prepare_of_issues h]
  simp only [bind, Except.bind]
  rw [hn, setCrew_same hc, hl]
  rfl

theorem issue_eq {i : Instr} {s : State} {c : Ctx} (h : Issues (formOf i) s c) (body : Ctx → State → Res State) :
    issue i body s = finishIssue s (body c s) := issueF_eq h body

theorem finish_ok (s t : State) : finishIssue s (.ok t) = .next t.ran := rfl

/-- An instruction whose effect lies in its crew: the machine after it. -/
theorem issueCrew_eq {i : Instr} {s : State} {c : Ctx} (h : Issues (formOf i) s c) (body : Ctx → Res Crew) (cr : Crew)
    (hb : body c = .ok cr) : issueCrew i body s = .next (c.done s cr) := by
  unfold issueCrew
  rw [issue_eq h]
  simp only [hb, bind, Except.bind]
  rfl

/-- A vector instruction of 32-bit results: g may be any spelling of its values. -/
theorem vec1_eq {i : Instr} {s : State} {c : Ctx} (h : Issues (formOf i) s c) (d : BitVec 7) (f : Crew → Nat → Word)
    (g : Nat → Word) (hg : ∀ t, f c.crew t = g t) : issueCrew i (vec1 d f) s = .next (c.done s (c.vec d g)) := by
  rw [issueCrew_eq h _ _ rfl]; simp only [Ctx.vec, hg]

theorem vec2_eq {i : Instr} {s : State} {c : Ctx} (h : Issues (formOf i) s c) (d : BitVec 7) (f : Crew → Nat → DWord)
    (g : Nat → DWord) (hg : ∀ t, f c.crew t = g t) : issueCrew i (vec2 d f) s = .next (c.done s (c.vec64 d g)) := by
  rw [issueCrew_eq h _ _ rfl]; simp only [Ctx.vec64, hg]

theorem agree_ok {α : Type} [DecidableEq α] {c : Ctx} {f : Nat → α} (row : Nat) (h : MembersAgree c f) :
    c.agree row f = .ok () := by
  unfold Ctx.agree
  cases hp : c.launch.prot with
  | false => rfl
  | true =>
    have : c.threads.find? (fun t => !decide (f t = f (t + 16))) = none := by
      rw [List.find?_eq_none]; intro t ht; simp [h hp t ht]
    simp [this]

/-- A predicate write whose members agree. -/
theorem vecP_eq {i : Instr} {s : State} {c : Ctx} (h : Issues (formOf i) s c) (p : BitVec 3) (f : Crew → Nat → Bool)
    (g : Nat → Bool) (hg : ∀ t, f c.crew t = g t) (hm : MembersAgree c g) :
    issueCrew i (vecP p f) s = .next (c.done s (c.vecPred p g)) := by
  have hm' : MembersAgree c (f c.crew) := by rw [funext hg]; exact hm
  rw [issueCrew_eq h _ (c.vecPred p g)]
  simp only [vecP, agree_ok 5 hm', bind, Except.bind, Ctx.vecPred, hg]

/-- A trap at issue. -/
theorem issueCrew_trap {i : Instr} {s : State} {c : Ctx} (h : Issues (formOf i) s c) (body : Ctx → Res Crew) (t : Trap)
    (hb : body c = .error (.trap t)) : issueCrew i body s = .next (s.takeTrap t).ran := by
  unfold issueCrew
  rw [issue_eq h]
  simp only [hb, bind, Except.bind]
  rfl

theorem imm12_ok {h : Hints} {k : BitVec 12} (signed : Bool) (hf : ImmFits h k) :
    imm12 h k signed = .ok (immOf h k signed) := by
  unfold imm12 immOf
  cases hi : h.imm with
  | none => rfl
  | some p =>
    have : k.toNat < 1024 := hf (by simp [hi])
    have : k.extractLsb' 10 2 = 0#2 := by
      apply BitVec.eq_of_toNat_eq; simp [BitVec.extractLsb'_toNat, Nat.shiftRight_eq_div_pow]; omega
    simp [this]

theorem imm12_bad {h : Hints} {k : BitVec 12} (signed : Bool) (hf : ¬ ImmFits h k) : imm12 h k signed = invalid := by
  unfold imm12
  cases hi : h.imm with
  | none => exact absurd (fun hx => by simp [hi] at hx) hf
  | some p =>
    have : ¬ k.extractLsb' 10 2 = 0#2 := by
      intro he
      apply hf; intro _
      have := congrArg BitVec.toNat he
      simp [BitVec.extractLsb'_toNat, Nat.shiftRight_eq_div_pow] at this
      have := k.isLt
      omega
    simp [this]

theorem go_eq {s : State} {c : Ctx} {cr : Crew} (h : s.crews[c.n]? = some cr) (f : Crew → Crew) :
    c.go s f = s.setCrew c.n ((f cr).advance c.grp c.next) := by simp [Ctx.go, h]

/-- A word that goes on with its own crew changed. -/
theorem go_done {f : Form} {s : State} {c : Ctx} (h : Issues f s c) (g : Crew → Crew) :
    (c.go s g).ran = c.done s (g c.crew) := by
  have hc : s.crews[c.n]? = some c.crew := by rw [h.1.1]; exact h.1.2.1
  rw [go_eq hc]; rfl

end Sys2Proof.Machine
end

