-- ==== Sys2Proof/Laws/State.lean ====
section
/-!
SUPPORT. One lemma per field per update of the state, so that no proof unfolds a record update.
-/

namespace Sys2Proof.Machine

@[simp] theorem setCrew_dev (s : State) (n : Nat) (c : Crew) : (s.setCrew n c).dev = s.dev := rfl
@[simp] theorem setCrew_mem (s : State) (n : Nat) (c : Crew) : (s.setCrew n c).mem = s.mem := rfl
@[simp] theorem setCrew_fl (s : State) (n : Nat) (c : Crew) : (s.setCrew n c).fl = s.fl := rfl
@[simp] theorem setCrew_launches (s : State) (n : Nat) (c : Crew) : (s.setCrew n c).launches = s.launches := rfl
@[simp] theorem setCrew_gangs (s : State) (n : Nat) (c : Crew) : (s.setCrew n c).gangs = s.gangs := rfl
@[simp] theorem setCrew_teams (s : State) (n : Nat) (c : Crew) : (s.setCrew n c).teams = s.teams := rfl
@[simp] theorem setCrew_crews (s : State) (n : Nat) (c : Crew) : (s.setCrew n c).crews = putAt s.crews n c := rfl
@[simp] theorem setCrew_queues (s : State) (n : Nat) (c : Crew) : (s.setCrew n c).queues = s.queues := rfl
@[simp] theorem setCrew_request (s : State) (n : Nat) (c : Crew) : (s.setCrew n c).request = s.request := rfl
@[simp] theorem setCrew_cur (s : State) (n : Nat) (c : Crew) : (s.setCrew n c).cur = s.cur := rfl
@[simp] theorem setCrew_agenda (s : State) (n : Nat) (c : Crew) : (s.setCrew n c).agenda = s.agenda := rfl
@[simp] theorem setCrew_turn (s : State) (n : Nat) (c : Crew) : (s.setCrew n c).turn = s.turn := rfl
@[simp] theorem setCrew_waited (s : State) (n : Nat) (c : Crew) : (s.setCrew n c).waited = s.waited := rfl
@[simp] theorem setCrew_serial (s : State) (n : Nat) (c : Crew) : (s.setCrew n c).serial = s.serial := rfl
@[simp] theorem setCrew_free (s : State) (n : Nat) (c : Crew) : (s.setCrew n c).free = s.free := rfl

@[simp] theorem setTeam_dev (s : State) (n : Nat) (t : Team) : (s.setTeam n t).dev = s.dev := rfl
@[simp] theorem setTeam_mem (s : State) (n : Nat) (t : Team) : (s.setTeam n t).mem = s.mem := rfl
@[simp] theorem setTeam_fl (s : State) (n : Nat) (t : Team) : (s.setTeam n t).fl = s.fl := rfl
@[simp] theorem setTeam_launches (s : State) (n : Nat) (t : Team) : (s.setTeam n t).launches = s.launches := rfl
@[simp] theorem setTeam_gangs (s : State) (n : Nat) (t : Team) : (s.setTeam n t).gangs = s.gangs := rfl
@[simp] theorem setTeam_teams (s : State) (n : Nat) (t : Team) : (s.setTeam n t).teams = putAt s.teams n t := rfl
@[simp] theorem setTeam_crews (s : State) (n : Nat) (t : Team) : (s.setTeam n t).crews = s.crews := rfl
@[simp] theorem setTeam_queues (s : State) (n : Nat) (t : Team) : (s.setTeam n t).queues = s.queues := rfl
@[simp] theorem setTeam_request (s : State) (n : Nat) (t : Team) : (s.setTeam n t).request = s.request := rfl
@[simp] theorem setTeam_cur (s : State) (n : Nat) (t : Team) : (s.setTeam n t).cur = s.cur := rfl
@[simp] theorem setTeam_agenda (s : State) (n : Nat) (t : Team) : (s.setTeam n t).agenda = s.agenda := rfl
@[simp] theorem setTeam_turn (s : State) (n : Nat) (t : Team) : (s.setTeam n t).turn = s.turn := rfl
@[simp] theorem setTeam_waited (s : State) (n : Nat) (t : Team) : (s.setTeam n t).waited = s.waited := rfl
@[simp] theorem setTeam_serial (s : State) (n : Nat) (t : Team) : (s.setTeam n t).serial = s.serial := rfl
@[simp] theorem setTeam_free (s : State) (n : Nat) (t : Team) : (s.setTeam n t).free = s.free := rfl

@[simp] theorem mapCrew_dev (s : State) (k : CrewKey) (f : Crew → Crew) : (s.mapCrew k f).dev = s.dev := rfl
@[simp] theorem mapCrew_mem (s : State) (k : CrewKey) (f : Crew → Crew) : (s.mapCrew k f).mem = s.mem := rfl
@[simp] theorem mapCrew_fl (s : State) (k : CrewKey) (f : Crew → Crew) : (s.mapCrew k f).fl = s.fl := rfl
@[simp] theorem mapCrew_launches (s : State) (k : CrewKey) (f : Crew → Crew) : (s.mapCrew k f).launches = s.launches := rfl
@[simp] theorem mapCrew_gangs (s : State) (k : CrewKey) (f : Crew → Crew) : (s.mapCrew k f).gangs = s.gangs := rfl
@[simp] theorem mapCrew_teams (s : State) (k : CrewKey) (f : Crew → Crew) : (s.mapCrew k f).teams = s.teams := rfl
@[simp] theorem mapCrew_crews (s : State) (k : CrewKey) (f : Crew → Crew) : (s.mapCrew k f).crews = s.crews.map (fun c => if c.key = k then f c else c) := rfl
@[simp] theorem mapCrew_queues (s : State) (k : CrewKey) (f : Crew → Crew) : (s.mapCrew k f).queues = s.queues := rfl
@[simp] theorem mapCrew_request (s : State) (k : CrewKey) (f : Crew → Crew) : (s.mapCrew k f).request = s.request := rfl
@[simp] theorem mapCrew_cur (s : State) (k : CrewKey) (f : Crew → Crew) : (s.mapCrew k f).cur = s.cur := rfl
@[simp] theorem mapCrew_agenda (s : State) (k : CrewKey) (f : Crew → Crew) : (s.mapCrew k f).agenda = s.agenda := rfl
@[simp] theorem mapCrew_turn (s : State) (k : CrewKey) (f : Crew → Crew) : (s.mapCrew k f).turn = s.turn := rfl
@[simp] theorem mapCrew_waited (s : State) (k : CrewKey) (f : Crew → Crew) : (s.mapCrew k f).waited = s.waited := rfl
@[simp] theorem mapCrew_serial (s : State) (k : CrewKey) (f : Crew → Crew) : (s.mapCrew k f).serial = s.serial := rfl
@[simp] theorem mapCrew_free (s : State) (k : CrewKey) (f : Crew → Crew) : (s.mapCrew k f).free = s.free := rfl

@[simp] theorem mapTeam_dev (s : State) (k : TeamKey) (f : Team → Team) : (s.mapTeam k f).dev = s.dev := rfl
@[simp] theorem mapTeam_mem (s : State) (k : TeamKey) (f : Team → Team) : (s.mapTeam k f).mem = s.mem := rfl
@[simp] theorem mapTeam_fl (s : State) (k : TeamKey) (f : Team → Team) : (s.mapTeam k f).fl = s.fl := rfl
@[simp] theorem mapTeam_launches (s : State) (k : TeamKey) (f : Team → Team) : (s.mapTeam k f).launches = s.launches := rfl
@[simp] theorem mapTeam_gangs (s : State) (k : TeamKey) (f : Team → Team) : (s.mapTeam k f).gangs = s.gangs := rfl
@[simp] theorem mapTeam_teams (s : State) (k : TeamKey) (f : Team → Team) : (s.mapTeam k f).teams = s.teams.map (fun t => if t.key = k then f t else t) := rfl
@[simp] theorem mapTeam_crews (s : State) (k : TeamKey) (f : Team → Team) : (s.mapTeam k f).crews = s.crews := rfl
@[simp] theorem mapTeam_queues (s : State) (k : TeamKey) (f : Team → Team) : (s.mapTeam k f).queues = s.queues := rfl
@[simp] theorem mapTeam_request (s : State) (k : TeamKey) (f : Team → Team) : (s.mapTeam k f).request = s.request := rfl
@[simp] theorem mapTeam_cur (s : State) (k : TeamKey) (f : Team → Team) : (s.mapTeam k f).cur = s.cur := rfl
@[simp] theorem mapTeam_agenda (s : State) (k : TeamKey) (f : Team → Team) : (s.mapTeam k f).agenda = s.agenda := rfl
@[simp] theorem mapTeam_turn (s : State) (k : TeamKey) (f : Team → Team) : (s.mapTeam k f).turn = s.turn := rfl
@[simp] theorem mapTeam_waited (s : State) (k : TeamKey) (f : Team → Team) : (s.mapTeam k f).waited = s.waited := rfl
@[simp] theorem mapTeam_serial (s : State) (k : TeamKey) (f : Team → Team) : (s.mapTeam k f).serial = s.serial := rfl
@[simp] theorem mapTeam_free (s : State) (k : TeamKey) (f : Team → Team) : (s.mapTeam k f).free = s.free := rfl

@[simp] theorem mapLaunch_dev (s : State) (id : Word) (f : Launch → Launch) : (s.mapLaunch id f).dev = s.dev := rfl
@[simp] theorem mapLaunch_mem (s : State) (id : Word) (f : Launch → Launch) : (s.mapLaunch id f).mem = s.mem := rfl
@[simp] theorem mapLaunch_fl (s : State) (id : Word) (f : Launch → Launch) : (s.mapLaunch id f).fl = s.fl := rfl
@[simp] theorem mapLaunch_launches (s : State) (id : Word) (f : Launch → Launch) : (s.mapLaunch id f).launches = s.launches.map (fun l => if l.id = id then f l else l) := rfl
@[simp] theorem mapLaunch_gangs (s : State) (id : Word) (f : Launch → Launch) : (s.mapLaunch id f).gangs = s.gangs := rfl
@[simp] theorem mapLaunch_teams (s : State) (id : Word) (f : Launch → Launch) : (s.mapLaunch id f).teams = s.teams := rfl
@[simp] theorem mapLaunch_crews (s : State) (id : Word) (f : Launch → Launch) : (s.mapLaunch id f).crews = s.crews := rfl
@[simp] theorem mapLaunch_queues (s : State) (id : Word) (f : Launch → Launch) : (s.mapLaunch id f).queues = s.queues := rfl
@[simp] theorem mapLaunch_request (s : State) (id : Word) (f : Launch → Launch) : (s.mapLaunch id f).request = s.request := rfl
@[simp] theorem mapLaunch_cur (s : State) (id : Word) (f : Launch → Launch) : (s.mapLaunch id f).cur = s.cur := rfl
@[simp] theorem mapLaunch_agenda (s : State) (id : Word) (f : Launch → Launch) : (s.mapLaunch id f).agenda = s.agenda := rfl
@[simp] theorem mapLaunch_turn (s : State) (id : Word) (f : Launch → Launch) : (s.mapLaunch id f).turn = s.turn := rfl
@[simp] theorem mapLaunch_waited (s : State) (id : Word) (f : Launch → Launch) : (s.mapLaunch id f).waited = s.waited := rfl
@[simp] theorem mapLaunch_serial (s : State) (id : Word) (f : Launch → Launch) : (s.mapLaunch id f).serial = s.serial := rfl
@[simp] theorem mapLaunch_free (s : State) (id : Word) (f : Launch → Launch) : (s.mapLaunch id f).free = s.free := rfl

@[simp] theorem mapGang_dev (s : State) (id : Word) (g : Nat) (f : Gang → Gang) : (s.mapGang id g f).dev = s.dev := rfl
@[simp] theorem mapGang_mem (s : State) (id : Word) (g : Nat) (f : Gang → Gang) : (s.mapGang id g f).mem = s.mem := rfl
@[simp] theorem mapGang_fl (s : State) (id : Word) (g : Nat) (f : Gang → Gang) : (s.mapGang id g f).fl = s.fl := rfl
@[simp] theorem mapGang_launches (s : State) (id : Word) (g : Nat) (f : Gang → Gang) : (s.mapGang id g f).launches = s.launches := rfl
@[simp] theorem mapGang_gangs (s : State) (id : Word) (g : Nat) (f : Gang → Gang) : (s.mapGang id g f).gangs = s.gangs.map (fun x => if x.launch = id ∧ x.num = g then f x else x) := rfl
@[simp] theorem mapGang_teams (s : State) (id : Word) (g : Nat) (f : Gang → Gang) : (s.mapGang id g f).teams = s.teams := rfl
@[simp] theorem mapGang_crews (s : State) (id : Word) (g : Nat) (f : Gang → Gang) : (s.mapGang id g f).crews = s.crews := rfl
@[simp] theorem mapGang_queues (s : State) (id : Word) (g : Nat) (f : Gang → Gang) : (s.mapGang id g f).queues = s.queues := rfl
@[simp] theorem mapGang_request (s : State) (id : Word) (g : Nat) (f : Gang → Gang) : (s.mapGang id g f).request = s.request := rfl
@[simp] theorem mapGang_cur (s : State) (id : Word) (g : Nat) (f : Gang → Gang) : (s.mapGang id g f).cur = s.cur := rfl
@[simp] theorem mapGang_agenda (s : State) (id : Word) (g : Nat) (f : Gang → Gang) : (s.mapGang id g f).agenda = s.agenda := rfl
@[simp] theorem mapGang_turn (s : State) (id : Word) (g : Nat) (f : Gang → Gang) : (s.mapGang id g f).turn = s.turn := rfl
@[simp] theorem mapGang_waited (s : State) (id : Word) (g : Nat) (f : Gang → Gang) : (s.mapGang id g f).waited = s.waited := rfl
@[simp] theorem mapGang_serial (s : State) (id : Word) (g : Nat) (f : Gang → Gang) : (s.mapGang id g f).serial = s.serial := rfl
@[simp] theorem mapGang_free (s : State) (id : Word) (g : Nat) (f : Gang → Gang) : (s.mapGang id g f).free = s.free := rfl

@[simp] theorem mapQueue_dev (s : State) (q : Nat) (f : Queue → Queue) : (s.mapQueue q f).dev = s.dev := rfl
@[simp] theorem mapQueue_mem (s : State) (q : Nat) (f : Queue → Queue) : (s.mapQueue q f).mem = s.mem := rfl
@[simp] theorem mapQueue_fl (s : State) (q : Nat) (f : Queue → Queue) : (s.mapQueue q f).fl = s.fl := rfl
@[simp] theorem mapQueue_launches (s : State) (q : Nat) (f : Queue → Queue) : (s.mapQueue q f).launches = s.launches := rfl
@[simp] theorem mapQueue_gangs (s : State) (q : Nat) (f : Queue → Queue) : (s.mapQueue q f).gangs = s.gangs := rfl
@[simp] theorem mapQueue_teams (s : State) (q : Nat) (f : Queue → Queue) : (s.mapQueue q f).teams = s.teams := rfl
@[simp] theorem mapQueue_crews (s : State) (q : Nat) (f : Queue → Queue) : (s.mapQueue q f).crews = s.crews := rfl
@[simp] theorem mapQueue_queues (s : State) (q : Nat) (f : Queue → Queue) : (s.mapQueue q f).queues = s.queues.map (fun x => if x.num = q then f x else x) := rfl
@[simp] theorem mapQueue_request (s : State) (q : Nat) (f : Queue → Queue) : (s.mapQueue q f).request = s.request := rfl
@[simp] theorem mapQueue_cur (s : State) (q : Nat) (f : Queue → Queue) : (s.mapQueue q f).cur = s.cur := rfl
@[simp] theorem mapQueue_agenda (s : State) (q : Nat) (f : Queue → Queue) : (s.mapQueue q f).agenda = s.agenda := rfl
@[simp] theorem mapQueue_turn (s : State) (q : Nat) (f : Queue → Queue) : (s.mapQueue q f).turn = s.turn := rfl
@[simp] theorem mapQueue_waited (s : State) (q : Nat) (f : Queue → Queue) : (s.mapQueue q f).waited = s.waited := rfl
@[simp] theorem mapQueue_serial (s : State) (q : Nat) (f : Queue → Queue) : (s.mapQueue q f).serial = s.serial := rfl
@[simp] theorem mapQueue_free (s : State) (q : Nat) (f : Queue → Queue) : (s.mapQueue q f).free = s.free := rfl

@[simp] theorem mapOp_dev (s : State) (id : Nat) (f : MOp → MOp) : (s.mapOp id f).dev = s.dev := rfl
@[simp] theorem mapOp_mem (s : State) (id : Nat) (f : MOp → MOp) : (s.mapOp id f).mem = s.mem := rfl
@[simp] theorem mapOp_launches (s : State) (id : Nat) (f : MOp → MOp) : (s.mapOp id f).launches = s.launches := rfl
@[simp] theorem mapOp_gangs (s : State) (id : Nat) (f : MOp → MOp) : (s.mapOp id f).gangs = s.gangs := rfl
@[simp] theorem mapOp_teams (s : State) (id : Nat) (f : MOp → MOp) : (s.mapOp id f).teams = s.teams := rfl
@[simp] theorem mapOp_crews (s : State) (id : Nat) (f : MOp → MOp) : (s.mapOp id f).crews = s.crews := rfl
@[simp] theorem mapOp_queues (s : State) (id : Nat) (f : MOp → MOp) : (s.mapOp id f).queues = s.queues := rfl
@[simp] theorem mapOp_request (s : State) (id : Nat) (f : MOp → MOp) : (s.mapOp id f).request = s.request := rfl
@[simp] theorem mapOp_cur (s : State) (id : Nat) (f : MOp → MOp) : (s.mapOp id f).cur = s.cur := rfl
@[simp] theorem mapOp_agenda (s : State) (id : Nat) (f : MOp → MOp) : (s.mapOp id f).agenda = s.agenda := rfl
@[simp] theorem mapOp_turn (s : State) (id : Nat) (f : MOp → MOp) : (s.mapOp id f).turn = s.turn := rfl
@[simp] theorem mapOp_waited (s : State) (id : Nat) (f : MOp → MOp) : (s.mapOp id f).waited = s.waited := rfl
@[simp] theorem mapOp_serial (s : State) (id : Nat) (f : MOp → MOp) : (s.mapOp id f).serial = s.serial := rfl
@[simp] theorem mapOp_free (s : State) (id : Nat) (f : MOp → MOp) : (s.mapOp id f).free = s.free := rfl

@[simp] theorem dropOp_dev (s : State) (id : Nat) : (s.dropOp id).dev = s.dev := rfl
@[simp] theorem dropOp_mem (s : State) (id : Nat) : (s.dropOp id).mem = s.mem := rfl
@[simp] theorem dropOp_launches (s : State) (id : Nat) : (s.dropOp id).launches = s.launches := rfl
@[simp] theorem dropOp_gangs (s : State) (id : Nat) : (s.dropOp id).gangs = s.gangs := rfl
@[simp] theorem dropOp_teams (s : State) (id : Nat) : (s.dropOp id).teams = s.teams := rfl
@[simp] theorem dropOp_crews (s : State) (id : Nat) : (s.dropOp id).crews = s.crews := rfl
@[simp] theorem dropOp_queues (s : State) (id : Nat) : (s.dropOp id).queues = s.queues := rfl
@[simp] theorem dropOp_request (s : State) (id : Nat) : (s.dropOp id).request = s.request := rfl
@[simp] theorem dropOp_cur (s : State) (id : Nat) : (s.dropOp id).cur = s.cur := rfl
@[simp] theorem dropOp_agenda (s : State) (id : Nat) : (s.dropOp id).agenda = s.agenda := rfl
@[simp] theorem dropOp_turn (s : State) (id : Nat) : (s.dropOp id).turn = s.turn := rfl
@[simp] theorem dropOp_waited (s : State) (id : Nat) : (s.dropOp id).waited = s.waited := rfl
@[simp] theorem dropOp_serial (s : State) (id : Nat) : (s.dropOp id).serial = s.serial := rfl
@[simp] theorem dropOp_free (s : State) (id : Nat) : (s.dropOp id).free = s.free := rfl

@[simp] theorem addOp_dev (s : State) (o : MOp) : (s.addOp o).dev = s.dev := rfl
@[simp] theorem addOp_mem (s : State) (o : MOp) : (s.addOp o).mem = s.mem := rfl
@[simp] theorem addOp_launches (s : State) (o : MOp) : (s.addOp o).launches = s.launches := rfl
@[simp] theorem addOp_gangs (s : State) (o : MOp) : (s.addOp o).gangs = s.gangs := rfl
@[simp] theorem addOp_teams (s : State) (o : MOp) : (s.addOp o).teams = s.teams := rfl
@[simp] theorem addOp_crews (s : State) (o : MOp) : (s.addOp o).crews = s.crews := rfl
@[simp] theorem addOp_queues (s : State) (o : MOp) : (s.addOp o).queues = s.queues := rfl
@[simp] theorem addOp_request (s : State) (o : MOp) : (s.addOp o).request = s.request := rfl
@[simp] theorem addOp_cur (s : State) (o : MOp) : (s.addOp o).cur = s.cur := rfl
@[simp] theorem addOp_agenda (s : State) (o : MOp) : (s.addOp o).agenda = s.agenda := rfl
@[simp] theorem addOp_turn (s : State) (o : MOp) : (s.addOp o).turn = s.turn := rfl
@[simp] theorem addOp_waited (s : State) (o : MOp) : (s.addOp o).waited = s.waited := rfl
@[simp] theorem addOp_serial (s : State) (o : MOp) : (s.addOp o).serial = s.serial + 1 := rfl
@[simp] theorem addOp_free (s : State) (o : MOp) : (s.addOp o).free = s.free := rfl

@[simp] theorem setReq_dev (s : State) (op i : Nat) (f : LReq → LReq) : (s.setReq op i f).dev = s.dev := rfl
@[simp] theorem setReq_mem (s : State) (op i : Nat) (f : LReq → LReq) : (s.setReq op i f).mem = s.mem := rfl
@[simp] theorem setReq_launches (s : State) (op i : Nat) (f : LReq → LReq) : (s.setReq op i f).launches = s.launches := rfl
@[simp] theorem setReq_gangs (s : State) (op i : Nat) (f : LReq → LReq) : (s.setReq op i f).gangs = s.gangs := rfl
@[simp] theorem setReq_teams (s : State) (op i : Nat) (f : LReq → LReq) : (s.setReq op i f).teams = s.teams := rfl
@[simp] theorem setReq_crews (s : State) (op i : Nat) (f : LReq → LReq) : (s.setReq op i f).crews = s.crews := rfl
@[simp] theorem setReq_queues (s : State) (op i : Nat) (f : LReq → LReq) : (s.setReq op i f).queues = s.queues := rfl
@[simp] theorem setReq_request (s : State) (op i : Nat) (f : LReq → LReq) : (s.setReq op i f).request = s.request := rfl
@[simp] theorem setReq_cur (s : State) (op i : Nat) (f : LReq → LReq) : (s.setReq op i f).cur = s.cur := rfl
@[simp] theorem setReq_agenda (s : State) (op i : Nat) (f : LReq → LReq) : (s.setReq op i f).agenda = s.agenda := rfl
@[simp] theorem setReq_turn (s : State) (op i : Nat) (f : LReq → LReq) : (s.setReq op i f).turn = s.turn := rfl
@[simp] theorem setReq_waited (s : State) (op i : Nat) (f : LReq → LReq) : (s.setReq op i f).waited = s.waited := rfl
@[simp] theorem setReq_serial (s : State) (op i : Nat) (f : LReq → LReq) : (s.setReq op i f).serial = s.serial := rfl
@[simp] theorem setReq_free (s : State) (op i : Nat) (f : LReq → LReq) : (s.setReq op i f).free = s.free := rfl

@[simp] theorem tell_mem (s : State) (m : OutMsg) : (s.tell m).mem = s.mem := rfl
@[simp] theorem tell_fl (s : State) (m : OutMsg) : (s.tell m).fl = s.fl := rfl
@[simp] theorem tell_launches (s : State) (m : OutMsg) : (s.tell m).launches = s.launches := rfl
@[simp] theorem tell_gangs (s : State) (m : OutMsg) : (s.tell m).gangs = s.gangs := rfl
@[simp] theorem tell_teams (s : State) (m : OutMsg) : (s.tell m).teams = s.teams := rfl
@[simp] theorem tell_crews (s : State) (m : OutMsg) : (s.tell m).crews = s.crews := rfl
@[simp] theorem tell_queues (s : State) (m : OutMsg) : (s.tell m).queues = s.queues := rfl
@[simp] theorem tell_request (s : State) (m : OutMsg) : (s.tell m).request = s.request := rfl
@[simp] theorem tell_cur (s : State) (m : OutMsg) : (s.tell m).cur = s.cur := rfl
@[simp] theorem tell_agenda (s : State) (m : OutMsg) : (s.tell m).agenda = s.agenda := rfl
@[simp] theorem tell_turn (s : State) (m : OutMsg) : (s.tell m).turn = s.turn := rfl
@[simp] theorem tell_waited (s : State) (m : OutMsg) : (s.tell m).waited = s.waited := rfl
@[simp] theorem tell_serial (s : State) (m : OutMsg) : (s.tell m).serial = s.serial := rfl
@[simp] theorem tell_free (s : State) (m : OutMsg) : (s.tell m).free = s.free := rfl

@[simp] theorem stopGang_dev (s : State) (l : Word) (g : Nat) : (s.stopGang l g).dev = s.dev := rfl
@[simp] theorem stopGang_mem (s : State) (l : Word) (g : Nat) : (s.stopGang l g).mem = s.mem := rfl
@[simp] theorem stopGang_fl (s : State) (l : Word) (g : Nat) : (s.stopGang l g).fl = s.fl := rfl
@[simp] theorem stopGang_launches (s : State) (l : Word) (g : Nat) : (s.stopGang l g).launches = s.launches := rfl
@[simp] theorem stopGang_gangs (s : State) (l : Word) (g : Nat) : (s.stopGang l g).gangs = s.gangs := rfl
@[simp] theorem stopGang_teams (s : State) (l : Word) (g : Nat) : (s.stopGang l g).teams = s.teams := rfl
@[simp] theorem stopGang_queues (s : State) (l : Word) (g : Nat) : (s.stopGang l g).queues = s.queues := rfl
@[simp] theorem stopGang_request (s : State) (l : Word) (g : Nat) : (s.stopGang l g).request = s.request := rfl
@[simp] theorem stopGang_cur (s : State) (l : Word) (g : Nat) : (s.stopGang l g).cur = s.cur := rfl
@[simp] theorem stopGang_agenda (s : State) (l : Word) (g : Nat) : (s.stopGang l g).agenda = s.agenda := rfl
@[simp] theorem stopGang_turn (s : State) (l : Word) (g : Nat) : (s.stopGang l g).turn = s.turn := rfl
@[simp] theorem stopGang_waited (s : State) (l : Word) (g : Nat) : (s.stopGang l g).waited = s.waited := rfl
@[simp] theorem stopGang_serial (s : State) (l : Word) (g : Nat) : (s.stopGang l g).serial = s.serial := rfl
@[simp] theorem stopGang_free (s : State) (l : Word) (g : Nat) : (s.stopGang l g).free = s.free := rfl

/-! ### What the issue of a word leaves of the machine -/

@[simp] theorem ran_dev (s : State) : s.ran.dev = s.dev := rfl
@[simp] theorem ran_mem (s : State) : s.ran.mem = s.mem := rfl
@[simp] theorem ran_fl (s : State) : s.ran.fl = s.fl := rfl
@[simp] theorem ran_launches (s : State) : s.ran.launches = s.launches := rfl
@[simp] theorem ran_gangs (s : State) : s.ran.gangs = s.gangs := rfl
@[simp] theorem ran_teams (s : State) : s.ran.teams = s.teams := rfl
@[simp] theorem ran_crews (s : State) : s.ran.crews = s.crews := rfl
@[simp] theorem ran_queues (s : State) : s.ran.queues = s.queues := rfl
@[simp] theorem ran_request (s : State) : s.ran.request = s.request := rfl
@[simp] theorem ran_cur (s : State) : s.ran.cur = s.cur := rfl
@[simp] theorem ran_agenda (s : State) : s.ran.agenda = s.agenda := rfl
@[simp] theorem ran_turn (s : State) : s.ran.turn = s.turn := rfl
@[simp] theorem ran_waited (s : State) : s.ran.waited = false := rfl
@[simp] theorem ran_serial (s : State) : s.ran.serial = s.serial := rfl
@[simp] theorem ran_free (s : State) : s.ran.free = s.free := rfl
@[simp] theorem done_dev (c : Ctx) (s : State) (cr : Crew) : (c.done s cr).dev = s.dev := rfl
@[simp] theorem done_mem (c : Ctx) (s : State) (cr : Crew) : (c.done s cr).mem = s.mem := rfl
@[simp] theorem done_fl (c : Ctx) (s : State) (cr : Crew) : (c.done s cr).fl = s.fl := rfl
@[simp] theorem done_launches (c : Ctx) (s : State) (cr : Crew) : (c.done s cr).launches = s.launches := rfl
@[simp] theorem done_gangs (c : Ctx) (s : State) (cr : Crew) : (c.done s cr).gangs = s.gangs := rfl
@[simp] theorem done_teams (c : Ctx) (s : State) (cr : Crew) : (c.done s cr).teams = s.teams := rfl
@[simp] theorem done_crews (c : Ctx) (s : State) (cr : Crew) :
    (c.done s cr).crews = putAt s.crews c.n (cr.advance c.grp c.next) := rfl
@[simp] theorem done_queues (c : Ctx) (s : State) (cr : Crew) : (c.done s cr).queues = s.queues := rfl
@[simp] theorem done_request (c : Ctx) (s : State) (cr : Crew) : (c.done s cr).request = s.request := rfl
@[simp] theorem done_cur (c : Ctx) (s : State) (cr : Crew) : (c.done s cr).cur = s.cur := rfl
@[simp] theorem done_agenda (c : Ctx) (s : State) (cr : Crew) : (c.done s cr).agenda = s.agenda := rfl
@[simp] theorem done_turn (c : Ctx) (s : State) (cr : Crew) : (c.done s cr).turn = s.turn := rfl
@[simp] theorem done_waited (c : Ctx) (s : State) (cr : Crew) : (c.done s cr).waited = false := rfl
@[simp] theorem done_serial (c : Ctx) (s : State) (cr : Crew) : (c.done s cr).serial = s.serial := rfl
@[simp] theorem done_free (c : Ctx) (s : State) (cr : Crew) : (c.done s cr).free = s.free := rfl

@[simp] theorem go_dev (c : Ctx) (s : State) (f : Crew → Crew) : (c.go s f).dev = s.dev := by
  unfold Ctx.go; split <;> rfl
@[simp] theorem go_mem (c : Ctx) (s : State) (f : Crew → Crew) : (c.go s f).mem = s.mem := by
  unfold Ctx.go; split <;> rfl
@[simp] theorem go_fl (c : Ctx) (s : State) (f : Crew → Crew) : (c.go s f).fl = s.fl := by
  unfold Ctx.go; split <;> rfl
@[simp] theorem go_launches (c : Ctx) (s : State) (f : Crew → Crew) : (c.go s f).launches = s.launches := by
  unfold Ctx.go; split <;> rfl
@[simp] theorem go_gangs (c : Ctx) (s : State) (f : Crew → Crew) : (c.go s f).gangs = s.gangs := by
  unfold Ctx.go; split <;> rfl
@[simp] theorem go_teams (c : Ctx) (s : State) (f : Crew → Crew) : (c.go s f).teams = s.teams := by
  unfold Ctx.go; split <;> rfl
@[simp] theorem go_queues (c : Ctx) (s : State) (f : Crew → Crew) : (c.go s f).queues = s.queues := by
  unfold Ctx.go; split <;> rfl
@[simp] theorem go_request (c : Ctx) (s : State) (f : Crew → Crew) : (c.go s f).request = s.request := by
  unfold Ctx.go; split <;> rfl
@[simp] theorem go_cur (c : Ctx) (s : State) (f : Crew → Crew) : (c.go s f).cur = s.cur := by
  unfold Ctx.go; split <;> rfl
@[simp] theorem go_agenda (c : Ctx) (s : State) (f : Crew → Crew) : (c.go s f).agenda = s.agenda := by
  unfold Ctx.go; split <;> rfl
@[simp] theorem go_turn (c : Ctx) (s : State) (f : Crew → Crew) : (c.go s f).turn = s.turn := by
  unfold Ctx.go; split <;> rfl
@[simp] theorem go_waited (c : Ctx) (s : State) (f : Crew → Crew) : (c.go s f).waited = s.waited := by
  unfold Ctx.go; split <;> rfl
@[simp] theorem go_serial (c : Ctx) (s : State) (f : Crew → Crew) : (c.go s f).serial = s.serial := by
  unfold Ctx.go; split <;> rfl
@[simp] theorem go_free (c : Ctx) (s : State) (f : Crew → Crew) : (c.go s f).free = s.free := by
  unfold Ctx.go; split <;> rfl

/-! ### Crews -/

@[simp] theorem Crew.putU_key (c : Crew) (n : Nat) (w : Word) : (c.putU n w).key = c.key := rfl
@[simp] theorem Crew.putU_quota (c : Crew) (n : Nat) (w : Word) : (c.putU n w).quota = c.quota := rfl
@[simp] theorem Crew.putU_vregs (c : Crew) (n : Nat) (w : Word) : (c.putU n w).vregs = c.vregs := rfl
@[simp] theorem Crew.putU_vbad (c : Crew) (n : Nat) (w : Word) : (c.putU n w).vbad = c.vbad := rfl
@[simp] theorem Crew.putU_uregs (c : Crew) (n : Nat) (w : Word) : (c.putU n w).uregs = Cells.set 0#32 c.uregs n w := rfl
@[simp] theorem Crew.putU_preds (c : Crew) (n : Nat) (w : Word) : (c.putU n w).preds = c.preds := rfl
@[simp] theorem Crew.putU_entries (c : Crew) (n : Nat) (w : Word) : (c.putU n w).entries = c.entries := rfl
@[simp] theorem Crew.putU_links (c : Crew) (n : Nat) (w : Word) : (c.putU n w).links = c.links := rfl
@[simp] theorem Crew.putU_rm (c : Crew) (n : Nat) (w : Word) : (c.putU n w).rm = c.rm := rfl
@[simp] theorem Crew.putU_flags (c : Crew) (n : Nat) (w : Word) : (c.putU n w).flags = c.flags := rfl
@[simp] theorem Crew.putU_evec (c : Crew) (n : Nat) (w : Word) : (c.putU n w).evec = c.evec := rfl
@[simp] theorem Crew.putU_pend (c : Crew) (n : Nat) (w : Word) : (c.putU n w).pend = c.pend := rfl
@[simp] theorem Crew.putU_group (c : Crew) (n : Nat) (w : Word) : (c.putU n w).group = c.group := rfl
@[simp] theorem Crew.putU_stopped (c : Crew) (n : Nat) (w : Word) : (c.putU n w).stopped = c.stopped := rfl

@[simp] theorem Crew.mark_key (c : Crew) (op : Nat) (rs : List PReg) : (c.mark op rs).key = c.key := rfl
@[simp] theorem Crew.mark_quota (c : Crew) (op : Nat) (rs : List PReg) : (c.mark op rs).quota = c.quota := rfl
@[simp] theorem Crew.mark_vregs (c : Crew) (op : Nat) (rs : List PReg) : (c.mark op rs).vregs = c.vregs := rfl
@[simp] theorem Crew.mark_vbad (c : Crew) (op : Nat) (rs : List PReg) : (c.mark op rs).vbad = c.vbad := rfl
@[simp] theorem Crew.mark_uregs (c : Crew) (op : Nat) (rs : List PReg) : (c.mark op rs).uregs = c.uregs := rfl
@[simp] theorem Crew.mark_preds (c : Crew) (op : Nat) (rs : List PReg) : (c.mark op rs).preds = c.preds := rfl
@[simp] theorem Crew.mark_entries (c : Crew) (op : Nat) (rs : List PReg) : (c.mark op rs).entries = c.entries := rfl
@[simp] theorem Crew.mark_links (c : Crew) (op : Nat) (rs : List PReg) : (c.mark op rs).links = c.links := rfl
@[simp] theorem Crew.mark_rm (c : Crew) (op : Nat) (rs : List PReg) : (c.mark op rs).rm = c.rm := rfl
@[simp] theorem Crew.mark_flags (c : Crew) (op : Nat) (rs : List PReg) : (c.mark op rs).flags = c.flags := rfl
@[simp] theorem Crew.mark_evec (c : Crew) (op : Nat) (rs : List PReg) : (c.mark op rs).evec = c.evec := rfl
@[simp] theorem Crew.mark_pend (c : Crew) (op : Nat) (rs : List PReg) : (c.mark op rs).pend = c.pend ++ rs.map (fun r => { reg := r, op := op }) := rfl
@[simp] theorem Crew.mark_group (c : Crew) (op : Nat) (rs : List PReg) : (c.mark op rs).group = c.group := rfl
@[simp] theorem Crew.mark_stopped (c : Crew) (op : Nat) (rs : List PReg) : (c.mark op rs).stopped = c.stopped := rfl

@[simp] theorem Crew.unmark_key (c : Crew) (op : Nat) : (c.unmark op).key = c.key := rfl
@[simp] theorem Crew.unmark_quota (c : Crew) (op : Nat) : (c.unmark op).quota = c.quota := rfl
@[simp] theorem Crew.unmark_vregs (c : Crew) (op : Nat) : (c.unmark op).vregs = c.vregs := rfl
@[simp] theorem Crew.unmark_vbad (c : Crew) (op : Nat) : (c.unmark op).vbad = c.vbad := rfl
@[simp] theorem Crew.unmark_uregs (c : Crew) (op : Nat) : (c.unmark op).uregs = c.uregs := rfl
@[simp] theorem Crew.unmark_preds (c : Crew) (op : Nat) : (c.unmark op).preds = c.preds := rfl
@[simp] theorem Crew.unmark_entries (c : Crew) (op : Nat) : (c.unmark op).entries = c.entries := rfl
@[simp] theorem Crew.unmark_links (c : Crew) (op : Nat) : (c.unmark op).links = c.links := rfl
@[simp] theorem Crew.unmark_rm (c : Crew) (op : Nat) : (c.unmark op).rm = c.rm := rfl
@[simp] theorem Crew.unmark_flags (c : Crew) (op : Nat) : (c.unmark op).flags = c.flags := rfl
@[simp] theorem Crew.unmark_evec (c : Crew) (op : Nat) : (c.unmark op).evec = c.evec := rfl
@[simp] theorem Crew.unmark_pend (c : Crew) (op : Nat) : (c.unmark op).pend = c.pend.filter (fun p => !decide (p.op = op)) := rfl
@[simp] theorem Crew.unmark_group (c : Crew) (op : Nat) : (c.unmark op).group = c.group := rfl
@[simp] theorem Crew.unmark_stopped (c : Crew) (op : Nat) : (c.unmark op).stopped = c.stopped := rfl

@[simp] theorem Crew.orFlags_key (c : Crew) (f : BitVec 5) : (c.orFlags f).key = c.key := rfl
@[simp] theorem Crew.orFlags_quota (c : Crew) (f : BitVec 5) : (c.orFlags f).quota = c.quota := rfl
@[simp] theorem Crew.orFlags_vregs (c : Crew) (f : BitVec 5) : (c.orFlags f).vregs = c.vregs := rfl
@[simp] theorem Crew.orFlags_vbad (c : Crew) (f : BitVec 5) : (c.orFlags f).vbad = c.vbad := rfl
@[simp] theorem Crew.orFlags_uregs (c : Crew) (f : BitVec 5) : (c.orFlags f).uregs = c.uregs := rfl
@[simp] theorem Crew.orFlags_preds (c : Crew) (f : BitVec 5) : (c.orFlags f).preds = c.preds := rfl
@[simp] theorem Crew.orFlags_entries (c : Crew) (f : BitVec 5) : (c.orFlags f).entries = c.entries := rfl
@[simp] theorem Crew.orFlags_links (c : Crew) (f : BitVec 5) : (c.orFlags f).links = c.links := rfl
@[simp] theorem Crew.orFlags_rm (c : Crew) (f : BitVec 5) : (c.orFlags f).rm = c.rm := rfl
@[simp] theorem Crew.orFlags_flags (c : Crew) (f : BitVec 5) : (c.orFlags f).flags = c.flags ||| f := rfl
@[simp] theorem Crew.orFlags_evec (c : Crew) (f : BitVec 5) : (c.orFlags f).evec = c.evec := rfl
@[simp] theorem Crew.orFlags_pend (c : Crew) (f : BitVec 5) : (c.orFlags f).pend = c.pend := rfl
@[simp] theorem Crew.orFlags_group (c : Crew) (f : BitVec 5) : (c.orFlags f).group = c.group := rfl
@[simp] theorem Crew.orFlags_stopped (c : Crew) (f : BitVec 5) : (c.orFlags f).stopped = c.stopped := rfl

@[simp] theorem Crew.mapEntry_key (c : Crew) (t : Nat) (f : Entry → Entry) : (c.mapEntry t f).key = c.key := rfl
@[simp] theorem Crew.mapEntry_quota (c : Crew) (t : Nat) (f : Entry → Entry) : (c.mapEntry t f).quota = c.quota := rfl
@[simp] theorem Crew.mapEntry_vregs (c : Crew) (t : Nat) (f : Entry → Entry) : (c.mapEntry t f).vregs = c.vregs := rfl
@[simp] theorem Crew.mapEntry_vbad (c : Crew) (t : Nat) (f : Entry → Entry) : (c.mapEntry t f).vbad = c.vbad := rfl
@[simp] theorem Crew.mapEntry_uregs (c : Crew) (t : Nat) (f : Entry → Entry) : (c.mapEntry t f).uregs = c.uregs := rfl
@[simp] theorem Crew.mapEntry_preds (c : Crew) (t : Nat) (f : Entry → Entry) : (c.mapEntry t f).preds = c.preds := rfl
@[simp] theorem Crew.mapEntry_links (c : Crew) (t : Nat) (f : Entry → Entry) : (c.mapEntry t f).links = c.links := rfl
@[simp] theorem Crew.mapEntry_rm (c : Crew) (t : Nat) (f : Entry → Entry) : (c.mapEntry t f).rm = c.rm := rfl
@[simp] theorem Crew.mapEntry_flags (c : Crew) (t : Nat) (f : Entry → Entry) : (c.mapEntry t f).flags = c.flags := rfl
@[simp] theorem Crew.mapEntry_evec (c : Crew) (t : Nat) (f : Entry → Entry) : (c.mapEntry t f).evec = c.evec := rfl
@[simp] theorem Crew.mapEntry_pend (c : Crew) (t : Nat) (f : Entry → Entry) : (c.mapEntry t f).pend = c.pend := rfl
@[simp] theorem Crew.mapEntry_group (c : Crew) (t : Nat) (f : Entry → Entry) : (c.mapEntry t f).group = c.group := rfl
@[simp] theorem Crew.mapEntry_stopped (c : Crew) (t : Nat) (f : Entry → Entry) : (c.mapEntry t f).stopped = c.stopped := rfl

@[simp] theorem Crew.advance_key (c : Crew) (g : Group) (next : Word) : (c.advance g next).key = c.key := rfl
@[simp] theorem Crew.advance_quota (c : Crew) (g : Group) (next : Word) : (c.advance g next).quota = c.quota := rfl
@[simp] theorem Crew.advance_vregs (c : Crew) (g : Group) (next : Word) : (c.advance g next).vregs = c.vregs := rfl
@[simp] theorem Crew.advance_vbad (c : Crew) (g : Group) (next : Word) : (c.advance g next).vbad = c.vbad := rfl
@[simp] theorem Crew.advance_uregs (c : Crew) (g : Group) (next : Word) : (c.advance g next).uregs = c.uregs := rfl
@[simp] theorem Crew.advance_preds (c : Crew) (g : Group) (next : Word) : (c.advance g next).preds = c.preds := rfl
@[simp] theorem Crew.advance_links (c : Crew) (g : Group) (next : Word) : (c.advance g next).links = c.links := rfl
@[simp] theorem Crew.advance_rm (c : Crew) (g : Group) (next : Word) : (c.advance g next).rm = c.rm := rfl
@[simp] theorem Crew.advance_flags (c : Crew) (g : Group) (next : Word) : (c.advance g next).flags = c.flags := rfl
@[simp] theorem Crew.advance_evec (c : Crew) (g : Group) (next : Word) : (c.advance g next).evec = c.evec := rfl
@[simp] theorem Crew.advance_pend (c : Crew) (g : Group) (next : Word) : (c.advance g next).pend = c.pend := rfl
@[simp] theorem Crew.advance_group (c : Crew) (g : Group) (next : Word) : (c.advance g next).group = none := rfl
@[simp] theorem Crew.advance_stopped (c : Crew) (g : Group) (next : Word) : (c.advance g next).stopped = c.stopped := rfl

@[simp] theorem Crew.split_key (c : Crew) (g : Group) (k : Bool) (l : List (BitVec 32 × Word × BitVec 6)) : (c.split g k l).key = c.key := rfl
@[simp] theorem Crew.split_quota (c : Crew) (g : Group) (k : Bool) (l : List (BitVec 32 × Word × BitVec 6)) : (c.split g k l).quota = c.quota := rfl
@[simp] theorem Crew.split_vregs (c : Crew) (g : Group) (k : Bool) (l : List (BitVec 32 × Word × BitVec 6)) : (c.split g k l).vregs = c.vregs := rfl
@[simp] theorem Crew.split_vbad (c : Crew) (g : Group) (k : Bool) (l : List (BitVec 32 × Word × BitVec 6)) : (c.split g k l).vbad = c.vbad := rfl
@[simp] theorem Crew.split_uregs (c : Crew) (g : Group) (k : Bool) (l : List (BitVec 32 × Word × BitVec 6)) : (c.split g k l).uregs = c.uregs := rfl
@[simp] theorem Crew.split_preds (c : Crew) (g : Group) (k : Bool) (l : List (BitVec 32 × Word × BitVec 6)) : (c.split g k l).preds = c.preds := rfl
@[simp] theorem Crew.split_links (c : Crew) (g : Group) (k : Bool) (l : List (BitVec 32 × Word × BitVec 6)) : (c.split g k l).links = c.links := rfl
@[simp] theorem Crew.split_rm (c : Crew) (g : Group) (k : Bool) (l : List (BitVec 32 × Word × BitVec 6)) : (c.split g k l).rm = c.rm := rfl
@[simp] theorem Crew.split_flags (c : Crew) (g : Group) (k : Bool) (l : List (BitVec 32 × Word × BitVec 6)) : (c.split g k l).flags = c.flags := rfl
@[simp] theorem Crew.split_evec (c : Crew) (g : Group) (k : Bool) (l : List (BitVec 32 × Word × BitVec 6)) : (c.split g k l).evec = c.evec := rfl
@[simp] theorem Crew.split_pend (c : Crew) (g : Group) (k : Bool) (l : List (BitVec 32 × Word × BitVec 6)) : (c.split g k l).pend = c.pend := rfl
@[simp] theorem Crew.split_group (c : Crew) (g : Group) (k : Bool) (l : List (BitVec 32 × Word × BitVec 6)) : (c.split g k l).group = none := rfl
@[simp] theorem Crew.split_stopped (c : Crew) (g : Group) (k : Bool) (l : List (BitVec 32 × Word × BitVec 6)) : (c.split g k l).stopped = c.stopped := rfl

/-! ### Operations in flight and caches -/

@[simp] theorem noteSeen_dev (s : State) (o : MOp) (i : Nat) (x : Target) (p : Nat) : (s.noteSeen o i x p).dev = s.dev := rfl
@[simp] theorem noteSeen_mem (s : State) (o : MOp) (i : Nat) (x : Target) (p : Nat) : (s.noteSeen o i x p).mem = s.mem := rfl
@[simp] theorem noteSeen_launches (s : State) (o : MOp) (i : Nat) (x : Target) (p : Nat) : (s.noteSeen o i x p).launches = s.launches := rfl
@[simp] theorem noteSeen_gangs (s : State) (o : MOp) (i : Nat) (x : Target) (p : Nat) : (s.noteSeen o i x p).gangs = s.gangs := rfl
@[simp] theorem noteSeen_teams (s : State) (o : MOp) (i : Nat) (x : Target) (p : Nat) : (s.noteSeen o i x p).teams = s.teams := rfl
@[simp] theorem noteSeen_crews (s : State) (o : MOp) (i : Nat) (x : Target) (p : Nat) : (s.noteSeen o i x p).crews = s.crews := rfl
@[simp] theorem noteSeen_queues (s : State) (o : MOp) (i : Nat) (x : Target) (p : Nat) : (s.noteSeen o i x p).queues = s.queues := rfl
@[simp] theorem noteSeen_request (s : State) (o : MOp) (i : Nat) (x : Target) (p : Nat) : (s.noteSeen o i x p).request = s.request := rfl
@[simp] theorem noteSeen_cur (s : State) (o : MOp) (i : Nat) (x : Target) (p : Nat) : (s.noteSeen o i x p).cur = s.cur := rfl
@[simp] theorem noteSeen_agenda (s : State) (o : MOp) (i : Nat) (x : Target) (p : Nat) : (s.noteSeen o i x p).agenda = s.agenda := rfl
@[simp] theorem noteSeen_turn (s : State) (o : MOp) (i : Nat) (x : Target) (p : Nat) : (s.noteSeen o i x p).turn = s.turn := rfl
@[simp] theorem noteSeen_waited (s : State) (o : MOp) (i : Nat) (x : Target) (p : Nat) : (s.noteSeen o i x p).waited = s.waited := rfl
@[simp] theorem noteSeen_serial (s : State) (o : MOp) (i : Nat) (x : Target) (p : Nat) : (s.noteSeen o i x p).serial = s.serial := rfl
@[simp] theorem noteSeen_free (s : State) (o : MOp) (i : Nat) (x : Target) (p : Nat) : (s.noteSeen o i x p).free = s.free := rfl

@[simp] theorem spoilFills_dev (s : State) (p : MOp → LReq → Bool) : (s.spoilFills p).dev = s.dev := rfl
@[simp] theorem spoilFills_mem (s : State) (p : MOp → LReq → Bool) : (s.spoilFills p).mem = s.mem := rfl
@[simp] theorem spoilFills_launches (s : State) (p : MOp → LReq → Bool) : (s.spoilFills p).launches = s.launches := rfl
@[simp] theorem spoilFills_gangs (s : State) (p : MOp → LReq → Bool) : (s.spoilFills p).gangs = s.gangs := rfl
@[simp] theorem spoilFills_teams (s : State) (p : MOp → LReq → Bool) : (s.spoilFills p).teams = s.teams := rfl
@[simp] theorem spoilFills_crews (s : State) (p : MOp → LReq → Bool) : (s.spoilFills p).crews = s.crews := rfl
@[simp] theorem spoilFills_queues (s : State) (p : MOp → LReq → Bool) : (s.spoilFills p).queues = s.queues := rfl
@[simp] theorem spoilFills_request (s : State) (p : MOp → LReq → Bool) : (s.spoilFills p).request = s.request := rfl
@[simp] theorem spoilFills_cur (s : State) (p : MOp → LReq → Bool) : (s.spoilFills p).cur = s.cur := rfl
@[simp] theorem spoilFills_agenda (s : State) (p : MOp → LReq → Bool) : (s.spoilFills p).agenda = s.agenda := rfl
@[simp] theorem spoilFills_turn (s : State) (p : MOp → LReq → Bool) : (s.spoilFills p).turn = s.turn := rfl
@[simp] theorem spoilFills_waited (s : State) (p : MOp → LReq → Bool) : (s.spoilFills p).waited = s.waited := rfl
@[simp] theorem spoilFills_serial (s : State) (p : MOp → LReq → Bool) : (s.spoilFills p).serial = s.serial := rfl
@[simp] theorem spoilFills_free (s : State) (p : MOp → LReq → Bool) : (s.spoilFills p).free = s.free := rfl

@[simp] theorem addMiss_dev (s : State) (l : Word) (m : Miss) : (s.addMiss l m).dev = s.dev := rfl
@[simp] theorem addMiss_mem (s : State) (l : Word) (m : Miss) : (s.addMiss l m).mem = s.mem := rfl
@[simp] theorem addMiss_launches (s : State) (l : Word) (m : Miss) : (s.addMiss l m).launches = s.launches := rfl
@[simp] theorem addMiss_gangs (s : State) (l : Word) (m : Miss) : (s.addMiss l m).gangs = s.gangs := rfl
@[simp] theorem addMiss_teams (s : State) (l : Word) (m : Miss) : (s.addMiss l m).teams = s.teams := rfl
@[simp] theorem addMiss_crews (s : State) (l : Word) (m : Miss) : (s.addMiss l m).crews = s.crews := rfl
@[simp] theorem addMiss_queues (s : State) (l : Word) (m : Miss) : (s.addMiss l m).queues = s.queues := rfl
@[simp] theorem addMiss_request (s : State) (l : Word) (m : Miss) : (s.addMiss l m).request = s.request := rfl
@[simp] theorem addMiss_cur (s : State) (l : Word) (m : Miss) : (s.addMiss l m).cur = s.cur := rfl
@[simp] theorem addMiss_agenda (s : State) (l : Word) (m : Miss) : (s.addMiss l m).agenda = s.agenda := rfl
@[simp] theorem addMiss_turn (s : State) (l : Word) (m : Miss) : (s.addMiss l m).turn = s.turn := rfl
@[simp] theorem addMiss_waited (s : State) (l : Word) (m : Miss) : (s.addMiss l m).waited = s.waited := rfl
@[simp] theorem addMiss_free (s : State) (l : Word) (m : Miss) : (s.addMiss l m).free = s.free := rfl

@[simp] theorem mapCopy_dev (s : State) (id : Nat) (f : Copy → Copy) : (s.mapCopy id f).dev = s.dev := rfl
@[simp] theorem mapCopy_mem (s : State) (id : Nat) (f : Copy → Copy) : (s.mapCopy id f).mem = s.mem := rfl
@[simp] theorem mapCopy_launches (s : State) (id : Nat) (f : Copy → Copy) : (s.mapCopy id f).launches = s.launches := rfl
@[simp] theorem mapCopy_gangs (s : State) (id : Nat) (f : Copy → Copy) : (s.mapCopy id f).gangs = s.gangs := rfl
@[simp] theorem mapCopy_teams (s : State) (id : Nat) (f : Copy → Copy) : (s.mapCopy id f).teams = s.teams := rfl
@[simp] theorem mapCopy_crews (s : State) (id : Nat) (f : Copy → Copy) : (s.mapCopy id f).crews = s.crews := rfl
@[simp] theorem mapCopy_queues (s : State) (id : Nat) (f : Copy → Copy) : (s.mapCopy id f).queues = s.queues := rfl
@[simp] theorem mapCopy_request (s : State) (id : Nat) (f : Copy → Copy) : (s.mapCopy id f).request = s.request := rfl
@[simp] theorem mapCopy_cur (s : State) (id : Nat) (f : Copy → Copy) : (s.mapCopy id f).cur = s.cur := rfl
@[simp] theorem mapCopy_agenda (s : State) (id : Nat) (f : Copy → Copy) : (s.mapCopy id f).agenda = s.agenda := rfl
@[simp] theorem mapCopy_turn (s : State) (id : Nat) (f : Copy → Copy) : (s.mapCopy id f).turn = s.turn := rfl
@[simp] theorem mapCopy_waited (s : State) (id : Nat) (f : Copy → Copy) : (s.mapCopy id f).waited = s.waited := rfl
@[simp] theorem mapCopy_serial (s : State) (id : Nat) (f : Copy → Copy) : (s.mapCopy id f).serial = s.serial := rfl
@[simp] theorem mapCopy_free (s : State) (id : Nat) (f : Copy → Copy) : (s.mapCopy id f).free = s.free := rfl

@[simp] theorem mapCmd_dev (s : State) (id : Nat) (f : Cmd → Cmd) : (s.mapCmd id f).dev = s.dev := rfl
@[simp] theorem mapCmd_mem (s : State) (id : Nat) (f : Cmd → Cmd) : (s.mapCmd id f).mem = s.mem := rfl
@[simp] theorem mapCmd_launches (s : State) (id : Nat) (f : Cmd → Cmd) : (s.mapCmd id f).launches = s.launches := rfl
@[simp] theorem mapCmd_gangs (s : State) (id : Nat) (f : Cmd → Cmd) : (s.mapCmd id f).gangs = s.gangs := rfl
@[simp] theorem mapCmd_teams (s : State) (id : Nat) (f : Cmd → Cmd) : (s.mapCmd id f).teams = s.teams := rfl
@[simp] theorem mapCmd_crews (s : State) (id : Nat) (f : Cmd → Cmd) : (s.mapCmd id f).crews = s.crews := rfl
@[simp] theorem mapCmd_queues (s : State) (id : Nat) (f : Cmd → Cmd) : (s.mapCmd id f).queues = s.queues := rfl
@[simp] theorem mapCmd_request (s : State) (id : Nat) (f : Cmd → Cmd) : (s.mapCmd id f).request = s.request := rfl
@[simp] theorem mapCmd_cur (s : State) (id : Nat) (f : Cmd → Cmd) : (s.mapCmd id f).cur = s.cur := rfl
@[simp] theorem mapCmd_agenda (s : State) (id : Nat) (f : Cmd → Cmd) : (s.mapCmd id f).agenda = s.agenda := rfl
@[simp] theorem mapCmd_turn (s : State) (id : Nat) (f : Cmd → Cmd) : (s.mapCmd id f).turn = s.turn := rfl
@[simp] theorem mapCmd_waited (s : State) (id : Nat) (f : Cmd → Cmd) : (s.mapCmd id f).waited = s.waited := rfl
@[simp] theorem mapCmd_serial (s : State) (id : Nat) (f : Cmd → Cmd) : (s.mapCmd id f).serial = s.serial := rfl
@[simp] theorem mapCmd_free (s : State) (id : Nat) (f : Cmd → Cmd) : (s.mapCmd id f).free = s.free := rfl

@[simp] theorem dropL1_dev (s : State) (core ln : Nat) : (s.dropL1 core ln).dev = s.dev := rfl
@[simp] theorem dropL1_mem (s : State) (core ln : Nat) : (s.dropL1 core ln).mem = s.mem := rfl
@[simp] theorem dropL1_launches (s : State) (core ln : Nat) : (s.dropL1 core ln).launches = s.launches := rfl
@[simp] theorem dropL1_gangs (s : State) (core ln : Nat) : (s.dropL1 core ln).gangs = s.gangs := rfl
@[simp] theorem dropL1_teams (s : State) (core ln : Nat) : (s.dropL1 core ln).teams = s.teams := rfl
@[simp] theorem dropL1_crews (s : State) (core ln : Nat) : (s.dropL1 core ln).crews = s.crews := rfl
@[simp] theorem dropL1_queues (s : State) (core ln : Nat) : (s.dropL1 core ln).queues = s.queues := rfl
@[simp] theorem dropL1_request (s : State) (core ln : Nat) : (s.dropL1 core ln).request = s.request := rfl
@[simp] theorem dropL1_cur (s : State) (core ln : Nat) : (s.dropL1 core ln).cur = s.cur := rfl
@[simp] theorem dropL1_agenda (s : State) (core ln : Nat) : (s.dropL1 core ln).agenda = s.agenda := rfl
@[simp] theorem dropL1_turn (s : State) (core ln : Nat) : (s.dropL1 core ln).turn = s.turn := rfl
@[simp] theorem dropL1_waited (s : State) (core ln : Nat) : (s.dropL1 core ln).waited = s.waited := rfl
@[simp] theorem dropL1_serial (s : State) (core ln : Nat) : (s.dropL1 core ln).serial = s.serial := rfl
@[simp] theorem dropL1_free (s : State) (core ln : Nat) : (s.dropL1 core ln).free = s.free := rfl

@[simp] theorem dropRemote_dev (s : State) (d ln : Nat) : (s.dropRemote d ln).dev = s.dev := rfl
@[simp] theorem dropRemote_mem (s : State) (d ln : Nat) : (s.dropRemote d ln).mem = s.mem := rfl
@[simp] theorem dropRemote_launches (s : State) (d ln : Nat) : (s.dropRemote d ln).launches = s.launches := rfl
@[simp] theorem dropRemote_gangs (s : State) (d ln : Nat) : (s.dropRemote d ln).gangs = s.gangs := rfl
@[simp] theorem dropRemote_teams (s : State) (d ln : Nat) : (s.dropRemote d ln).teams = s.teams := rfl
@[simp] theorem dropRemote_crews (s : State) (d ln : Nat) : (s.dropRemote d ln).crews = s.crews := rfl
@[simp] theorem dropRemote_queues (s : State) (d ln : Nat) : (s.dropRemote d ln).queues = s.queues := rfl
@[simp] theorem dropRemote_request (s : State) (d ln : Nat) : (s.dropRemote d ln).request = s.request := rfl
@[simp] theorem dropRemote_cur (s : State) (d ln : Nat) : (s.dropRemote d ln).cur = s.cur := rfl
@[simp] theorem dropRemote_agenda (s : State) (d ln : Nat) : (s.dropRemote d ln).agenda = s.agenda := rfl
@[simp] theorem dropRemote_turn (s : State) (d ln : Nat) : (s.dropRemote d ln).turn = s.turn := rfl
@[simp] theorem dropRemote_waited (s : State) (d ln : Nat) : (s.dropRemote d ln).waited = s.waited := rfl
@[simp] theorem dropRemote_serial (s : State) (d ln : Nat) : (s.dropRemote d ln).serial = s.serial := rfl
@[simp] theorem dropRemote_free (s : State) (d ln : Nat) : (s.dropRemote d ln).free = s.free := rfl

@[simp] theorem fillL1_dev (s : State) (core ln : Nat) (x : Line) (p : BitVec 4) (v : BitVec 12) (a b : Nat) : (s.fillL1 core ln x p v a b).dev = s.dev := rfl
@[simp] theorem fillL1_mem (s : State) (core ln : Nat) (x : Line) (p : BitVec 4) (v : BitVec 12) (a b : Nat) : (s.fillL1 core ln x p v a b).mem = s.mem := rfl
@[simp] theorem fillL1_launches (s : State) (core ln : Nat) (x : Line) (p : BitVec 4) (v : BitVec 12) (a b : Nat) : (s.fillL1 core ln x p v a b).launches = s.launches := rfl
@[simp] theorem fillL1_gangs (s : State) (core ln : Nat) (x : Line) (p : BitVec 4) (v : BitVec 12) (a b : Nat) : (s.fillL1 core ln x p v a b).gangs = s.gangs := rfl
@[simp] theorem fillL1_teams (s : State) (core ln : Nat) (x : Line) (p : BitVec 4) (v : BitVec 12) (a b : Nat) : (s.fillL1 core ln x p v a b).teams = s.teams := rfl
@[simp] theorem fillL1_crews (s : State) (core ln : Nat) (x : Line) (p : BitVec 4) (v : BitVec 12) (a b : Nat) : (s.fillL1 core ln x p v a b).crews = s.crews := rfl
@[simp] theorem fillL1_queues (s : State) (core ln : Nat) (x : Line) (p : BitVec 4) (v : BitVec 12) (a b : Nat) : (s.fillL1 core ln x p v a b).queues = s.queues := rfl
@[simp] theorem fillL1_request (s : State) (core ln : Nat) (x : Line) (p : BitVec 4) (v : BitVec 12) (a b : Nat) : (s.fillL1 core ln x p v a b).request = s.request := rfl
@[simp] theorem fillL1_cur (s : State) (core ln : Nat) (x : Line) (p : BitVec 4) (v : BitVec 12) (a b : Nat) : (s.fillL1 core ln x p v a b).cur = s.cur := rfl
@[simp] theorem fillL1_agenda (s : State) (core ln : Nat) (x : Line) (p : BitVec 4) (v : BitVec 12) (a b : Nat) : (s.fillL1 core ln x p v a b).agenda = s.agenda := rfl
@[simp] theorem fillL1_turn (s : State) (core ln : Nat) (x : Line) (p : BitVec 4) (v : BitVec 12) (a b : Nat) : (s.fillL1 core ln x p v a b).turn = s.turn := rfl
@[simp] theorem fillL1_waited (s : State) (core ln : Nat) (x : Line) (p : BitVec 4) (v : BitVec 12) (a b : Nat) : (s.fillL1 core ln x p v a b).waited = s.waited := rfl
@[simp] theorem fillL1_serial (s : State) (core ln : Nat) (x : Line) (p : BitVec 4) (v : BitVec 12) (a b : Nat) : (s.fillL1 core ln x p v a b).serial = s.serial := rfl
@[simp] theorem fillL1_free (s : State) (core ln : Nat) (x : Line) (p : BitVec 4) (v : BitVec 12) (a b : Nat) : (s.fillL1 core ln x p v a b).free = s.free := rfl

@[simp] theorem addMiss_serial (s : State) (l : Word) (m : Miss) : (s.addMiss l m).serial = s.serial + 1 := rfl
@[simp] theorem mapCopy_copies (s : State) (id : Nat) (f : Copy → Copy) : (s.mapCopy id f).fl.copies = s.fl.copies.map (fun c => if c.id = id then f c else c) := rfl
@[simp] theorem mapCmd_cmds (s : State) (id : Nat) (f : Cmd → Cmd) : (s.mapCmd id f).fl.cmds = s.fl.cmds.map (fun c => if c.id = id then f c else c) := rfl
@[simp] theorem Crew.mark_upset (c : Crew) (op : Nat) (rs : List PReg) : (c.mark op rs).upset = c.upset := rfl
@[simp] theorem Crew.unmark_upset (c : Crew) (op : Nat) : (c.unmark op).upset = c.upset := rfl
@[simp] theorem Crew.orFlags_upset (c : Crew) (f : BitVec 5) : (c.orFlags f).upset = c.upset := rfl
@[simp] theorem Crew.mapEntry_upset (c : Crew) (t : Nat) (f : Entry → Entry) : (c.mapEntry t f).upset = c.upset := rfl
@[simp] theorem Crew.advance_upset (c : Crew) (g : Group) (next : Word) : (c.advance g next).upset = c.upset := rfl
@[simp] theorem Crew.split_upset (c : Crew) (g : Group) (k : Bool) (l : List (BitVec 32 × Word × BitVec 6)) : (c.split g k l).upset = c.upset := rfl

@[simp] theorem spoilCopies_dev (s : State) (t : Target) : (s.spoilCopies t).dev = s.dev := rfl
@[simp] theorem spoilCopies_mem (s : State) (t : Target) : (s.spoilCopies t).mem = s.mem := rfl
@[simp] theorem spoilCopies_launches (s : State) (t : Target) : (s.spoilCopies t).launches = s.launches := rfl
@[simp] theorem spoilCopies_gangs (s : State) (t : Target) : (s.spoilCopies t).gangs = s.gangs := rfl
@[simp] theorem spoilCopies_teams (s : State) (t : Target) : (s.spoilCopies t).teams = s.teams := rfl
@[simp] theorem spoilCopies_crews (s : State) (t : Target) : (s.spoilCopies t).crews = s.crews := rfl
@[simp] theorem spoilCopies_queues (s : State) (t : Target) : (s.spoilCopies t).queues = s.queues := rfl
@[simp] theorem spoilCopies_request (s : State) (t : Target) : (s.spoilCopies t).request = s.request := rfl
@[simp] theorem spoilCopies_cur (s : State) (t : Target) : (s.spoilCopies t).cur = s.cur := rfl
@[simp] theorem spoilCopies_agenda (s : State) (t : Target) : (s.spoilCopies t).agenda = s.agenda := rfl
@[simp] theorem spoilCopies_turn (s : State) (t : Target) : (s.spoilCopies t).turn = s.turn := rfl
@[simp] theorem spoilCopies_waited (s : State) (t : Target) : (s.spoilCopies t).waited = s.waited := rfl
@[simp] theorem spoilCopies_serial (s : State) (t : Target) : (s.spoilCopies t).serial = s.serial := rfl
@[simp] theorem spoilCopies_free (s : State) (t : Target) : (s.spoilCopies t).free = s.free := rfl

@[simp] theorem clearWhere_dev (s : State) (on : Nat → Bool) : (s.clearWhere on).dev = s.dev := rfl
@[simp] theorem clearWhere_mem (s : State) (on : Nat → Bool) : (s.clearWhere on).mem = s.mem := rfl
@[simp] theorem clearWhere_launches (s : State) (on : Nat → Bool) : (s.clearWhere on).launches = s.launches := rfl
@[simp] theorem clearWhere_gangs (s : State) (on : Nat → Bool) : (s.clearWhere on).gangs = s.gangs := rfl
@[simp] theorem clearWhere_teams (s : State) (on : Nat → Bool) : (s.clearWhere on).teams = s.teams := rfl
@[simp] theorem clearWhere_crews (s : State) (on : Nat → Bool) : (s.clearWhere on).crews = s.crews := rfl
@[simp] theorem clearWhere_queues (s : State) (on : Nat → Bool) : (s.clearWhere on).queues = s.queues := rfl
@[simp] theorem clearWhere_request (s : State) (on : Nat → Bool) : (s.clearWhere on).request = s.request := rfl
@[simp] theorem clearWhere_cur (s : State) (on : Nat → Bool) : (s.clearWhere on).cur = s.cur := rfl
@[simp] theorem clearWhere_agenda (s : State) (on : Nat → Bool) : (s.clearWhere on).agenda = s.agenda := rfl
@[simp] theorem clearWhere_turn (s : State) (on : Nat → Bool) : (s.clearWhere on).turn = s.turn := rfl
@[simp] theorem clearWhere_waited (s : State) (on : Nat → Bool) : (s.clearWhere on).waited = s.waited := rfl
@[simp] theorem clearWhere_serial (s : State) (on : Nat → Bool) : (s.clearWhere on).serial = s.serial := rfl
@[simp] theorem clearWhere_free (s : State) (on : Nat → Bool) : (s.clearWhere on).free = s.free := rfl

@[simp] theorem clearCores_dev (s : State) (l : List Nat) : (s.clearCores l).dev = s.dev := rfl
@[simp] theorem clearCores_mem (s : State) (l : List Nat) : (s.clearCores l).mem = s.mem := rfl
@[simp] theorem clearCores_launches (s : State) (l : List Nat) : (s.clearCores l).launches = s.launches := rfl
@[simp] theorem clearCores_gangs (s : State) (l : List Nat) : (s.clearCores l).gangs = s.gangs := rfl
@[simp] theorem clearCores_teams (s : State) (l : List Nat) : (s.clearCores l).teams = s.teams := rfl
@[simp] theorem clearCores_crews (s : State) (l : List Nat) : (s.clearCores l).crews = s.crews := rfl
@[simp] theorem clearCores_queues (s : State) (l : List Nat) : (s.clearCores l).queues = s.queues := rfl
@[simp] theorem clearCores_request (s : State) (l : List Nat) : (s.clearCores l).request = s.request := rfl
@[simp] theorem clearCores_cur (s : State) (l : List Nat) : (s.clearCores l).cur = s.cur := rfl
@[simp] theorem clearCores_agenda (s : State) (l : List Nat) : (s.clearCores l).agenda = s.agenda := rfl
@[simp] theorem clearCores_turn (s : State) (l : List Nat) : (s.clearCores l).turn = s.turn := rfl
@[simp] theorem clearCores_waited (s : State) (l : List Nat) : (s.clearCores l).waited = s.waited := rfl
@[simp] theorem clearCores_serial (s : State) (l : List Nat) : (s.clearCores l).serial = s.serial := rfl
@[simp] theorem clearCores_free (s : State) (l : List Nat) : (s.clearCores l).free = s.free := rfl

@[simp] theorem endYields_dev (s : State) (n : Nat) : (s.endYields n).dev = s.dev := by unfold State.endYields; split <;> rfl
@[simp] theorem endYields_mem (s : State) (n : Nat) : (s.endYields n).mem = s.mem := by unfold State.endYields; split <;> rfl
@[simp] theorem endYields_fl (s : State) (n : Nat) : (s.endYields n).fl = s.fl := by unfold State.endYields; split <;> rfl
@[simp] theorem endYields_launches (s : State) (n : Nat) : (s.endYields n).launches = s.launches := by unfold State.endYields; split <;> rfl
@[simp] theorem endYields_gangs (s : State) (n : Nat) : (s.endYields n).gangs = s.gangs := by unfold State.endYields; split <;> rfl
@[simp] theorem endYields_teams (s : State) (n : Nat) : (s.endYields n).teams = s.teams := by unfold State.endYields; split <;> rfl
@[simp] theorem endYields_queues (s : State) (n : Nat) : (s.endYields n).queues = s.queues := by unfold State.endYields; split <;> rfl
@[simp] theorem endYields_request (s : State) (n : Nat) : (s.endYields n).request = s.request := by unfold State.endYields; split <;> rfl
@[simp] theorem endYields_cur (s : State) (n : Nat) : (s.endYields n).cur = s.cur := by unfold State.endYields; split <;> rfl
@[simp] theorem endYields_agenda (s : State) (n : Nat) : (s.endYields n).agenda = s.agenda := by unfold State.endYields; split <;> rfl
@[simp] theorem endYields_turn (s : State) (n : Nat) : (s.endYields n).turn = s.turn := by unfold State.endYields; split <;> rfl
@[simp] theorem endYields_waited (s : State) (n : Nat) : (s.endYields n).waited = s.waited := by unfold State.endYields; split <;> rfl
@[simp] theorem endYields_serial (s : State) (n : Nat) : (s.endYields n).serial = s.serial := by unfold State.endYields; split <;> rfl
@[simp] theorem endYields_free (s : State) (n : Nat) : (s.endYields n).free = s.free := by unfold State.endYields; split <;> rfl

@[simp] theorem noteLeaf_dev (s : State) (l : Launch) (va lg : Nat) (e : DWord) : (s.noteLeaf l va lg e).dev = s.dev := by unfold State.noteLeaf; dsimp only; split <;> rfl
@[simp] theorem noteLeaf_mem (s : State) (l : Launch) (va lg : Nat) (e : DWord) : (s.noteLeaf l va lg e).mem = s.mem := by unfold State.noteLeaf; dsimp only; split <;> rfl
@[simp] theorem noteLeaf_launches (s : State) (l : Launch) (va lg : Nat) (e : DWord) : (s.noteLeaf l va lg e).launches = s.launches := by unfold State.noteLeaf; dsimp only; split <;> rfl
@[simp] theorem noteLeaf_gangs (s : State) (l : Launch) (va lg : Nat) (e : DWord) : (s.noteLeaf l va lg e).gangs = s.gangs := by unfold State.noteLeaf; dsimp only; split <;> rfl
@[simp] theorem noteLeaf_teams (s : State) (l : Launch) (va lg : Nat) (e : DWord) : (s.noteLeaf l va lg e).teams = s.teams := by unfold State.noteLeaf; dsimp only; split <;> rfl
@[simp] theorem noteLeaf_crews (s : State) (l : Launch) (va lg : Nat) (e : DWord) : (s.noteLeaf l va lg e).crews = s.crews := by unfold State.noteLeaf; dsimp only; split <;> rfl
@[simp] theorem noteLeaf_queues (s : State) (l : Launch) (va lg : Nat) (e : DWord) : (s.noteLeaf l va lg e).queues = s.queues := by unfold State.noteLeaf; dsimp only; split <;> rfl
@[simp] theorem noteLeaf_request (s : State) (l : Launch) (va lg : Nat) (e : DWord) : (s.noteLeaf l va lg e).request = s.request := by unfold State.noteLeaf; dsimp only; split <;> rfl
@[simp] theorem noteLeaf_cur (s : State) (l : Launch) (va lg : Nat) (e : DWord) : (s.noteLeaf l va lg e).cur = s.cur := by unfold State.noteLeaf; dsimp only; split <;> rfl
@[simp] theorem noteLeaf_agenda (s : State) (l : Launch) (va lg : Nat) (e : DWord) : (s.noteLeaf l va lg e).agenda = s.agenda := by unfold State.noteLeaf; dsimp only; split <;> rfl
@[simp] theorem noteLeaf_turn (s : State) (l : Launch) (va lg : Nat) (e : DWord) : (s.noteLeaf l va lg e).turn = s.turn := by unfold State.noteLeaf; dsimp only; split <;> rfl
@[simp] theorem noteLeaf_waited (s : State) (l : Launch) (va lg : Nat) (e : DWord) : (s.noteLeaf l va lg e).waited = s.waited := by unfold State.noteLeaf; dsimp only; split <;> rfl
@[simp] theorem noteLeaf_serial (s : State) (l : Launch) (va lg : Nat) (e : DWord) : (s.noteLeaf l va lg e).serial = s.serial := by unfold State.noteLeaf; dsimp only; split <;> rfl
@[simp] theorem noteLeaf_free (s : State) (l : Launch) (va lg : Nat) (e : DWord) : (s.noteLeaf l va lg e).free = s.free := by unfold State.noteLeaf; dsimp only; split <;> rfl

@[simp] theorem seeLeaf_dev (s : State) (l : Launch) (va : DWord) : (s.seeLeaf l va).dev = s.dev := by unfold State.seeLeaf; split <;> simp
@[simp] theorem seeLeaf_mem (s : State) (l : Launch) (va : DWord) : (s.seeLeaf l va).mem = s.mem := by unfold State.seeLeaf; split <;> simp
@[simp] theorem seeLeaf_launches (s : State) (l : Launch) (va : DWord) : (s.seeLeaf l va).launches = s.launches := by unfold State.seeLeaf; split <;> simp
@[simp] theorem seeLeaf_gangs (s : State) (l : Launch) (va : DWord) : (s.seeLeaf l va).gangs = s.gangs := by unfold State.seeLeaf; split <;> simp
@[simp] theorem seeLeaf_teams (s : State) (l : Launch) (va : DWord) : (s.seeLeaf l va).teams = s.teams := by unfold State.seeLeaf; split <;> simp
@[simp] theorem seeLeaf_crews (s : State) (l : Launch) (va : DWord) : (s.seeLeaf l va).crews = s.crews := by unfold State.seeLeaf; split <;> simp
@[simp] theorem seeLeaf_queues (s : State) (l : Launch) (va : DWord) : (s.seeLeaf l va).queues = s.queues := by unfold State.seeLeaf; split <;> simp
@[simp] theorem seeLeaf_request (s : State) (l : Launch) (va : DWord) : (s.seeLeaf l va).request = s.request := by unfold State.seeLeaf; split <;> simp
@[simp] theorem seeLeaf_cur (s : State) (l : Launch) (va : DWord) : (s.seeLeaf l va).cur = s.cur := by unfold State.seeLeaf; split <;> simp
@[simp] theorem seeLeaf_agenda (s : State) (l : Launch) (va : DWord) : (s.seeLeaf l va).agenda = s.agenda := by unfold State.seeLeaf; split <;> simp
@[simp] theorem seeLeaf_turn (s : State) (l : Launch) (va : DWord) : (s.seeLeaf l va).turn = s.turn := by unfold State.seeLeaf; split <;> simp
@[simp] theorem seeLeaf_waited (s : State) (l : Launch) (va : DWord) : (s.seeLeaf l va).waited = s.waited := by unfold State.seeLeaf; split <;> simp
@[simp] theorem seeLeaf_serial (s : State) (l : Launch) (va : DWord) : (s.seeLeaf l va).serial = s.serial := by unfold State.seeLeaf; split <;> simp
@[simp] theorem seeLeaf_free (s : State) (l : Launch) (va : DWord) : (s.seeLeaf l va).free = s.free := by unfold State.seeLeaf; split <;> simp

@[simp] theorem waitPop_dev (s : State) (op : Nat) : (s.waitPop op).dev = s.dev := by unfold State.waitPop; split <;> rfl
@[simp] theorem waitPop_mem (s : State) (op : Nat) : (s.waitPop op).mem = s.mem := by unfold State.waitPop; split <;> rfl
@[simp] theorem waitPop_fl (s : State) (op : Nat) : (s.waitPop op).fl = s.fl := by unfold State.waitPop; split <;> rfl
@[simp] theorem waitPop_launches (s : State) (op : Nat) : (s.waitPop op).launches = s.launches := by unfold State.waitPop; split <;> rfl
@[simp] theorem waitPop_gangs (s : State) (op : Nat) : (s.waitPop op).gangs = s.gangs := by unfold State.waitPop; split <;> rfl
@[simp] theorem waitPop_teams (s : State) (op : Nat) : (s.waitPop op).teams = s.teams := by unfold State.waitPop; split <;> rfl
@[simp] theorem waitPop_queues (s : State) (op : Nat) : (s.waitPop op).queues = s.queues := by unfold State.waitPop; split <;> rfl
@[simp] theorem waitPop_request (s : State) (op : Nat) : (s.waitPop op).request = s.request := by unfold State.waitPop; split <;> rfl
@[simp] theorem waitPop_cur (s : State) (op : Nat) : (s.waitPop op).cur = s.cur := by unfold State.waitPop; split <;> rfl
@[simp] theorem waitPop_agenda (s : State) (op : Nat) : (s.waitPop op).agenda = s.agenda := by unfold State.waitPop; split <;> rfl
@[simp] theorem waitPop_turn (s : State) (op : Nat) : (s.waitPop op).turn = s.turn := by unfold State.waitPop; split <;> rfl
@[simp] theorem waitPop_serial (s : State) (op : Nat) : (s.waitPop op).serial = s.serial := by unfold State.waitPop; split <;> rfl
@[simp] theorem waitPop_free (s : State) (op : Nat) : (s.waitPop op).free = s.free := by unfold State.waitPop; split <;> rfl

/-- A group that waits for its crew's POP: its entry keeps the operation's number (R355). -/
theorem waitPop_eq {s : State} {n : Nat} {c : Crew} {t : Team} {l : Launch} {g : Group} {e : Entry} (op : Nat)
    (h : s.context = .ok (n, c, t, l, g, e)) :
    s.waitPop op = { s.setCrew n { c.mapEntry g.thread (fun e => { e with popWait := some op }) with group := none } with
      waited := true } := by
  simp [State.waitPop, h]

/-- Every YIELD of a crew is over (R322). -/
theorem endYields_eq {s : State} {n : Nat} {c : Crew} (h : s.crews[n]? = some c) :
    s.endYields n = s.setCrew n c.awake := by
  simp [State.endYields, h]

end Sys2Proof.Machine
end

