-- ==== Sys2Proof/Laws/Memory.lean ====
section
/-!
SUPPORT. What the operations on memory lines keep: the canonical forms (`State.sound`), and, for the operations that only
read, every byte.
-/

namespace Sys2Proof.Machine

theorem sound_iff (s : State) : s.sound = true ↔
    memWf s.mem.bytes = true ∧ Cells.wf LineMeta.clean s.mem.lines = true := by simp [State.sound]

/-- The canonical forms are a matter of the bytes and the metadata alone. -/
theorem sound_of_mem {s t : State} (hb : t.mem.bytes = s.mem.bytes) (hl : t.mem.lines = s.mem.lines)
    (h : s.sound = true) : t.sound = true := by simpa [State.sound, hb, hl] using h

theorem sound_of_eq {s t : State} (hm : t.mem = s.mem) (h : s.sound = true) : t.sound = true :=
  sound_of_mem (by rw [hm]) (by rw [hm]) h

/-! ### Notices and counters leave memory alone -/

@[simp] theorem post_mem (s : State) (q : Nat) (b : List Byte) : (s.post q b).mem = s.mem := by
  unfold State.post; split <;> rfl
@[simp] theorem postPoison_mem (s : State) (ln : Nat) (g : BitVec 4) (c : Nat) (v : BitVec 12) (l : Word) :
    (s.postPoison ln g c v l).mem = s.mem := post_mem ..
@[simp] theorem countEcc_mem (s : State) (ln n : Nat) : (s.countEcc ln n).mem = s.mem := by
  unfold State.countEcc; split <;> rfl
@[simp] theorem dropL1All_mem (s : State) (ln : Nat) : (s.dropL1All ln).mem = s.mem := rfl
@[simp] theorem sendFar_mem (s : State) (a b : Nat) (r : RemoteResp) : (s.sendFar a b r).mem = s.mem := rfl

/-! ### Metadata -/

@[simp] theorem setMeta_bytes (s : State) (ln : Nat) (m : LineMeta) : (s.setMeta ln m).mem.bytes = s.mem.bytes := rfl
theorem sound_setMeta {s : State} (ln : Nat) (m : LineMeta) (h : s.sound = true) : (s.setMeta ln m).sound = true := by
  rw [sound_iff] at h ⊢
  exact ⟨h.1, Cells.wf_set _ _ _ _ h.2⟩

/-- The metadata of a line after one line's are set. -/
theorem lineMeta_setMeta {s : State} (ln k : Nat) (m : LineMeta) (h : s.sound = true) :
    (s.setMeta ln m).lineMeta k = if k = ln then m else s.lineMeta k :=
  Cells.get_set _ _ _ _ _ ((sound_iff s).mp h).2

@[simp] theorem loseVersion_bytes (s : State) (ln : Nat) (l : Word) : (s.loseVersion ln l).mem.bytes = s.mem.bytes := by
  simp [State.loseVersion]
theorem sound_loseVersion {s : State} (ln : Nat) (l : Word) (h : s.sound = true) : (s.loseVersion ln l).sound = true := by
  unfold State.loseVersion
  refine sound_of_eq (postPoison_mem ..) (sound_of_eq (dropL1All_mem ..) ?_)
  exact sound_setMeta ln _ h

@[simp] theorem checkVersion_bytes (s : State) (ln : Nat) (l : Word) : (s.checkVersion ln l).mem.bytes = s.mem.bytes := by
  unfold State.checkVersion; split <;> simp
theorem sound_checkVersion {s : State} (ln : Nat) (l : Word) (h : s.sound = true) : (s.checkVersion ln l).sound = true := by
  unfold State.checkVersion; split
  · exact sound_loseVersion ln l h
  · exact h
theorem checkVersion_kept {s : State} {ln : Nat} (l : Word) (h : (s.lineMeta ln).lost = false) : s.checkVersion ln l = s := by
  simp [State.checkVersion, h]

/-! ### Reads at the home -/

@[simp] theorem homeTouch_bytes (s : State) (ln : Nat) (g : BitVec 4) (c : Nat) (l : Word) :
    (s.homeTouch ln g c l).mem.bytes = s.mem.bytes := by
  unfold State.homeTouch; dsimp only; split <;> simp
theorem sound_homeTouch {s : State} (ln : Nat) (g : BitVec 4) (c : Nat) (l : Word) (h : s.sound = true) :
    (s.homeTouch ln g c l).sound = true := by
  have h1 := sound_checkVersion ln l h
  have h2 (m : LineMeta) (n : Nat) : (((s.checkVersion ln l).countEcc ln n).setMeta ln m).sound = true :=
    sound_setMeta ln m (sound_of_eq (by simp) h1)
  unfold State.homeTouch; dsimp only; split
  · exact h2 _ _
  · exact sound_of_eq (postPoison_mem ..) (h2 _ _)

@[simp] theorem makeRoom_bytes (s : State) (n : Nat) : (s.makeRoom n).mem.bytes = s.mem.bytes := by
  unfold State.makeRoom; split
  · split
    · rfl
    · split <;> rfl
  · rfl
@[simp] theorem makeRoom_lines (s : State) (n : Nat) : (s.makeRoom n).mem.lines = s.mem.lines := by
  unfold State.makeRoom; split
  · split
    · rfl
    · split <;> rfl
  · rfl
@[simp] theorem fillRemote_bytes (s : State) (x : L2Copy) : (s.fillRemote x).mem.bytes = s.mem.bytes := by
  simp [State.fillRemote]
@[simp] theorem fillRemote_lines (s : State) (x : L2Copy) : (s.fillRemote x).mem.lines = s.mem.lines := by
  simp [State.fillRemote]
@[simp] theorem reside_bytes (s : State) (ln : Nat) : (s.reside ln).mem.bytes = s.mem.bytes := by
  unfold State.reside; split
  · exact makeRoom_bytes s _
  · rfl
@[simp] theorem reside_lines (s : State) (ln : Nat) : (s.reside ln).mem.lines = s.mem.lines := by
  unfold State.reside; split
  · exact makeRoom_lines s _
  · rfl
theorem sound_reside {s : State} (ln : Nat) (h : s.sound = true) : (s.reside ln).sound = true :=
  sound_of_mem (by simp) (by simp) h

@[simp] theorem fillLine_bytes (s : State) (ln : Nat) (g : BitVec 4) (l : Word) :
    (s.fillLine ln g l).mem.bytes = s.mem.bytes := by unfold State.fillLine; split <;> simp
theorem sound_fillLine {s : State} (ln : Nat) (g : BitVec 4) (l : Word) (h : s.sound = true) :
    (s.fillLine ln g l).sound = true := by
  unfold State.fillLine; split
  · exact sound_reside ln (sound_homeTouch ln g 3 l h)
  · exact h

@[simp] theorem commandRead_bytes (s : State) (ln : Nat) (g : BitVec 4) (l : Word) :
    (s.commandRead ln g l).mem.bytes = s.mem.bytes := by simp [State.commandRead]
theorem sound_commandRead {s : State} (ln : Nat) (g : BitVec 4) (l : Word) (h : s.sound = true) :
    (s.commandRead ln g l).sound = true :=
  sound_reside ln (sound_homeTouch ln g 0 l (sound_fillLine ln _ l h))

@[simp] theorem takeCycle_bytes (s : State) (ln : Nat) : (s.takeCycle ln).mem.bytes = s.mem.bytes := by
  unfold State.takeCycle; split <;> rfl
@[simp] theorem takeCycle_lines (s : State) (ln : Nat) : (s.takeCycle ln).mem.lines = s.mem.lines := by
  unfold State.takeCycle; split <;> rfl
theorem sound_takeCycle {s : State} (ln : Nat) (h : s.sound = true) : (s.takeCycle ln).sound = true :=
  sound_of_mem (by simp) (by simp) h

/-- A read at the home changes no byte. -/
@[simp] theorem homeRead_bytes (s : State) (ln : Nat) (g : BitVec 4) (l : Word) :
    (s.homeRead ln g l).mem.bytes = s.mem.bytes := by simp [State.homeRead]
theorem sound_homeRead {s : State} (ln : Nat) (g : BitVec 4) (l : Word) (h : s.sound = true) :
    (s.homeRead ln g l).sound = true :=
  sound_commandRead ln g l (sound_takeCycle ln h)

theorem readRange_bytes (s : State) (a n : Nat) (l : Word) : (s.readRange a n l).1.mem.bytes = s.mem.bytes := by
  unfold State.readRange; dsimp only
  generalize (List.range ((a % 128 + n + 127) / 128)).map (fun i => a / 128 + i) = ls
  induction ls generalizing s with
  | nil => rfl
  | cons x r ih => rw [List.foldl_cons, ih]; simp
theorem sound_readRange {s : State} (a n : Nat) (l : Word) (h : s.sound = true) : (s.readRange a n l).1.sound = true := by
  unfold State.readRange; dsimp only
  generalize (List.range ((a % 128 + n + 127) / 128)).map (fun i => a / 128 + i) = ls
  induction ls generalizing s with
  | nil => exact h
  | cons x r ih => exact ih (sound_homeRead x _ l h)

/-! ### Writes at the home -/

/-- A write at the home keeps the canonical forms. -/
theorem sound_lineWrite {s : State} (ln : Nat) (b : List (Nat × Byte)) (p : BitVec 4) (l : Word) (h : s.sound = true) :
    (s.lineWrite ln b p l).sound = true := by
  have h1 := sound_takeCycle ln (sound_checkVersion ln l h)
  unfold State.lineWrite
  dsimp only
  generalize hs : (if (List.range 4).all (wholeGranule (b.map (·.1))) = true then ((s.checkVersion ln l).takeCycle ln).reside ln
    else ((s.checkVersion ln l).takeCycle ln).fillLine ln (15#4 &&& ~~~granulesOf (b.map (·.1))) l) = s2
  have h2 : s2.sound = true := by
    rw [← hs]; split
    · exact sound_reside ln h1
    · exact sound_fillLine ln _ l h1
  have key (n : Nat) (m : LineMeta) (hist : List (Nat × Word)) : State.sound { s2.countEcc ln n with
      mem := { (s2.countEcc ln n).mem with
        bytes := b.foldl (fun b p => writeByte b (128 * ln + p.1) p.2) s2.mem.bytes
        lines := Cells.set LineMeta.clean (s2.countEcc ln n).mem.lines ln m
        history := hist } } = true := by
    rw [sound_iff] at h2 ⊢
    refine ⟨memWf_writes b (fun x => 128 * ln + x) _ h2.1, ?_⟩
    simpa using Cells.wf_set _ _ _ _ h2.2
  split
  · exact key _ _ _
  · exact sound_of_eq (postPoison_mem ..) (key _ _ _)

/-- The bytes that a write at the home leaves. -/
theorem lineWrite_bytes (s : State) (ln : Nat) (b : List (Nat × Byte)) (p : BitVec 4) (l : Word) :
    (s.lineWrite ln b p l).mem.bytes = b.foldl (fun m x => writeByte m (128 * ln + x.1) x.2) s.mem.bytes := by
  unfold State.lineWrite
  dsimp only
  split
  · split <;> simp
  · split <;> simp

theorem sound_cwrLine {s : State} (o : MOp) (i ln now : Nat) (h : s.sound = true) : (s.cwrLine o i ln now).sound = true := by
  unfold State.cwrLine
  dsimp only
  split
  · exact sound_of_eq rfl (sound_lineWrite ln _ _ _ h)
  · split
    · exact sound_of_eq rfl h
    · exact sound_of_eq rfl (sound_takeCycle ln h)

theorem sound_farLine {s : State} (x : FarCwr) (h : s.sound = true) : (s.farLine x).sound = true := by
  have hr : State.sound { s with fl := { s.fl with far := s.fl.far.filter (fun y => !decide (y.since = x.since)) } } = true :=
    sound_of_eq rfl h
  unfold State.farLine
  dsimp only
  split
  · exact sound_of_eq rfl (sound_lineWrite x.line x.bytes 0#4 0#32 hr)
  · split
    · exact sound_of_eq rfl h
    · exact sound_of_eq rfl (sound_takeCycle x.line hr)

theorem sound_examineHold {s : State} (ln : Nat) (x : Nat × Nat × Nat) (h : s.sound = true) :
    (s.examineHold ln x).sound = true := by
  unfold State.examineHold
  split
  · split
    · exact sound_farLine _ h
    · exact h
  · split
    · exact sound_cwrLine _ _ _ _ h
    · exact h

theorem sound_examineHolds (n : Nat) {s : State} (ln : Nat) (h : s.sound = true) : (examineHolds n s ln).sound = true := by
  induction n generalizing s with
  | zero => exact h
  | succ n ih =>
    unfold examineHolds
    split
    · exact ih (sound_examineHold ln _ h)
    · exact h

/-- A write at the home, with what it does to held writes, keeps the canonical forms. -/
theorem sound_homeWrite {s : State} (ln : Nat) (b : List (Nat × Byte)) (p : BitVec 4) (l : Word) (h : s.sound = true) :
    (s.homeWrite ln b p l).sound = true := by
  unfold State.homeWrite
  dsimp only
  split
  · exact sound_lineWrite ln b p l h
  · exact sound_examineHolds _ ln (sound_lineWrite ln b p l h)

theorem homeWrite_free {s : State} (ln : Nat) (b : List (Nat × Byte)) (p : BitVec 4) (l : Word)
    (h : (s.lineWrite ln b p l).holdsOf ln = []) : s.homeWrite ln b p l = s.lineWrite ln b p l := by
  simp [State.homeWrite, h]

theorem sound_writeRange {s : State} (a : Nat) (b : List Byte) (l : Word) (h : s.sound = true) :
    (s.writeRange a b l).sound = true := by
  unfold State.writeRange
  dsimp only
  generalize (List.range ((a % 128 + b.length + 127) / 128)).map (fun i => a / 128 + i) = ls
  induction ls generalizing s with
  | nil => exact h
  | cons x r ih =>
    rw [List.foldl_cons]
    apply ih
    split
    · exact h
    · exact sound_homeWrite x _ _ l h

/-- The memory after reset has the canonical form. -/
theorem sound_reset : State.reset.sound = true := by decide

end Sys2Proof.Machine
end

