-- ==== Sys2Proof/Tests/Slice0.lean ====
section
/-!
SUPPORT. Tests: what WellFormed refuses, what single words decode to, single steps on a small machine, and for the
statements of Obligations the states and operands that meet their hypotheses.  The expected values are the spec's worked
examples, or are worked out by hand from the rule that a test names.
-/

namespace Sys2Proof.Tests

open Sys2Proof Sys2Proof.Machine

-- One test after another: evaluated side by side they need much memory.
set_option Elab.async false

/-! ### WellFormed -/

/-- R19: odd pairs, misaligned quads, a write to a uniform register or to 126, blocks off their alignment or past s63. -/
theorem test_illformed_registers : ∀ i ∈ ([.iadd 96#7 0#7 0#7, .iadd 126#7 0#7 0#7, .iadd64 3#7 0#7 0#7, .iadd64 2#7 5#7 0#7,
    .iadd64 2#7 4#7 126#7, .ld 2#7 0#7 6#3 0#9, .st 0#7 2#7 4#7 6#3, .uadd 1#6 2#6 4#6 1#1, .uadd 2#6 3#6 4#6 1#1,
    .uld 2#6 3#6 0#1, .cpy 9#6 0#6, .cpy 60#6 0#6, .xform 4#6 0#6, .preemptSave 4#6 20#6, .push 8#6 56#6] : List Instr),
    i.wellFormed = false := by decide

/-- Codes that their rows do not allow, of control, synchronising, task, integer and conversion instructions. -/
theorem test_illformed_codes : ∀ i ∈ ([.rdsr 0#6 13#6 0#3, .wrsr 0#6 0#6 0#3, .wrsr 0#6 48#6 0#3, .hintCScale 3#5 0#5,
    .hintRm 6#3, .hintSc 5#3, .hintDep 0#2 0#6 0#6, .hintDep 1#2 1#6 0#6, .hintDep 3#2 0#6 0#6, .rvinit 0#6 24#6,
    .rvarr 0#6 24#6, .rvwait 0#6 24#6, .quotaGive 32#6 1#6, .quotaGive 0#6 0#6, .quotaTake 0#6 12#6, .pop 6#6 0#6,
    .popTry 6#6 0#6, .push 8#6 54#6, .qctl 0#6 4#6, .icmpi 6#3 0#1 1#3 0#7 0#12, .icmp32 7#3 0#1 1#3 0#7 0#7,
    .icmp64 6#3 0#1 1#3 0#7 0#7, .ucmpI 0#6 0#6 0#6 6#3, .ucmpZ 0#6 0#6 0#6 7#3, .cvt 0#7 0#7 9#4 0#4,
    .cvtiF2i 0#7 0#7 8#4 0#4, .cvtiI2f 0#7 0#7 0#4 8#4, .amaxPush 0#7 0#7 0#7, .amaxScale 0#7 0#7 0#7] : List Instr),
    i.wellFormed = false := by decide

/-- The same of memory, tile, matrix, accumulator and resolver instructions. -/
theorem test_illformed_memory : ∀ i ∈ ([.ld 0#7 0#7 7#3 0#9, .st 0#7 0#7 0#7 1#3, .lds 0#7 0#7 7#3, .sts 0#7 0#7 0#7 3#3,
    .ldv 0#7 0#7 7#3, .stv 0#7 0#7 0#7 7#3, .ldc 0#7 0#7 7#3 0#9, .ldw 0#7 0#7 0#7 7#3, .stw 0#7 0#7 0#7 1#3,
    .ordAtom 0#7 0#7 0#7, .ordClose 0#7 0#7, .resv 0#7 3#7, .ldRs 0#7 0#7 7#3, .tiledef 0#6 32#6, .tiledefClr 32#6,
    .tilestat 0#6 32#6, .trel 32#6, .cpy 0#6 32#6, .cpyMc 0#6 8#6 32#6, .cpyCvt 0#6 32#6, .xform 8#6 32#6, .xprog 0#6 4#6,
    .mma 3#2 1#6 0#5 0#5 0#4 0#4, .mma 0#2 1#6 0#5 0#5 0#4 12#4, .mmaG 3#2 1#6 0#5 0#5 0#4 0#3,
    .mmaCv 3#2 1#6 0#5 0#5 0#4 0#3, .mmas 0#2 1#6 0#5 0#5 0#4 6#4, .accrd 0#7 0#7 0#2 0#4, .accrdSt 100#7 100#7 0#2 0#4,
    .accwr 0#7 127#7 0#2 0#4, .rslvStat 0#6 6#6] : List Instr), i.wellFormed = false := by decide

/-- Well-formed terms at the edges of the same checks. -/
theorem test_wellformed_edges : ∀ i ∈ ([.iadd 127#7 126#7 127#7, .iadd64 94#7 127#7 124#7, .ld 92#7 96#7 6#3 511#9,
    .uadd 62#6 62#6 62#6 1#1, .cpy 56#6 31#6, .pop 8#6 63#6, .push 62#6 52#6, .quotaGive 31#6 11#6, .rvinit 63#6 23#6,
    .icmp32 5#3 1#1 0#3 127#7 126#7, .hintDep 2#2 63#6 63#6, .mma 2#2 0#6 31#5 31#5 15#4 11#4, .resv 127#7 2#7] :
    List Instr), i.wellFormed = true := by decide

/-! ### Decoding -/

/-- Words worked out in the spec (the examples of spec/01 and of the chapters of each family). -/
theorem test_decode_worked : ∀ p ∈ ([(0x00440005#32, .preemptSave 4#6 16#6), (0x20181C80#32, .iadd 3#7 1#7 100#7),
    (0x3D103064#32, .icmpi 2#3 0#1 2#3 3#7 100#12), (0x48283FEA#32, .sel 5#7 3#7 127#7 2#3), (0x50A1000D#32, .uld 10#6 4#6 0#1),
    (0x64401040#32, .fma 8#7 1#7 2#7 0#2), (0x6C3830A0#32, .flog2 7#7 3#7 0#2), (0x6CA04001#32, .fexp 20#7 4#7 1#2),
    (0x586040A6#32, .bfly 12#7 4#7 5#5), (0x5830C004#32, .rfal 0#1 6#6 12#7), (0x5838C283#32, .movs 0#1 7#6 12#7 20#5)] :
      List (BitVec 32 × Instr)), (decode p.1).toOption = some p.2 := by decide +kernel

theorem test_decode_worked_rest : ∀ p ∈ ([(0x58604010#32, .redux 12#7 4#7 0#2), (0x5840200B#32, .matchB 8#7 2#7),
    (0x58482018#32, .matchF 9#7 2#7 0#2), (0xC1200103#32, .mma 1#2 8#6 0#5 1#5 0#4 3#4), (0x05402040#32, .hintDep 2#2 1#6 0#6),
    (0x78483001#32, .cvtiF2i 9#7 3#7 0#4 0#4)] : List (BitVec 32 × Instr)), (decode p.1).toOption = some p.2 := by decide +kernel

/-- Words put together field by field: the majors of R22, the minors of R23, the layouts of R16 to R18, R24 and R25, for
the families that have no worked word above. -/
theorem test_decode_fields_v : ∀ p ∈ ([
    -- V: major, d, a, b, fn
    (0x08#6 ++ 5#7 ++ 6#7 ++ 7#7 ++ 2#5, .isub 5#7 6#7 7#7), (0x09#6 ++ 4#7 ++ 6#7 ++ 8#7 ++ 3#5, .isubb64 4#7 6#7 8#7),
    (0x10#6 ++ 5#7 ++ 6#7 ++ 7#7 ++ 3#5, .imad 5#7 6#7 7#7), (0x11#6 ++ 5#7 ++ 6#7 ++ 7#7 ++ 8#5, .bfi 5#7 6#7 7#7),
    (0x12#6 ++ (3#3 ++ 1#1 ++ 5#3) ++ 6#7 ++ 7#7 ++ 0#5, .icmp32 3#3 1#1 5#3 6#7 7#7),
    (0x13#6 ++ 5#7 ++ 6#7 ++ 7#7 ++ (1#1 ++ 0#1 ++ 2#3), .lea32 5#7 6#7 7#7 0#1 2#3),
    (0x16#6 ++ 5#7 ++ 6#7 ++ 0#7 ++ 22#5, .scan 5#7 6#7 2#2), (0x16#6 ++ 5#7 ++ 6#7 ++ 7#7 ++ 5#5, .shfl 5#7 6#7 7#7),
    (0x1F#6 ++ 5#7 ++ 6#7 ++ 7#7 ++ 1#5, .deq 5#7 6#7 7#7), (0x27#6 ++ 4#7 ++ 6#7 ++ 8#7 ++ 0#5, .wmerge 4#7 6#7 8#7),
    (0x29#6 ++ 100#7 ++ 6#7 ++ 8#7 ++ 0#5, .ordAtom 100#7 6#7 8#7), (0x2A#6 ++ 4#7 ++ 6#7 ++ 8#7 ++ 2#5, .cwr 4#7 6#7 8#7),
    (0x2B#6 ++ 5#7 ++ 6#7 ++ 0#7 ++ 4#5, .ldRs 5#7 6#7 4#3), (0x33#6 ++ 5#7 ++ 101#7 ++ (2#2 ++ 0#1 ++ 7#4) ++ 3#5,
      .accwr 5#7 101#7 2#2 7#4)] : List (BitVec 32 × Instr)), (decode p.1).toOption = some p.2 := by decide +kernel

theorem test_decode_fields_rest : ∀ p ∈ ([
    -- F: major, d, a, b, fn, fmt; C: major, d, a, dst, src, op; A: major, d, a, b, kind, op
    (0x18#6 ++ 4#7 ++ 6#7 ++ 8#7 ++ 2#3 ++ 1#2, .fmul 4#7 6#7 8#7 1#2), (0x1A#6 ++ 5#7 ++ 6#7 ++ 7#7 ++ 0#3 ++ 2#2, .fdiv 5#7 6#7 7#7 2#2),
    (0x1C#6 ++ 5#7 ++ 6#7 ++ 7#7 ++ 1#3 ++ 3#2, .fhypot 5#7 6#7 7#7 3#2),
    (0x1D#6 ++ (6#3 ++ 0#1 ++ 2#3) ++ 6#7 ++ 7#7 ++ 0#3 ++ 0#2, .fcmp 6#3 2#3 6#7 7#7 0#2),
    (0x1E#6 ++ 5#7 ++ 6#7 ++ 0#4 ++ 6#4 ++ 2#4, .cvtiI2f 5#7 6#7 0#4 6#4),
    (0x28#6 ++ 4#7 ++ 6#7 ++ 7#7 ++ 1#1 ++ 7#4, .redOr 4#7 6#7 7#7),
    -- S: major, d, s, a, size, op; M: major, d, a, size, off9; I: major, d, a, imm12
    (0x21#6 ++ 4#7 ++ 8#7 ++ 6#7 ++ 5#3 ++ 0#2, .st 4#7 8#7 6#7 5#3), (0x24#6 ++ 5#7 ++ 6#7 ++ 3#3 ++ 511#9, .ldc 5#7 6#7 3#3 511#9),
    (0x22#6 ++ 5#7 ++ 0#7 ++ 6#7 ++ 4#3 ++ 0#2, .lds 5#7 6#7 4#3), (0x0C#6 ++ 5#7 ++ 6#7 ++ 0x801#12, .ori 5#7 6#7 0x801#12),
    (0x0E#6 ++ 5#7 ++ 6#7 ++ (2#2 ++ 0#5 ++ 17#5), .sari 5#7 6#7 17#5),
    -- U: major, d, a, b, x, fn; UI: major, d, a, op, imm12
    (0x00#6 ++ 0#6 ++ 0#6 ++ 9#6 ++ 0#3 ++ 1#5, .trap 9#6), (0x04#6 ++ 0#6 ++ 6#6 ++ 7#6 ++ 0#3 ++ 1#5, .brx 6#6 7#6),
    (0x05#6 ++ 8#6 ++ 6#6 ++ 0#6 ++ 0#3 ++ 3#5, .qstat 8#6 6#6), (0x14#6 ++ 5#6 ++ 6#6 ++ 7#6 ++ 4#3 ++ 11#5, .ucmpZ 5#6 6#6 7#6 4#3),
    (0x15#6 ++ 5#6 ++ 6#6 ++ 0#2 ++ 0xFFF#12, .uaddi 5#6 6#6 0xFFF#12), (0x2C#6 ++ 5#6 ++ 0#6 ++ 7#6 ++ 0#3 ++ 1#5, .tilestat 5#6 7#6),
    (0x2D#6 ++ 0#6 ++ 8#6 ++ 7#6 ++ 0#3 ++ 0#5, .cpy 8#6 7#6), (0x2E#6 ++ 6#6 ++ 0#6 ++ 7#6 ++ 0#3 ++ 1#5, .waitb 6#6 7#6),
    (0x33#6 ++ 0#6 ++ 6#6 ++ 7#6 ++ 0#3 ++ 0#5, .accdef 6#6 7#4),
    -- B: major, g, sense, prio, disp16; J: major, link, prio, disp20
    (0x02#6 ++ 3#3 ++ 1#1 ++ 40#6 ++ 0x8000#16, .bra 3#3 1#1 40#6 0x8000#16), (0x03#6 ++ 1#1 ++ 31#5 ++ 0x80000#20, .call 31#5 0x80000#20)]
    : List (BitVec 32 × Instr)), (decode p.1).toOption = some p.2 := by decide +kernel

/-! ### A small machine -/

/-- The machine with one privileged launch of one crew of 32 threads loaded (log entry 9), whose group at virtual address 0
has begun with the hints h, changed by the functions given. -/
def demo (h : Hints) (fc : Crew → Crew) (ft : Team → Team) (fl : Launch → Launch) (fs : State → State) : State :=
  let s := State.reset.load []
  fs { s with
    agenda := []
    crews := s.crews.map (fun c => fc { c with group := some ⟨0, 0#32, 0#32, h⟩ })
    teams := s.teams.map ft
    launches := s.launches.map fl }

/-- What the instruction at the group of the crew `cur` finds. -/
def at' (s : State) : Ctx :=
  match s.context with
  | .ok (n, c, t, l, g, e) => ⟨n, c, t, l, g, e, e.mask &&& maskOf ((threadsOf e.mask).filter (c.guard g.hints.g)), g.pc + 4#32, none⟩
  | .error _ => ⟨0, loadType.crew (loadLaunch 1#32 0) ⟨⟨1#32, 0, 0⟩, 0⟩ 0#32, loadType.team 0 ⟨1#32, 0, 0⟩ 0 0 0,
      loadLaunch 1#32 0, ⟨0, 0#32, 0#32, Hints.empty⟩, ⟨0#32, 0#6, 0, none, false, .free, [], 0#32, 0, none, none, none⟩, 0#32, 0#32, none⟩

/-- The crew's uniform registers. -/
def withU (u : List (Nat × Word)) (c : Crew) : Crew := { c with uregs := Cells.setAll 0#32 c.uregs u }
/-- Slot 0 of vector registers. -/
def withV (v : List (Nat × Word)) (c : Crew) : Crew :=
  { c with vregs := Cells.setAll 0#32 c.vregs (v.map (fun p => (32 * p.1, p.2))) }

/-- No hint, nothing changed. -/
def plain : State := demo Hints.empty id id id id
/-- One hint payload. -/
def hinted (h : Hints) : State := demo { h with count := 1 } id id id id
/-- The launch is protected: 16 threads, each with a shadow slot. -/
def prot : State := demo Hints.empty (fun c => { c with entries := c.entries.map (fun e => { e with mask := 0xFFFF#32 }) }) id
  (fun l => { l with prot := true }) id
/-- The uniform registers hold u. -/
def uni (u : List (Nat × Word)) : State := demo Hints.empty (withU u) id id id
/-- No thread is active: the guard p1 is false everywhere. -/
def idle : State := hinted { Hints.empty with g := some 1#4 }

/-- The word i issues at s. -/
def Ready (i : Instr) (s : State) : Bool := decide (Issues (formOf i) s (at' s))

theorem ready_issues {i : Instr} {s : State} (h : Ready i s = true) : Issues (formOf i) s (at' s) := of_decide_eq_true h

/-! ### Every instruction word issues

The conditions of `Issues`, which every statement about an instruction word takes, are met by every word; the statements'
further hypotheses follow below. -/

theorem test_issues_int : ∀ i ∈ ([.iadd 4#7 8#7 12#7, .iaddc 4#7 8#7 12#7, .isub 4#7 8#7 12#7, .isubb 4#7 8#7 12#7,
    .iminI32 4#7 8#7 12#7, .iminZ32 4#7 8#7 12#7, .imaxI32 4#7 8#7 12#7, .imaxZ32 4#7 8#7 12#7, .iabs 4#7 8#7,
    .and 4#7 8#7 12#7, .or 4#7 8#7 12#7, .xor 4#7 8#7 12#7, .andn 4#7 8#7 12#7, .shl 4#7 8#7 12#7, .shr 4#7 8#7 12#7,
    .sar 4#7 8#7 12#7, .iadd64 4#7 8#7 12#7, .iaddc64 4#7 8#7 12#7, .isub64 4#7 8#7 12#7, .isubb64 4#7 8#7 12#7,
    .iminI64 4#7 8#7 12#7, .iminZ64 4#7 8#7 12#7, .imaxI64 4#7 8#7 12#7, .imaxZ64 4#7 8#7 12#7, .iabs64 4#7 8#7,
    .and64 4#7 8#7 12#7, .or64 4#7 8#7 12#7, .xor64 4#7 8#7 12#7, .andn64 4#7 8#7 12#7, .shl64 4#7 8#7 12#7,
    .shr64 4#7 8#7 12#7, .sar64 4#7 8#7 12#7, .iaddi 4#7 8#7 5#12, .andi 4#7 8#7 5#12, .ori 4#7 8#7 5#12, .xori 4#7 8#7 5#12,
    .icmpi 2#3 0#1 3#3 8#7 5#12, .shli 4#7 8#7 5#5, .shri 4#7 8#7 5#5, .sari 4#7 8#7 5#5] : List Instr),
    Ready i plain := by decide +kernel

theorem test_issues_int_more : ∀ i ∈ ([.imul 4#7 8#7 12#7, .imulhI32 4#7 8#7 12#7, .imulhZ32 4#7 8#7 12#7,
    .imad 4#7 8#7 12#7, .imadwI32 4#7 8#7 12#7, .imadwZ32 4#7 8#7 12#7, .idivI32 4#7 8#7 12#7, .idivZ32 4#7 8#7 12#7,
    .iremI32 4#7 8#7 12#7, .iremZ32 4#7 8#7 12#7, .popc 4#7 8#7, .clz 4#7 8#7, .ctz 4#7 8#7, .brev 4#7 8#7, .rot 4#7 8#7 12#7,
    .funnel 4#7 8#7 12#7, .bfxI32 4#7 8#7 12#7, .bfxZ32 4#7 8#7 12#7, .bfi 4#7 8#7 12#7, .icmp32 2#3 0#1 3#3 8#7 12#7,
    .icmp64 2#3 1#1 3#3 8#7 12#7, .sel 4#7 8#7 12#7 3#3, .leaPair 4#7 8#7 12#7 0#1 3#3, .lea32 4#7 8#7 12#7 0#1 3#3]
    : List Instr), Ready i plain := by decide +kernel

theorem test_issues_uniform_move : ∀ i ∈ ([.uadd 4#6 8#6 12#6 1#1, .usub 4#6 8#6 12#6 1#1, .uand 4#6 8#6 12#6 1#1,
    .uor 4#6 8#6 12#6 1#1, .uxor 4#6 8#6 12#6 1#1, .ushl 4#6 8#6 12#6 1#1, .ushr 4#6 8#6 12#6 1#1, .usar 4#6 8#6 12#6 1#1,
    .usel 4#6 8#6 12#6 1#1, .umul 4#6 8#6 12#6, .umad 4#6 8#6 12#6, .ucmpI 4#6 8#6 12#6 2#3, .ucmpZ 4#6 8#6 12#6 2#3,
    .uaddi 4#6 8#6 5#12, .umovi 4#6 5#12, .uld 4#6 8#6 1#1, .mov 4#7 8#7, .movi 4#7 5#14, .movu 4#6 8#6 1#1,
    .movs 1#1 4#6 8#7 5#5, .rfal 1#1 4#6 8#7, .shfl 4#7 8#7 12#7, .bfly 4#7 8#7 5#5, .crewAll 3#3 0#1 1#3, .crewAny 3#3 0#1 1#3,
    .crewSame 3#3 0#1 1#3, .crewMask 4#7 0#1 1#3, .matchB 4#7 8#7, .matchB64 4#7 8#7, .pack 4#7 8#7 0#2, .pack 4#7 8#7 1#2,
    .pack 4#7 8#7 2#2, .pack 4#7 8#7 3#2, .unpack 4#7 8#7 0#2, .unpack 4#7 8#7 1#2, .unpack 4#7 8#7 2#2, .unpack 4#7 8#7 3#2]
    : List Instr), Ready i plain := by decide +kernel

theorem test_issues_float : ∀ t ∈ [0#2, 1#2, 2#2, 3#2], ∀ i ∈ ([.fadd 4#7 8#7 12#7 t, .fsub 4#7 8#7 12#7 t, .fmul 4#7 8#7 12#7 t,
    .fmin 4#7 8#7 12#7 t, .fmax 4#7 8#7 12#7 t, .fabs 4#7 8#7 t, .fneg 4#7 8#7 t, .fscale 4#7 8#7 12#7 t, .fma 4#7 8#7 12#7 t,
    .fdiv 4#7 8#7 12#7 t, .fsqrt 4#7 8#7 t, .frnd 4#7 8#7 t, .fcmp 6#3 3#3 8#7 12#7 t, .fclass 4#7 8#7 t, .fexpo 4#7 8#7 t,
    .matchF 4#7 8#7 t] : List Instr), Ready i plain := by decide +kernel

theorem test_issues_staged : ∀ t ∈ [0#2, 1#2, 2#2, 3#2], ∀ i ∈ ([.frsq 4#7 8#7 t, .frcp 4#7 8#7 t, .fexp 4#7 8#7 t,
    .fexp2 4#7 8#7 t, .fexp10 4#7 8#7 t, .fexpm1 4#7 8#7 t, .flog 4#7 8#7 t, .flog2 4#7 8#7 t, .flog10 4#7 8#7 t, .flog1p 4#7 8#7 t,
    .fsin 4#7 8#7 t, .fcos 4#7 8#7 t, .ftan 4#7 8#7 t, .fsinpi 4#7 8#7 t, .fcospi 4#7 8#7 t, .fatan 4#7 8#7 t, .ftanh 4#7 8#7 t,
    .ferf 4#7 8#7 t, .fcbrt 4#7 8#7 t, .fatan2 4#7 8#7 12#7 t, .fhypot 4#7 8#7 12#7 t, .fpow 4#7 8#7 12#7,
    .fdot2 4#7 8#7 12#7 0#1, .fdot4 4#7 8#7 12#7 1#1, .redux 4#7 8#7 t, .scan 4#7 8#7 t, .scanEx 4#7 8#7 t] : List Instr),
    Ready i plain := by decide +kernel

theorem test_issues_convert_system : ∀ i ∈ ([.cvt 4#7 8#7 1#4 8#4, .cvtiF2i 4#7 8#7 3#4 0#4, .cvtiI2f 4#7 8#7 1#4 7#4,
    .quant 4#7 8#7 12#7, .deq 4#7 8#7 12#7, .amaxPush 4#7 8#7 100#7, .amaxScale 4#7 100#7 8#7, .nop, .trap 5#6, .eret,
    .rdsr 4#6 0#6 0#3, .wrsr 4#6 16#6 0#3, .wrsrTlbinv 4#6, .preemptSave 4#6 16#6, .preemptRest 4#6 16#6, .killg 4#6 8#6,
    .killgL 4#6 8#6, .bra 0#3 1#1 5#6 7#16, .jmp 5#5 7#20, .call 5#5 7#20, .ret, .brx 4#6 5#6, .yield, .exit, .setprio 5#6,
    .syncC 4#6, .barT 4#6, .gbar, .rvinit 4#6 5#6, .rvarr 4#6 5#6, .rvwait 4#6 5#6, .quotaGive 1#6 1#6, .quotaTake 1#6 1#6,
    .pop 8#6 20#6, .popTry 8#6 20#6, .push 8#6 20#6, .fin 8#6, .qstat 8#6 20#6, .qctl 8#6 3#6, .rslvWait, .rslvStat 4#6 5#6]
    : List Instr), Ready i plain := by decide +kernel

theorem test_issues_memory : ∀ i ∈ ([.ld 4#7 8#7 6#3 1#9, .st 4#7 8#7 12#7 6#3, .lds 4#7 8#7 6#3, .sts 4#7 8#7 12#7 6#3,
    .ldv 4#7 8#7 6#3, .stv 4#7 8#7 12#7 6#3, .ldc 4#7 8#7 6#3 1#9, .ldw 4#7 8#7 12#7 6#3, .ldRs 4#7 8#7 6#3, .stRs8 4#7 8#7 12#7,
    .stRs16 4#7 8#7 12#7, .stRs32 4#7 8#7 12#7, .stRs64 4#7 8#7 12#7, .stRs128 4#7 8#7 12#7, .pref 8#7 0#1, .pfenceS 4#7, .pfenceC,
    .discLine 8#7, .discL1, .discK, .wmerge 4#7 8#7 12#7, .wall 4#7, .resv 4#7 2#7, .atomAdd 4#7 8#7 12#7 1#1,
    .redAdd 4#7 8#7 12#7 1#1, .atomMin 4#7 8#7 12#7 0#1, .redMin 4#7 8#7 12#7 0#1, .atomMax 4#7 8#7 12#7 0#1,
    .redMax 4#7 8#7 12#7 0#1, .atomAnd 4#7 8#7 12#7, .redAnd 4#7 8#7 12#7, .atomOr 4#7 8#7 12#7, .redOr 4#7 8#7 12#7,
    .atomXor 4#7 8#7 12#7, .redXor 4#7 8#7 12#7, .atomExch32 4#7 8#7 12#7, .atomExch64 4#7 8#7 12#7, .atomfAddS 4#7 8#7 12#7,
    .atomfAddD 4#7 8#7 12#7, .atomfRedS 4#7 8#7 12#7, .atomfRedD 4#7 8#7 12#7, .msaddBf 4#7 8#7 12#7, .msaddH 4#7 8#7 12#7,
    .cwr 4#7 8#7 12#7, .vers 4#7 8#7, .flip 4#7 8#7, .ordAtom 100#7 8#7 12#7, .ordClose 4#7 100#7] : List Instr),
    Ready i plain := by decide +kernel

theorem test_issues_tiles_matrix : ∀ i ∈ ([.tiledef 4#6 1#6, .tiledefClr 1#6, .tilestat 4#6 1#6, .trel 1#6, .cpy 8#6 1#6,
    .cpyMc 4#6 8#6 1#6, .cpyOut 8#6, .cpyCvt 8#6 1#6, .cpyCvtOut 8#6, .xform 8#6 1#6, .xformOut 8#6, .xprog 8#6 1#6, .seal 4#6,
    .waitb 4#6 5#6, .mma 0#2 1#6 1#5 2#5 3#4 8#4, .accdef 4#6 3#4, .accdefClr 3#4, .accz 3#4, .accrd 4#7 100#7 1#2 3#4,
    .accrdSt 4#7 100#7 1#2 3#4, .accwr 4#7 100#7 1#2 3#4, .accdrain 4#6 8#6 3#4 0#2, .accsave 4#6 8#6 3#4, .accload 4#6 8#6 3#4,
    .mwait 4#6 5#6] : List Instr), Ready i plain := by decide +kernel

/-- HINT.C with a payload stands ahead. -/
def withC (n : BitVec 22) : State := hinted { Hints.empty with c := some n }

/-- The forms that need HINT.C (R29): field 16 for a pair, uniform field 104 for a descriptor quad, the tiles of scales. -/
theorem test_issues_hinted : (∀ i ∈ ([.stw 4#7 8#7 12#7 6#3, .atomCas32 4#7 8#7 12#7, .atomCas64 4#7 8#7 12#7,
      .mmaG 0#2 1#6 1#5 2#5 3#4 3#3] : List Instr), Ready i (withC 16#22)) ∧
    (∀ i ∈ ([.mmaCv 0#2 1#6 1#5 2#5 3#4 3#3, .mmas 0#2 1#6 1#5 2#5 3#4 3#4] : List Instr),
      Ready i (withC 104#22)) := by decide +kernel

/-- The forms that the meanings of the last constructors check are those of their instructions. -/
theorem test_late_forms (d a b : BitVec 6) (x y z : BitVec 7) : formOf (.preemptSave d a) = preemptForm d a ∧
    formOf (.preemptRest d a) = preemptForm d a ∧ formOf (.killg d a) = killgForm d a ∧ formOf (.killgL d a) = killgForm d a ∧
    formOf (.stRs8 x y z) = stRsForm .one x y z ∧ formOf (.stRs16 x y z) = stRsForm .one x y z ∧
    formOf (.stRs128 x y z) = stRsForm .quad x y z ∧
    formOf (.cpyCvtOut a) = { shape := [.desc [0, 1, 2, 3, 4, 5, 6, 7] a], takes := { rm := true }, twice := some 4 } ∧
    formOf (.xformOut a) = { shape := [.desc [0, 1, 3, 4, 6, 7] a], takes := { }, twice := some 4 } ∧
    formOf (.accload d a 3#4) = { shape := [.us .pair d, .us .pair a], takes := { }, twice := some 4 } ∧
    formOf (.rslvStat d b) = { shape := [.ud .one d], takes := { }, twice := some 6 } :=
  ⟨rfl, rfl, rfl, rfl, rfl, rfl, rfl, rfl, rfl, rfl, rfl⟩

/-! ### The further hypotheses of the statements

One theorem a statement, a clause a conjunct, at the edges of a range where a clause has one. -/

/-- HINT.IMM with a payload stands ahead. -/
def withImm (p : BitVec 22) : State := hinted { Hints.empty with imm := some p }

theorem test_hyp_immediates : ([0#12, 1023#12, 1024#12].all (fun k => Ready (.iaddi 4#7 8#7 k) (withImm 97#22) &&
      Ready (.icmpi 2#3 0#1 3#3 8#7 k) (withImm 97#22) && Ready (.uaddi 4#6 8#6 k) (withImm 97#22) &&
      Ready (.movi 4#7 (k.setWidth 14)) (withImm 97#22))) = true ∧
    ImmFits (at' (withImm 97#22)).grp.hints 1023#12 ∧ ¬ ImmFits (at' (withImm 97#22)).grp.hints 1024#12 ∧
    Ready (.shli 4#7 8#7 31#5) (withImm 0#22) ∧ Ready (.shli 4#7 8#7 31#5) (withImm 1#22) := by decide +kernel

/-- A protected launch, where a butterfly distance and a thread number stop at 16; no active thread. -/
theorem test_hyp_moves : (at' prot).launch.prot = true ∧ [15#5, 16#5].all (fun m => Ready (.bfly 4#7 8#7 m) prot) = true ∧
    [15#5, 16#5].all (fun n => Ready (.movs 1#1 4#6 8#7 n) prot) = true ∧ (at' prot).W = 16 ∧
    (at' prot).crew.src64 8#7 15 = (at' prot).crew.src64 8#7 31 ∧
    (Ready (.rfal 1#1 4#6 8#7) idle ∧ (at' idle).threads = []) ∧ (at' plain).threads = 0 :: (List.range 32).tail ∧
    (Ready (.crewAll 3#3 0#1 1#3) prot ∧ MembersAgree (at' prot) (fun t => (at' prot).crew.p 1 t)) := by decide +kernel

theorem test_hyp_float_special : Machine.Num.isNan (.inf true) = false ∧ Machine.Num.isNan (.fin false 1 0) = false := by decide

/-- 1, the least subnormal and -0 of FP32, and the largest finite FP64. -/
theorem test_hyp_representable : (fmtOf 0#2).read 0x3F800000 = .fin false (2 ^ 23) (-23) ∧
    (fmtOf 0#2).read 1 = .fin false 1 (-149) ∧ (fmtOf 0#2).read 0x80000000 = .fin true 0 (-149) ∧
    (fmtOf 1#2).read 0x7FEFFFFFFFFFFFFF = .fin false (2 ^ 53 - 1) 971 := by decide +kernel

/-- Control words of QUANT and DEQ with codes 1, 2, 8, 9 and 10 in s4. -/
theorem test_hyp_conversions : ∀ n ∈ [1, 2, 8, 9, 10], Ready (.quant 4#7 8#7 100#7) (uni [(4, BitVec.ofNat 32 (256 * n + 127))]) ∧
    Ready (.deq 4#7 8#7 100#7) (uni [(4, BitVec.ofNat 32 (256 * n + 127))]) ∧
    (∀ k ∈ (at' (uni [(4, BitVec.ofNat 32 (256 * n + 127))])).slots,
      quantCode ((at' (uni [(4, BitVec.ofNat 32 (256 * n + 127))])).crew.src 100#7 k) = n) ∧
    (at' (uni [(4, BitVec.ofNat 32 (256 * n + 127))])).rm = 0#3 := by decide +kernel

/-! #### Staged evaluation -/

/-- The lanes of FRCP.s over the crew's slots. -/
def rcpLanes (s : State) : List (Nat × Lane) :=
  (memberArgs (at' s).launch.prot ((at' s).slots.map (fun k => (k, arg1 0#2 8#7 (at' s).crew k)))).flatMap
    (lanesOf 0x1A#6 3#5 0#2 (at' s).rm false)

/-- Slot 0 of v8 holds 3. -/
def three : Crew → Crew := withV [(8, 0x40400000#32)]

/-- A park record of the demo's crew at index 0 with the reciprocal of 3 for slot 0. -/
def park (stage : ParkStage) : Park where
  core := 0
  idx := [0]
  seq := 0#32
  crew := ⟨⟨1#32, 0, 0⟩, 0⟩
  op := 1
  major := 0x1A#6
  sel := 3#5
  fmt := 0#2
  rm := 0#3
  dest := 4#7
  slot := 0
  chain := false
  excl := false
  pmask := 1#32
  amask := 1#32
  args := [(0, 0x40400000#64, 0#64, 0#64)]
  stage := stage
  bad := false
  pc := 0#32

/-- Park records stand in the core's queue. -/
def parked (l : List Park) : State := demo Hints.empty three id id (fun s => { s with fl := { s.fl with parks := l } })

theorem test_hyp_staged_issue :
    (∀ p ∈ rcpLanes plain, p.2.test = none) ∧
    ((∃ p ∈ rcpLanes (parked []), p.2.test ≠ none) ∧ (parked []).parkBehind 0 (at' (parked [])) = false ∧
      parkNeed 0x1A#6 0#2 false 32 ≤ ((parked []).parkFree 0).length) ∧
    ((∃ p ∈ rcpLanes (parked [{ park .queued with idx := List.range 33 }]), p.2.test ≠ none) ∧
      ((parked [{ park .queued with idx := List.range 33 }]).parkFree 0).length < parkNeed 0x1A#6 0#2 false 32 ∧
      Ready (.frcp 4#7 8#7 0#2) (parked [{ park .queued with idx := List.range 33 }])) := by decide +kernel

theorem test_hyp_staged_steps :
    ((parked [park .queued]).parkAt 0 0 = some (park .queued) ∧
      ∀ x ∈ (parked [park .queued]).fl.parks, x.seq.ult (park .queued).seq = false) ∧
    (parked [park .resolver]).parkAt 0 0 = some (park .resolver) ∧
    ((parked [park .exact]).parkAt 0 0 = some (park .exact) ∧
      (parked [park .exact]).fl.parks.find? (fun x => decide (x.stage = .exact) && decide (dieOf x.core = dieOf 0)) =
        some (park .exact)) := by decide +kernel

/-- An operation of FRCP.s whose fast results are due. -/
def fast : FastOp := ⟨1, ⟨⟨1#32, 0, 0⟩, 0⟩, 0, 0x1A#6, 3#5, 0#2, 0#3, 4#7, 1#32, [0], [(0, 0x40400000#64, 0#64, 0#64)], false, 0#32, 0⟩

theorem test_hyp_fast_result : ((demo Hints.empty id id id (fun s => { s with fl := { s.fl with fasts := [fast] } })).fl.fasts.find?
    (fun x => decide (x.id = fast.id))) = some fast := by decide +kernel

theorem test_hyp_parked_lane : ((parked [park .exact]).crewOf (park .exact).crew).any (fun c => c.vbad.isEmpty) = true ∧
    (park .exact).chain = false ∧ (park .exact).pmask = 1#32 <<< (park .exact).slot ∧
    (lanesOf 0x1A#6 3#5 0#2 0#3 false (park .exact).args).map (·.1) = [0] := by decide +kernel

/-! #### Hints, control flow, barriers -/

/-- The crew's slots of registers may be pending, its quota smaller, its rounding mode SR. -/
def crewed (f : Crew → Crew) : State := demo Hints.empty f id id id

theorem test_hyp_issue_checks : Stands plain (at' plain) ∧
    (at' (withC 16#22)).grp.hints.fit (formOf .nop) = false ∧
    ((at' (crewed (fun c => { c with rm := 5#3 }))).grp.hints.fit (formOf (.fadd 4#7 8#7 12#7 0#2)) = true ∧
      (formOf (.fsqrt 4#7 8#7 0#2)).takes.noSr = true ∧ (at' (crewed (fun c => { c with rm := 5#3 }))).rm = 5#3) ∧
    (HintsFit (formOf (.iadd 8#7 0#7 1#7)) (at' (crewed (fun c => { c with quota := 1 }))) ∧
      inQuota (at' (crewed (fun c => { c with quota := 1 }))).crew.quota
        (formRegs (formOf (.iadd 8#7 0#7 1#7)) Hints.empty) = false ∧
      inQuota (at' (crewed (fun c => { c with quota := 1 }))).crew.quota
        (formRegs (formOf (.iadd 7#7 0#7 1#7)) Hints.empty) = true) ∧
    (∃ r ∈ formRegs (formOf (.iadd 7#7 0#7 1#7)) Hints.empty, (crewed (fun c => { c with pend := [⟨.v 1, 5⟩] })).crews.any
      (fun c => c.pending r) = true) := by decide +kernel

/-- Links of threads, one and seven deep, and eight. -/
def linked (n : Nat) : State := crewed (fun c => { c with links := (List.range 32).map (fun t => (t, List.replicate n ⟨8#32, 3#6⟩)) })

theorem test_hyp_control : (Ready .ret (linked 1) ∧ ∀ t ∈ (at' (linked 1)).threads, (at' (linked 1)).crew.links? t ≠ []) ∧
    (Ready (.call 3#5 0#20) (linked 7) ∧ ∀ t ∈ (at' (linked 7)).threads, ((at' (linked 7)).crew.links? t).length < 8) ∧
    (Ready (.brx 4#6 3#6) (uni [(4, 0#32)]) ∧ ((at' (uni [(4, 0#32)])).crew.u 4).toNat % 4 = 0 ∧
      (uni [(4, 0#32)]).inCode (at' (uni [(4, 0#32)])).launch 0#32 = true) ∧
    (Ready (.brx 4#6 3#6) (uni [(4, 4#32)]) ∧ (uni [(4, 4#32)]).inCode (at' (uni [(4, 4#32)])).launch 4#32 = false) ∧
    (∀ t ∈ (at' plain).threads, (at' plain).crew.smask.getLsbD t = false) ∧
    (at' plain).team.bmask.getLsbD (at' plain).crew.key.crew = false ∧ plain.mayPark (at' plain).crew.key = false := by
  decide +kernel

/-- Two entries of 16 threads each. -/
def halves : State := crewed (fun c => { c with entries := c.entries.flatMap (fun e =>
  [{ e with mask := 0xFFFF#32 }, { e with mask := 0xFFFF0000#32, pc := 8#32 }]) })

theorem test_hyp_threads : EntriesApart (at' halves).crew.entries ∧ (at' halves).crew.entryOf 0 = some (at' halves).ent ∧
    [(0xFF#32, 4#32, 3#6), (0xFF00#32, 8#32, 0#6)].all (fun x => decide (x.1 &&& ~~~(at' halves).ent.mask = 0#32)) = true ∧
    [(0xFF#32, 4#32, 3#6), (0xFF00#32, 8#32, 0#6)].Pairwise (fun x y => x.1 &&& y.1 = 0#32) := by decide +kernel

/-- An operation of the demo's crew. -/
def opOf' (id : Nat) (kind : OpKind) (vdest udest : Option RegDest) (accs : List Acc) (reqs : List LReq) : MOp :=
  ⟨id, ⟨⟨1#32, 0, 0⟩, 0⟩, 0, kind, 0xFFFFFFFF#32, vdest, udest, 0#3, 2#3, 0#32, 0, accs, reqs⟩
/-- A request at a target, in a state. -/
def reqOf (t : Target) (st : ReqSt) : LReq := ⟨t, 512, .home, st, 0#1024, 0#4, 0#12, false, 0#5, 0, none, true, false, 0, 0, false⟩
/-- The access of slot 0 through request 0, at a virtual address. -/
def accOf (va : DWord) (data aux : BitVec 128) : Acc := ⟨0, va, 0, data, aux, 0#128, false⟩
/-- Operations are in flight, and the uniform registers hold u. -/
def busy (u : List (Nat × Word)) (ops : List MOp) : State :=
  demo Hints.empty (withU u) id id (fun s => { s with serial := 100, fl := { s.fl with ops := ops } })

/-- SYNC.C with the whole crew, with a mask beyond the crew in a protected launch, with a store on its way; then the
arrival that does not close. -/
theorem test_hyp_barriers :
    (Ready (.syncC 4#6) (uni [(4, 0#32)]) ∧ (at' (uni [(4, 0#32)])).crew.u 4 = 0#32) ∧
    (Ready (.syncC 4#6) (busy [(4, 0xFFFFFFFF#32)] []) ∧ (at' (busy [(4, 0xFFFFFFFF#32)] [])).crew.sarr = 0#32 ∧
      (busy [(4, 0xFFFFFFFF#32)] []).outstanding ⟨⟨1#32, 0, 0⟩, 0⟩ 0xFFFFFFFF#32 100 false = false) ∧
    (Ready (.syncC 4#6) (busy [(4, 0xFFFFFFFF#32)] [opOf' 1 (.store 4) none none [] [reqOf (.home 0) .sent]]) ∧
      (busy [] [opOf' 1 (.store 4) none none [] [reqOf (.home 0) .sent]]).outstanding ⟨⟨1#32, 0, 0⟩, 0⟩ 0xFFFFFFFF#32 100 false =
        true) ∧
    (Ready (.barT 4#6) halves ∧ (at' halves).ent.mask ≠ (at' halves).crew.live) ∧
    (Ready (.barT 4#6) (uni [(4, 1#32)]) ∧ (at' (uni [(4, 1#32)])).ent.mask = (at' (uni [(4, 1#32)])).crew.live ∧
      ∀ k ∈ threadsOf 1#32, ∃ x ∈ (uni [(4, 1#32)]).crewsOf ⟨1#32, 0, 0⟩, x.key.crew = k) ∧
    (Ready .gbar plain ∧ (at' plain).ent.mask = (at' plain).crew.live ∧
      plain.outstanding (at' plain).crew.key 0xFFFFFFFF#32 plain.serial false = false) := by decide +kernel

/-- Point 5 with a phase and an expected count. -/
def pointed (n : Nat) (phase : Word) (u : List (Nat × Word)) (ops : List MOp) : State :=
  demo Hints.empty (withU u) (fun t => t.setPoint 5 ⟨true, n, n, phase⟩) id (fun s => { s with fl := { s.fl with ops := ops } })

theorem test_hyp_points : ([1#32, 65536#32].all (fun n => Ready (.rvinit 4#6 5#6) (uni [(4, n)]) &&
      decide (1 ≤ ((at' (uni [(4, n)])).crew.u 4).toNat ∧ ((at' (uni [(4, n)])).crew.u 4).toNat ≤ 65536) &&
      !((at' (uni [(4, n)])).team.point 5).init)) = true ∧
    ([0#32, 65537#32].all (fun n => Ready (.rvinit 4#6 5#6) (uni [(4, n)]))) = true ∧
    (Ready (.rvarr 4#6 5#6) (pointed 2 7#32 [] []) ∧ ((at' (pointed 2 7#32 [] [])).team.point 5).init = true ∧
      ((at' plain).team.point 5).init = false) ∧
    ([(7#32, 0), (6#32, 1), (7#32 - 0x80000000#32, 2 ^ 31), (6#32 - 0x80000000#32, 2 ^ 31 + 1)].all (fun p =>
      Ready (.rvwait 4#6 5#6) (pointed 2 7#32 [(4, p.1)] []) &&
      decide ((((at' (pointed 2 7#32 [(4, p.1)] [])).team.point 5).phase - (at' (pointed 2 7#32 [(4, p.1)] [])).crew.u 4).toNat
        = p.2))) = true ∧
    ((pointed 1 7#32 [] [opOf' 1 (.rvarr 5) none (some ⟨4#7, 1⟩) [] []]).opOf 1).isSome = true ∧
    (pointed 1 7#32 [] [opOf' 1 (.rvarr 5) none (some ⟨4#7, 1⟩) [] []]).outstanding ⟨⟨1#32, 0, 0⟩, 0⟩ 0xFFFFFFFF#32 1 false =
      false := by decide +kernel

/-- A second crew of the team, CREWID 1, with six granules; `q` is what each waits for. -/
def pair (q0 q1 : Option QuotaWait) : State := demo Hints.empty (fun c => { c with quota := 6, quotaW := q0 }) id id
  (fun s => { s with crews := s.crews ++ s.crews.map (fun c => { c with key := ⟨c.key.team, 1⟩, quotaW := q1 }) })

theorem test_hyp_quotas :
    (Ready (.quotaGive 1#6 5#6) (pair none none) ∧ Ready (.quotaTake 1#6 6#6) (pair none (some ⟨true, 0, 5, 0, 0#32⟩)) ∧
      (pair none none).crewIx ⟨⟨1#32, 0, 0⟩, 1⟩ = some 1 ∧ ((pair none none).crewOf ⟨⟨1#32, 0, 0⟩, 1⟩).any (fun x => !x.gone) = true ∧
      (at' (pair none none)).ent.mask = (at' (pair none none)).crew.live) ∧
    ((pair (some ⟨true, 1, 5, 0, 0#32⟩) (some ⟨false, 0, 5, 0, 0#32⟩)).crews.all (fun c => !c.topPending 5) = true) ∧
    Cells.wf 0#32 (loadType.crew (loadLaunch 1#32 0) ⟨⟨1#32, 0, 0⟩, 0⟩ 0#32).vregs = true := by decide +kernel

/-- An entry of age 1,024, of age 1,023, and one whose YIELD is about to end. -/
theorem test_hyp_frontier : ∀ a ∈ [1023, 1024], ((crewed (fun c => { c with entries := c.entries.map (fun e =>
    { e with age := a, yield := 1 }) })).crews[0]?).any (fun c => (c.entryOf 31).any (fun e => decide (e.age = a) &&
      decide (e.raised = none) && decide (e.yield = 1))) = true := by decide +kernel

/-- A crew in two entries: after YIELD the first stands one word on, in a YIELD of 16 opportunities; of the 16 that another
entry uses, the last leaves it about to end. -/
def split' : State := crewed (fun c => { c with entries := c.entries.flatMap (fun e =>
  [{ e with mask := 0x0000FFFF#32 }, { e with mask := 0xFFFF0000#32, pc := 0x40#32 }]) })
theorem test_yield : Ready .yield split' = true ∧
    (match execYield split' with
      | .next t => (t.crews[0]?).any (fun c => ((c.entryOf 0).any (fun e => decide (e.yield = 17 ∧ e.pc = 4#32))) &&
        (c.entryOf 31).any (fun e => decide (e.yield = 0)) &&
        (((List.range 16).foldl (fun c _ => c.passed [] 31) c).entryOf 0).any (fun e => decide (e.yield = 1)))
      | _ => false) = true := by decide +kernel

/-! #### Traps and the system instructions -/

/-- The handler is armed; the crew's exception registers hold values. -/
def armed (evec epc : Word) : State := crewed (fun c => { c with evec := evec, epc := epc, eprio := 63#32 })
/-- The launch is not privileged. -/
def user (u : List (Nat × Word)) : State := demo Hints.empty (withU u) id (fun l => { l with priv := false }) id

theorem test_hyp_traps : (Stands (armed 8#32 0#32) (at' (armed 8#32 0#32)) ∧ EntriesApart (at' (armed 8#32 0#32)).crew.entries ∧
      (at' (armed 8#32 0#32)).launch.priv = true ∧ (at' (armed 8#32 0#32)).crew.evec ≠ 0#32 ∧ Ready (.trap 9#6) (armed 8#32 0#32)) ∧
    (Stands (user []) (at' (user [])) ∧ (at' (user [])).launch.priv = false ∧ (at' plain).crew.evec = 0#32) := by
  decide +kernel

theorem test_hyp_privilege : (at' (user [])).launch.priv = false ∧ (∀ i ∈ ([.eret, .rdsr 4#6 32#6 0#3, .rdsr 4#6 0#6 4#3,
      .rdsr 4#6 11#6 7#3, .wrsr 4#6 33#6 0#3, .wrsr 4#6 34#6 0#3, .wrsr 4#6 35#6 0#3, .wrsr 4#6 36#6 0#3, .wrsr 4#6 49#6 0#3,
      .wrsrTlbinv 4#6, .killg 4#6 8#6, .killgL 4#6 8#6, .preemptSave 4#6 16#6, .preemptRest 4#6 16#6] : List Instr),
      Ready i (user [])) ∧ srReadable (0#3 ++ 32#6) = true ∧ srReadable (7#3 ++ 11#6) = true ∧
    ((at' (user [])).crew.u64 18).toNat % 4096 = 0 := by decide +kernel

theorem test_hyp_eret : (Ready .eret (armed 0#32 0#32) ∧ (armed 0#32 0#32).inCode (at' (armed 0#32 0#32)).launch 0#32 = true) ∧
    (Ready .eret (armed 0#32 4#32) ∧ (armed 0#32 4#32).inCode (at' (armed 0#32 4#32)).launch 4#32 = false) ∧
    (Ready .eret (armed 0#32 2#32) ∧ (2#32).toNat % 4 ≠ 0) := by decide +kernel

theorem test_hyp_special : ([0, 12, 16, 19, 32, 36, 49, 256, 449, 450, 457, 459].all (fun n =>
      Ready (.rdsr 4#6 (BitVec.ofNat 6 n) (BitVec.ofNat 3 (n / 64))) plain)) = true ∧
    srReadable 13#9 = false ∧ srMonitor 256 = true ∧ srMonitor 459 = true ∧ plain.mayPark (at' plain).crew.key = false ∧
    ([16, 17, 18, 32, 33, 34, 35, 36, 49].all (fun n => Ready (.wrsr 4#6 (BitVec.ofNat 6 n) 0#3) (uni [(4, 5#32)]))) = true ∧
    srWritable 0#9 = false ∧ (uni [(4, 0#32)]).inCode (at' plain).launch 0#32 = true := by decide +kernel

/-- An invalidation under way: of everything of launch 1, waiting for operation 3. -/
def inval (ops : List MOp) : State := demo Hints.empty id id id (fun s => { s with
  fl := { s.fl with invs := [⟨2, false, 1#32, 0, 65536, [3], []⟩], ops := ops } })

theorem test_hyp_tlbinv : (Ready (.wrsrTlbinv 4#6) (uni [(4, 1#32)]) ∧ ((at' (uni [(4, 1#32)])).crew.u64 4).toNat = 1 ∧
      (at' (uni [(4, 1#32)])).crew.tlblaunch = 0#32) ∧
    ((uni [(5, 0x01000000#32)]).crews.all (fun c => decide (2 ^ 56 ≤ (c.u64 4).toNat)) = true) ∧
    ((crewed (fun c => { c with tlblaunch := 9#32 })).launchOf 9#32 = none) ∧
    ((inval []).fl.invs.find? (fun j => decide (j.id = 2))).any (fun i => (inval []).invDone i) = true ∧
    ((inval [opOf' 3 (.store 4) none none [] [reqOf (.home 0) .sent]]).fl.invs.find? (fun j => decide (j.id = 2))).any
      (fun i => !(inval [opOf' 3 (.store 4) none none [] [reqOf (.home 0) .sent]]).invDone i) = true ∧
    (State.reset.dev.power = true ∧ State.reset.dev.step = 6#4 ∧ State.reset.dev.tlblaunch = 0#32) ∧
    ((at' plain).launch ∈ plain.launches ∧ (plain.fl.tlb.all (fun e => decide (e.launch = (at' plain).launch.id) &&
      overlaps e.va e.lg 0 65536)) = true) := by decide +kernel

/-- Another launch, number 7, with gang 0. -/
def others (u : List (Nat × Word)) : State := demo Hints.empty (withU u) id id (fun s => { s with
  launches := s.launches ++ [{ loadLaunch 7#32 0 with id := 7#32 }], gangs := s.gangs ++ [Gang.start 7#32 0] })

theorem test_hyp_kill_preempt :
    (Ready (.killg 4#6 8#6) (others [(8, 7#32), (9, 65535#32)]) ∧ (others []).liveGang 7#32 65535 = none) ∧
    (Ready (.killg 4#6 8#6) (others [(8, 1#32)]) ∧ (others []).liveGang 1#32 0 ≠ none) ∧
    (Ready (.killg 4#6 8#6) (others [(8, 7#32)]) ∧ (others []).liveGang 7#32 0 ≠ none ∧ (at' (others [])).launch.id ≠ 7#32) ∧
    (Ready (.killgL 4#6 8#6) (others [(8, 7#32)]) ∧ (others []).launchOf 7#32 ≠ none ∧ (others []).launchOf 8#32 = none) ∧
    (Ready (.preemptSave 4#6 16#6) (others [(16, 7#32), (17, 9#32)]) ∧ (others []).preemptNow 1#32 7#32 9 0 = [1] ∧
      (others []).preemptNow 1#32 1#32 0 0 = [7]) ∧
    (Ready (.preemptSave 4#6 16#6) (others [(16, 7#32), (18, 4096#32)]) ∧ (others []).preemptNow 1#32 7#32 0 4096 = [] ∧
      Ready (.preemptRest 4#6 16#6) (others [(16, 7#32), (20, 31#32)])) := by decide +kernel

theorem test_hyp_resolver : (Ready .rslvWait (parked [park .queued]) ∧
      (parked [park .queued]).mayPark (at' (parked [park .queued])).crew.key = true) ∧
    plain.mayPark (at' plain).crew.key = false ∧ [0#6, 5#6, 6#6].all (fun n => Ready (.rslvStat 4#6 n) plain) = true := by decide +kernel

/-! #### Memory instructions -/

/-- `Reaches`, computed. -/
def reachesB (s : State) (c : Ctx) (n : Need) (va : DWord) (p : PAddr) : Bool :=
  decide (va.toNat < 2 ^ 56) && ((inWindow va.toNat && !n.x && granted c.launch (va.toNat - Config.windowBase) &&
      decide (p = .vault (Config.vaultBase + (va.toNat - Config.windowBase)))) ||
    (!inWindow va.toNat && (s.tlbFind c.team.core c.launch.id va.toNat).any (fun t => n.ok t.leaf &&
      decide (p = leafAddr t.leaf t.lg va.toNat t.sel))))

theorem reaches_of {s : State} {c : Ctx} {n : Need} {va : DWord} {p : PAddr} (h : reachesB s c n va p = true) :
    Reaches s c n va p := by
  simp only [reachesB, Bool.and_eq_true, Bool.or_eq_true, decide_eq_true_eq, Bool.not_eq_true', Option.any_eq_true] at h
  obtain ⟨h0, ⟨⟨⟨a, b⟩, d⟩, e⟩ | ⟨a, t, ht, b, d⟩⟩ := h
  · exact ⟨h0, .inl ⟨a, b, d, e⟩⟩
  · exact ⟨h0, .inr ⟨a, t, ht, b, d⟩⟩

/-- All accesses of the slots reach p, aligned, accepted; outside a protected launch. -/
def placedB (s : State) (c : Ctx) (slots : List Nat) (size : Nat) (n : Need) (accept : PAddr → Bool) (ea : Nat → DWord)
    (p : PAddr) : Bool :=
  !c.launch.prot && accept p && slots.all (fun k => decide ((ea k).toNat % size = 0) && reachesB s c n (ea k) p)

theorem placed_of {s : State} {c : Ctx} {slots : List Nat} {size : Nat} {n : Need} {accept : PAddr → Bool} {ea : Nat → DWord}
    {p : PAddr} (h : placedB s c slots size n accept ea p = true) : Placed s c slots size n accept ea (fun _ => p) := by
  simp only [placedB, Bool.and_eq_true, List.all_eq_true, decide_eq_true_eq, Bool.not_eq_true'] at h
  obtain ⟨⟨hp, ha⟩, h⟩ := h
  exact ⟨fun k hk => ⟨(h k hk).1, reaches_of (h k hk).2, ha⟩, fun hq => by simp [hp] at hq⟩

/-- s8:s9 holds the address 0x10000, whose page is mapped for reads and writes to 0x03000000. -/
def mem (u : List (Nat × Word)) (fl : Launch → Launch) (fs : State → State) : State :=
  demo Hints.empty (withU ([(8, 0x10000#32)] ++ u)) id fl (fun s => fs { s with
    fl := { s.fl with tlb := s.fl.tlb ++ [⟨0, 1#32, 0x10000, 16, 0x0300000E#64, false⟩] } })
/-- The same with vault 0's first 64 KiB granted. -/
def vaulted (u : List (Nat × Word)) : State := mem u (fun l => { l with grants := [⟨0, 0, 1⟩] }) id

theorem test_hyp_loads : ([(.ld 4#7 104#7 6#3 0#9, 16), (.ldc 4#7 104#7 4#3 0#9, 4), (.ldw 4#7 12#7 104#7 5#3, 8),
      (.uld 4#6 8#6 1#1, 8)].all (fun p => Ready p.1 (mem [] id id) && placedB (mem [] id id) (at' (mem [] id id))
        (at' (mem [] id id)).slots p.2 Need.load (fun _ => true) ((at' (mem [] id id)).crew.src64 104#7) (.main 0x03000000))) = true ∧
    (at' (mem [] id id)).act ≠ 0#32 ∧ witOk ((at' (mem [] id id)).crew.src64 12#7 0) = true ∧
    (Ready (.ldv 4#7 100#7 6#3) (vaulted [(4, 0xFFF0#32)]) ∧ granted (at' (vaulted [])).launch 0xFFF0 = true ∧
      granted (at' (vaulted [])).launch 0x10000 = false) := by decide +kernel

theorem test_hyp_stores : ([(.st 4#7 12#7 104#7 6#3, 16), (.st 4#7 12#7 104#7 0#3, 1)].all (fun p => Ready p.1 (mem [] id id) &&
      placedB (mem [] id id) (at' (mem [] id id)) (at' (mem [] id id)).threads p.2 Need.store notHost
        ((at' (mem [] id id)).crew.src64 104#7) (.main 0x03000000))) = true ∧
    witOk ((at' (mem [] id id)).crew.src64 ((at' (mem [] id id)).grp.hints.cField.getD 127#7) 0) = true ∧
    (Ready (.stv 4#7 12#7 100#7 6#3) (vaulted [(4, 0#32)]) ∧ granted (at' (vaulted [])).launch 0 = true) := by decide +kernel

/-- The last bytes of the scratchpad of the demo's team, 62 units; by gang position 0 for the gang's forms. -/
theorem test_hyp_scratch : (Ready (.lds 4#7 104#7 6#3) (mem [(8, 0x3DFF0#32)] id id) ∧ Ready (.sts 4#7 12#7 104#7 6#3) (mem [] id id) ∧
      0x3DFF0 < 4096 * (at' plain).team.spu ∧ ¬ 0x3E000 < 4096 * (at' plain).team.spu) ∧
    ((at' plain).team.key.pos = 0 ∧ (plain.teamOf { (at' plain).team.key with pos := 0x3DFF0 / 2 ^ 18 }).isSome = true ∧
      plain.teamOf { (at' plain).team.key with pos := 0x40000 / 2 ^ 18 } = none) ∧
    (∀ i ∈ ([.ldRs 4#7 104#7 6#3, .stRs8 4#7 104#7 12#7, .stRs16 4#7 104#7 12#7, .stRs32 4#7 104#7 12#7, .stRs64 4#7 104#7 12#7,
      .stRs128 4#7 104#7 12#7] : List Instr), Ready i (mem [(8, 0x3DFF0#32)] id id)) := by decide +kernel

/-- A deterministic launch whose crew has a reservation of 32; s10 holds 1. -/
def reserved (running : Word) : State := demo Hints.empty (fun c => { withU [(8, 0x10000#32), (10, 1#32)] c with
    resvBase := 100#32, resvCount := 32#32, running := running }) id (fun l => { l with det := true })
  (fun s => { s with fl := { s.fl with tlb := s.fl.tlb ++ [⟨0, 1#32, 0x10000, 16, 0x0300000E#64, false⟩] } })

theorem test_hyp_commands : placedB (mem [] id id) (at' (mem [] id id)) (at' (mem [] id id)).threads 8 Need.both
      (inScope (at' (mem [] id id)).scope) ((at' (mem [] id id)).crew.src64 104#7) (.main 0x03000000) = true ∧
    (∀ i ∈ ([.atomAdd 4#7 104#7 12#7 1#1, .redAdd 4#7 104#7 12#7 0#1, .atomExch64 4#7 104#7 12#7, .atomfRedD 4#7 104#7 12#7,
      .msaddBf 4#7 104#7 12#7, .cwr 4#7 104#7 12#7, .vers 4#7 104#7] : List Instr), Ready i (mem [] id id)) ∧
    (Ready (.atomAdd 4#7 104#7 106#7 0#1) (reserved 0#32) ∧ (reserved 0#32).launches.all (·.det) = true ∧
      ((at' (reserved 0#32)).threads.map (fun k => ((at' (reserved 0#32)).crew.dataOf 106#7 4 k).toNat)).sum = 32 ∧
      (at' (reserved 0#32)).crew.resvCount = 32#32 ∧ (at' (reserved 1#32)).crew.running = 1#32) ∧
    placedB (reserved 0#32) (at' (reserved 0#32)) (at' (reserved 0#32)).threads 4 Need.both (inScope (at' (reserved 0#32)).scope)
      ((at' (reserved 0#32)).crew.src64 104#7) (.main 0x03000000) = true ∧
    (((at' (mem [] id id)).crew.srcK 12#7 1 0).setWidth 128 : BitVec 128).toNat < 4096 := by decide +kernel

/-- No active thread; a misaligned address, one beyond 2^56, one in the vault window that is not granted, a page without the
right, an address that no TLB entry covers. -/
theorem test_hyp_memory_checks : (Ready (.ld 4#7 8#7 6#3 0#9) idle ∧ (at' idle).act = 0#32) ∧
    ((at' plain).threads = [] ++ 0 :: (List.range 32).tail) ∧
    (Ready (.ld 4#7 104#7 4#3 0#9) (mem [(8, 0x10002#32)] id id) ∧
      ((at' (mem [(8, 0x10002#32)] id id)).crew.src64 104#7 0).toNat % 4 ≠ 0) ∧
    2 ^ 56 ≤ ((at' (mem [(9, 0x01000000#32)] id id)).crew.src64 104#7 0).toNat ∧
    (inWindow (((at' (mem [(8, 0x80000000#32), (9, 0x00FFFFFF#32)] id id)).crew.src64 104#7 0).toNat) = true ∧
      granted (at' plain).launch 0 = false) ∧
    ((plain.tlbFind 0 1#32 0).any (fun t => !Need.load.ok t.leaf) = true) ∧ plain.tlbFind 0 1#32 0x10000 = none := by
  decide +kernel

/-- The page at 0x10000 is dual-version, of range 0. -/
def dual (ops : List MOp) : State := demo Hints.empty (withU [(8, 0x10000#32)]) id
  (fun l => { l with dvs := [⟨0x10000, 65536, false⟩] }) (fun s => { s with fl := { s.fl with
    ops := ops
    tlb := s.fl.tlb ++ [⟨0, 1#32, 0x10000, 16, 0x0300008E#64, false⟩] } })

theorem test_hyp_flip : Ready (.flip 4#7 104#7) (dual []) ∧ ((dual []).tlbFind 0 1#32 0x10000).any (fun x =>
      Need.both.ok x.leaf && leafDV x.leaf && decide ((at' (dual [])).launch.dvs[leafRange x.leaf]? = some ⟨0x10000, 65536, false⟩)) =
      true ∧
    (∀ o ∈ (dual []).fl.ops, o.performed = true) ∧
    (∃ o ∈ (dual [opOf' 1 (.flip 0 2) none none [] [reqOf (.home 0) .sent]]).fl.ops, o.kind = .flip 0 2 ∧ o.performed = false) := by
  decide +kernel

/-- A store to a scratchpad on its way, then one to memory; a bad witness in thread 0. -/
theorem test_hyp_fences : (Ready (.pfenceS 4#7) (busy [] [opOf' 1 (.scStore 4 false) none none [] [reqOf (.scratch ⟨1#32, 0, 0⟩) .sent]]) ∧
      (busy [] [opOf' 1 (.scStore 4 false) none none [] [reqOf (.scratch ⟨1#32, 0, 0⟩) .sent]]).storesOut ⟨⟨1#32, 0, 0⟩, 0⟩ = true ∧
      plain.storesOut ⟨⟨1#32, 0, 0⟩, 0⟩ = false) ∧
    (Ready (.wall 4#7) (busy [] [opOf' 1 (.store 4) none none [] [reqOf (.home 0) .sent]]) ∧
      (busy [] [opOf' 1 (.store 4) none none [] [reqOf (.home 0) .sent]]).writesOut ⟨⟨1#32, 0, 0⟩, 0⟩ 0xFFFFFFFF#32 = true ∧
      plain.writesOut ⟨⟨1#32, 0, 0⟩, 0⟩ 0xFFFFFFFF#32 = false) ∧
    (Ready (.wmerge 4#7 8#7 12#7) (crewed (withV [(9, 0x80000000#32)])) ∧
      witOk ((at' (crewed (withV [(9, 0x80000000#32)]))).crew.src64 8#7 0) = false ∧
      (∀ k ∈ (at' plain).slots, witOk ((at' plain).crew.src64 8#7 k) = true ∧ witOk ((at' plain).crew.src64 12#7 k) = true)) := by
  decide +kernel

/-- Ring 5 is the launch's; s10:s11 hold a control word and a step. -/
def ringed (ctl : Word) : State := mem [(10, ctl), (11, 7#32)] (fun l => { l with rings := 0x20#64 }) id

theorem test_hyp_rings : (Ready (.amaxPush 4#7 8#7 106#7) (ringed 5#32) ∧ (at' (ringed 5#32)).launch.rings.getLsbD 5 = true ∧
      (at' (ringed 4#32)).launch.rings.getLsbD 4 = false ∧ ((at' (ringed 5#32)).reads 8#7 1).toOption = some () ∧
      ¬ ((64#32).toNat % 256 < 64) ∧ (∀ k ∈ (at' (ringed 5#32)).threads, ((at' (ringed 5#32)).crew.num 0#2 8#7 k).isNan = false ∧
        absBits ((at' (ringed 5#32)).crew.num 0#2 8#7 k) = 0#64)) ∧
    (Ready (.amaxScale 4#7 106#7 8#7) (ringed 0x405#32) ∧ (∀ t ∈ (at' (ringed 0x405#32)).threads,
      witOk ((at' (ringed 0x405#32)).crew.src64 8#7 t) = true) ∧ (0x405#32).toNat % 256 = 5 ∧ (0x405#32).toNat / 256 = 4) ∧
    ((busy [] [opOf' 1 (.amaxPush 5 7#32 0#64 0#5) (some ⟨4#7, 2⟩) none [] []]).opOf 1).isSome = true ∧
    (ringPush [] 7#32 1#64 = [(7#32, 1#64)] ∧ (List.replicate 16 (0#32, 0#64)).length ≤ 16) := by decide +kernel

/-! #### Homes, answers, walks -/

/-- One operation of the demo's crew with one request at line 0x60000 (address 0x03000000). -/
def sent (kind : OpKind) (st : ReqSt) (data aux : BitVec 128) : State :=
  busy [] [opOf' 1 kind (some ⟨4#7, 1⟩) none [accOf 0x10000#64 data aux] [reqOf (.home 0x60000) st]]

/-- Requests that have arrived: a load, a store, an addition, and conditional writes of the present version, of one 2,047
ahead, and of an earlier one. -/
theorem test_hyp_homes : ([OpKind.load 4 false, .vers, .store 4, .atomic 0 true false, .atomf true false, .msadd true, .cwr].all
      (fun k => decide ((sent k .sent 0#128 0#128).fl.ops.length = 1) && (sent k .sent 0#128 0#128).fl.ops.all (fun o =>
        o.reqs.all (fun r => decide (r.target = .home 0x60000) && decide (r.st = .sent) &&
          !(sent k .sent 0#128 0#128).blocked o 0 r)))) = true ∧
    (plain.lineMeta 0x60000).lost = false ∧ plain.sound = true ∧ plain.holdsOf 0x60000 = [] ∧
    ((sent (.atomic 0 true false) .sent 5#128 0#128).fl.ops.all (fun o =>
      (o.compute 0 (plain.lineAt 0x60000) 0#12 0#64).isSome && decide (o.foulAcc 0 0#4 = none))) = true ∧
    ([0, 1, 2047, 2048, 4095].all (fun n => (sent .cwr .sent 0#128 (BitVec.ofNat 128 n)).fl.ops.all
      (fun o => decide ((o.expects 0 - (plain.lineMeta 0x60000).ver).toNat = n)))) = true ∧ plain.heldAt (homeOf 0x60000) < 64 := by
  decide +kernel

theorem test_hyp_atomics : (∀ op ∈ List.range 13, op ≤ 12) ∧ lineRead (0x7FFFFFFF : Line) [] 0 4 = 0x7FFFFFFF ∧
    lineRead (0x7FFFFFFF : Line) [] 120 8 = 0 := by decide +kernel

/-- Responses that may come: a performed load, one whose granule is poisoned, one refused, a scratchpad load, a store's
line, a scratchpad store, a rejected request with and without room, a remote request. -/
theorem test_hyp_responses :
    ((sent (.load 4 false) .performed 0#128 0#128).fl.ops.all (fun o => o.performed && decide (o.foulLoad = none) &&
      o.reqs.all (fun r => !r.refused))) = true ∧
    ((busy [] [opOf' 1 (.load 4 false) (some ⟨4#7, 1⟩) none [accOf 0x10000#64 0#128 0#128]
      [{ reqOf (.home 0x60000) .performed with poison := 1#4 }]]).fl.ops.all (fun o => o.performed && o.foulLoad.isSome)) = true ∧
    ((busy [] [opOf' 1 (.load 8 false) none (some ⟨4#7, 2⟩) [accOf 0x10000#64 0#128 0#128] [reqOf (.home 0x60000) .performed]]).fl.ops.all
      (fun o => decide (o.accs.map (o.loaded 8 false) = [0#128]))) = true ∧
    ((busy [] [opOf' 1 (.scLoad 4 false false) (some ⟨4#7, 1⟩) none [accOf 16#64 0#128 0#128] [reqOf (.scratch ⟨1#32, 0, 0⟩) .sent]]).fl.ops.all
      (fun o => o.reqs.all (fun r => !(busy [] [o]).blocked o 0 r) && o.accs.all (fun a => decide (a.req = 0) && !a.fin && !(at' plain).team.foul (a.va.toNat / 32))) = true) ∧
    ((at' plain).team.scBad = [] ∧ Cells.wf 0#8 (at' plain).team.scratch = true ∧ (at' plain).crew.vbad = []) ∧
    ((sent (.store 4) .rejected 0#128 0#128).entriesUsed 0 < 240) ∧
    ((busy [] [opOf' 1 (.load 4 false) (some ⟨4#7, 1⟩) none [] [reqOf (.remote 3 512) .sent]]).fl.ops.all
      (fun o => o.reqs.all (fun r => decide (r.target = .remote 3 512) && !(busy [] [o]).blocked o 0 r)) = true) := by decide +kernel

/-- 240 requests fill the unreserved miss-status entries of a core. -/
theorem test_hyp_no_room : ¬ (busy [] [opOf' 1 (.load 4 false) none none [] ((List.range 240).map (fun k => reqOf (.home k) .sent))]).entriesUsed
    0 < 240 := by decide +kernel

/-- A walk of the crew's entry for the page at 0x10000; the tables hold the given bytes. -/
def walking (bytes : List Host.Cell) (faults : List Fault72) : State := demo Hints.empty
  (fun c => { c with entries := c.entries.map (fun e => { e with hold := .walk }) }) id id (fun s => { s with
    mem := { s.mem with bytes := bytes }
    fl := { s.fl with walks := [⟨1, 1#32, 0, 1, [⟨0, 0x10000, .load, .crew ⟨⟨1#32, 0, 0⟩, 0⟩ 0 0#32, some 0⟩]⟩], faults := faults } })
/-- A table at level 0 that points to one at level 1, whose entry 0 is a leaf of 1 GiB with the right R. -/
def tables : List Host.Cell := [(0x1000000, 1#8), (0x1000002, 1#8), (0x1000003, 1#8), (0x1010000, 6#8), (0x1010003, 0x40#8)]

theorem test_hyp_walks :
    (State.walk (walking tables []) (loadLaunch 1#32 0) 0x10000).1 = .leaf 0x40000006#64 1 ∧
    (State.walk (walking [] []) (loadLaunch 1#32 0) 0x10000).1 = .invalid 0 ∧
    ((walking [] []).fl.walks.all (fun w => decide (w.misses.length = 1) && w.misses.all (fun m => (walking [] []).waits m.who &&
      decide (m.va / 65536 = w.page)))) = true ∧
    ((State.readEntries (walking tables []) 1#32 [0x1000000, 0x1010000]).2.isNone = true) ∧ (walking [] []).freeTicket = some 1 ∧
    ((walking [] [⟨1#32, 3, 0, .load, 0, 0, 0⟩]).fl.faults.find? (fun x => decide (x.ticket = 0))).isSome = true := by decide +kernel

theorem test_hyp_lines : 128 * 0x60000 < Config.mainBytes ∧ 0x60000 ∉ plain.mem.resident ∧
    ((sent (.load 4 false) .sent 0#128 0#128).wanting 0x60000).any (fun p => decide (p.2 = 0)) = true ∧ lineExists 0x60000 = true ∧
    ((mem [] id id).resolve 0 (loadLaunch 1#32 0) 0x10000#64 .load Need.load false none).toOption = some (.main 0x03000000) ∧
    (mem [] id id).writeAhead 0 (.home 0x60000) = false ∧ (mem [] id id).entriesUsed 0 < 240 := by decide +kernel

/-! #### Ordered regions, tiles, copies -/

/-- Heat 0: 4 KiB at virtual address 0x10000, integer additions, participants 0 and 1. -/
def heat0 : Heat := ⟨0x10000, 4096, 0, 0#3, 1, 0, 0, [], 0, [], false, false, 0#5⟩
def heated (h : Heat) (u : List (Nat × Word)) (ops : List MOp) : State :=
  mem u (fun l => { l with heats := [h] }) (fun s => { s with fl := { s.fl with ops := ops } })

/-- ORD.ATOM and ORD.CLOSE of participant 1 under the control word 0x100 in s4; the participant above np. -/
theorem test_hyp_heats : (Ready (.ordAtom 100#7 104#7 12#7) (heated heat0 [(4, 0x100#32)] []) ∧
      ((at' (heated heat0 [(4, 0x100#32)] [])).launch.heats[0]? = some heat0) ∧ 1 ≤ heat0.np ∧ heatSize heat0.op = 4 ∧
      ((at' (heated heat0 [(4, 0x100#32)] [])).reads 12#7 1).toOption = some () ∧
      heat0.ext ≤ ((at' (heated heat0 [] [])).crew.src64 104#7 0).toNat ∧
      (heated heat0 [] []).closing 1#32 0 1 heat0 = false ∧
      placedB (heated heat0 [] []) (at' (heated heat0 [] [])) (at' (heated heat0 [] [])).threads 4 Need.both PAddr.isMain
        ((at' (heated heat0 [] [])).crew.src64 104#7) (.main 0x03000000) = true) ∧
    (Ready (.ordClose 4#7 100#7) (heated heat0 [(4, 0x100#32)] []) ∧
      (heated heat0 [] [opOf' 1 (.ordClose 0 1 false) none none [] []]).closing 1#32 0 1 heat0 = true) ∧
    ((heated heat0 [] [opOf' 1 (.ordAtom 0) none none [accOf 0x10000#64 3#128 (BitVec.ofNat 128 (2 ^ 37))]
      [reqOf (.home 0x60000) .sent]]).heatOf 1#32 0 = some heat0) ∧
    (heat0.closed.contains ((BitVec.ofNat 128 (2 ^ 37)).toNat / 2 ^ 37) = false) ∧ heat0.closed.length + 1 ≤ heat0.np := by
  decide +kernel

/-- Tile 1 with a descriptor of 2 rows of 16 bytes at offset 128, in a state. -/
def tiled (st : TileSt) (u : List (Nat × Word)) : State := demo Hints.empty (withU u)
  (fun t => t.setTile 1 (some ⟨0x00200001#32, st, 0⟩)) id id

theorem test_hyp_tiles : ([TileSt.filling, .ready, .draining].all (fun st => Ready (.tiledef 4#6 1#6) (tiled st []) &&
      Ready (.trel 1#6) (tiled st []) && ((at' (tiled st [])).team.tile 1).any (fun y => decide (y.st = st)))) = true ∧
    (Ready (.tiledef 4#6 1#6) (tiled .empty [(4, 0x00200001#32)]) ∧
      tileLegal (4096 * (at' (tiled .empty [])).team.spu) ((at' (tiled .empty [])).team.otherTiles 1) 0x00200001#32 = true ∧
      tileLegal (4096 * (at' (tiled .empty [])).team.spu) [0x00200001#32] 0x00200001#32 = false) ∧
    ((at' plain).team.tile 1 = none) ∧
    ((tiled .draining []).teams[0]?).any (fun t => (t.tile 1).any (fun x => decide (x.st = .draining))) = true := by decide +kernel

/-- A transform of one dimension of 32 elements of one byte in slot 0 of the team; a descriptor at s8. -/
def copying (st : TileSt) (u : List (Nat × Word)) : State := demo Hints.empty (withU u)
  (fun t => { t.setTile 1 (some ⟨0x00200001#32, st, 0⟩) with xprog := [(0, [0x40000000#32 ||| 31#32 <<< 18 ||| 1#32])] }) id id

theorem test_hyp_copies : (Ready (.cpy 8#6 1#6) (copying .empty []) ∧ DescFits (at' (copying .empty [])) 8#6 0x80000000#32 true) ∧
    (Ready (.cpyCvt 8#6 1#6) (copying .empty []) ∧
      countsOk (tileRowBytes 0x00200001#32) ((at' (copying .empty [])).dfmt 8#6) ((at' (copying .empty [])).sfmt 8#6) = true) ∧
    (Ready (.cpyMc 4#6 8#6 1#6) (copying .empty [(12, 1#32)]) ∧
      (List.range 8).filter (fun i => ((at' (copying .empty [(12, 1#32)])).crew.u 12).getLsbD i) = [0]) ∧
    (Ready (.cpyOut 8#6) (copying .empty []) ∧ 0 + (1 - 1) * 0 + 4 ≤ 4096 * (at' (copying .empty [])).team.spu) ∧
    (Ready (.cpyCvtOut 8#6) (copying .empty []) ∧ Ready (.xform 8#6 1#6) (copying .empty []) ∧ Ready (.xformOut 8#6) (copying .empty [])) ∧
    (Cells.get [] (at' (copying .empty [])).team.xprog ((at' (copying .empty [])).xslot 8#6) ≠ [] ∧
      (at' (copying .empty [])).eszCode 8#6 = 0 ∧ tileBytes 0x00200001#32 = 32 ∧
      progCount [0x40000000#32 ||| 31#32 <<< 18 ||| 1#32] = 32 ∧ xorsOk [0x40000000#32 ||| 31#32 <<< 18 ||| 1#32] 0 32 = true) ∧
    (Ready (.xprog 8#6 3#6) (mem [] id id) ∧ reachesB (mem [] id id) (at' (mem [] id id)) Need.load
      ((at' (mem [] id id)).crew.u64 8) (.main 0x03000000) = true) := by decide +kernel

/-- A plain copy of the demo's crew between tile 1 and line 0x60000, in or out, whose line is done or not. -/
def copyOf' (out done : Bool) : Copy := ⟨1, ⟨⟨1#32, 0, 0⟩, 0⟩, 0, .plain, out, false, 0x10000#64, 0#32, 2, 16, 0, 16, 0#64,
  [(⟨1#32, 0, 0⟩, 1)], some 4#6, [], [], [⟨512, none, true, false, done, 0#1024, 0#4⟩], [], [], .free, 0#32⟩
def moving (cp : Copy) : State := mem [] id (fun s => { s with
  fl := { s.fl with copies := [cp] }
  teams := s.teams.map (fun t => t.setTile 1 (some ⟨0x00200001#32, .filling, 1⟩)) })

theorem test_hyp_copy_steps : ([true, false].all (fun out => decide ((moving (copyOf' out false)).copyOf 1 = some (copyOf' out false)) &&
      decide (((moving (copyOf' out false)).copyAddr (copyOf' out false) (loadLaunch 1#32 0) 0x10000).toOption = some (.main 0x03000000)) &&
      (moving (copyOf' out false)).fl.copies.all (fun x => decide (1 ≤ x.id)))) = true ∧
    ((copyOf' true false).pieces.findSome? (clip 512) = some (0, 0, 16)) ∧
    (∀ x ∈ (copyOf' false true).lines, x.done = true) ∧
    ((moving (copyOf' false true)).teamOf ⟨1#32, 0, 0⟩).any (fun t => Cells.wf 0#8 t.scratch &&
      (t.tile 1).any (fun y => decide (2 = tileRows y.desc ∧ 16 = tileRowBytes y.desc))) = true ∧
    (Ready (.seal 4#6) (moving (copyOf' true false)) ∧ (at' plain).crew.sealedOf 31 < 63 ∧
      plain.batchOpen (at' plain).crew.key ⟨31, 0#32⟩ = false) ∧
    (Ready (.waitb 4#6 0#6) (crewed (fun c => { c with sealedB := [⟨0, 0#32⟩] })) ∧
      0 < (at' (crewed (fun c => { c with sealedB := [⟨0, 0#32⟩] }))).crew.sealedOf 0 ∧ (at' plain).crew.sealedOf 0 ≤ 0) := by
  decide +kernel

/-- A fill of a line that holds 1, 2, 3, ... writes word 2 of its tile first, the rest at TILE_READY (R89). -/
theorem test_land : ((moving { copyOf' false true with
      lines := [⟨512, none, true, false, true, BitVec.ofNat 1024 0x100F0E0D0C0B0A090807060504030201, 0#4⟩] }).environment (.land 1 0 2)).teams.all
    (fun t => decide ((List.range 8).map (fun k => t.scratchAt (134 + k)) =
      [0#8, 0#8, 9#8, 10#8, 11#8, 12#8, 0#8, 0#8])) = true := by decide +kernel

/-! #### The matrix engine -/

/-- Tiles 1 and 2 of 64 rows of 64 bytes and tiles 3 and 4 of 4 rows of 64 bytes, all ready; region 3 of 64 by 64 FP32 cells. -/
def matrix (u : List (Nat × Word)) (h : Hints) (cmds : List Cmd) : State := demo h (withU u)
  (fun t => { (((t.setTile 1 (some ⟨0x07E01800#32, .ready, 0⟩)).setTile 2 (some ⟨0x07E01820#32, .ready, 0⟩)).setTile 3
      (some ⟨0x00601840#32, .ready, 0⟩)).setTile 4 (some ⟨0x00601842#32, .ready, 0⟩) with
    regions := Cells.set none t.regions 3 (some 0x1F860000#32) }) id (fun s => { s with fl := { s.fl with cmds := cmds } })
/-- A command of the demo's crew on the region, started or not. -/
def cmdOf' (started : Bool) (left : List (Nat × Word × Word × Byte)) : Cmd := ⟨1, ⟨⟨1#32, 0, 0⟩, 0⟩, 0, 5#6, 3, 0x1F860000#32, 64, 64, 8#4,
  false, 1, 2, 0, 0, (List.range 64).map some, 0#16, 0#3, [], [], started, left, 0#32⟩

theorem test_hyp_mma : Ready (.mma 0#2 4#6 1#5 2#5 3#4 8#4) (matrix [] Hints.empty []) ∧
    (tileRows 0x07E01800#32 = 64 ∧ tileRowBytes 0x07E01800#32 = 64 ∧ matRowBytes 8 false ≤ 64 ∧ matRowBytes 8 true ≤ 64 ∧
      regRows 0x1F860000#32 = 64 ∧ regCols 0x1F860000#32 = 64) ∧
    ((at' (matrix [] Hints.empty [])).team.region 3 = some 0x1F860000#32 ∧
      ((at' (matrix [] Hints.empty [])).team.tile 1).any (fun x => decide (x.st = .ready)) = true) ∧
    (Ready (.mmas 0#2 4#6 1#5 2#5 3#4 3#4) (matrix [] { Hints.empty with c := some (BitVec.ofNat 22 (3 * 32 + 4)), count := 1 } []) ∧
      scaleLayoutOk 0x00601840#32 64 = true ∧ matRowBytes 3 false ≤ 64 ∧ matRowBytes 3 true ≤ 64) := by decide +kernel

theorem test_hyp_mma_rows : (Ready (.mmaG 0#2 4#6 1#5 2#5 3#4 3#3) (matrix [] { Hints.empty with c := some 16#22, count := 1 } []) ∧
      ((at' (matrix [] Hints.empty [])).readsRun 16 1).toOption = some () ∧ 16 % (64 / 64) = 0) ∧
    (Ready (.mmaCv 0#2 4#6 1#5 2#5 3#4 3#3) (matrix [] { Hints.empty with c := some 104#22, count := 1 } []) ∧
      (let v := Conv.of 0#32 0#32 0#32 0#32; v.nimg * v.h * v.w ≤ 64)) ∧
    ((matrix [] Hints.empty [cmdOf' false []]).mayStart (cmdOf' false []) = true ∧
      (at' (matrix [] Hints.empty [cmdOf' false []])).team.scBad = []) ∧
    ((cmdOf' true [(7, 1#32, 0#32, 0#8)]).left.find? (fun y => decide (y.1 = 7)) = some (7, 1#32, 0#32, 0#8)) ∧
    (Ready (.mwait 4#6 5#6) (matrix [] Hints.empty [cmdOf' true []]) ∧ (matrix [] Hints.empty [cmdOf' true []]).fl.cmds.find?
      (fun x => decide (x.crew = (at' plain).crew.key) && decide (x.ident = 5#6)) = some (cmdOf' true [])) := by decide +kernel

/-- A region at the end of the allocation of 65,536 slots, and one beyond it; control words of ACCRD and ACCWR in s4. -/
theorem test_hyp_accumulators :
    (Ready (.accdef 4#6 3#4) (uni [(4, 0x1F8607FF#32)]) ∧ (0x1F8607FF#32).toNat / 2 ^ 11 % 64 = 0 ∧
      regBase 0x1F86077F#32 + regTotal 0x1F86077F#32 ≤ 4096 * (at' plain).team.accu ∧
      ¬ regBase 0x1F8607FF#32 + regTotal 0x1F8607FF#32 ≤ 4096 * (at' plain).team.accu) ∧
    ((matrix [] Hints.empty [cmdOf' false []]).accNamed ⟨1#32, 0, 0⟩ 3 = true ∧ plain.accNamed ⟨1#32, 0, 0⟩ 3 = false) ∧
    (Ready (.accz 3#4) (matrix [] Hints.empty []) ∧ (matrix [] Hints.empty [cmdOf' false []]).accBusy ⟨1#32, 0, 0⟩ 100
      (regionSlots 0x1F860000#32) = true ∧ (matrix [] Hints.empty []).accBusy ⟨1#32, 0, 0⟩ 1 (regionSlots 0x1F860000#32) = false) ∧
    (∀ i ∈ ([.accrd 8#7 100#7 3#2 3#4, .accrdSt 8#7 100#7 3#2 3#4, .accwr 8#7 100#7 3#2 3#4] : List Instr),
      Ready i (matrix [(4, 0x00010038#32)] Hints.empty [])) ∧ 0x38 + 8 ≤ regRows 0x1F860000#32 ∧ 32 * 1 < regCols 0x1F860000#32 ∧
    (Ready (.accdrain 4#6 8#6 3#4 0#2) (matrix [(8, 0x10000#32), (10, 256#32)] Hints.empty []) ∧ drainBytes 0#2 = 4 ∧
      regCols 0x1F860000#32 * 4 ≤ (256#32).toInt.natAbs ∧ Ready (.accsave 4#6 8#6 3#4) (matrix [] Hints.empty []) ∧
      Ready (.accload 4#6 8#6 3#4) (matrix [] Hints.empty []) ∧ witOk ((at' (matrix [] Hints.empty [])).crew.u64 4) = true) := by
  decide +kernel

/-! #### Queues, launches, gangs -/

/-- Queue 9 of launch 1, 16 entries at 0x03000000, with the given tail and next. -/
def queue9 (tail next : Word) : Queue := ⟨9, 1#32, 4, 3, 0#4, true, true, none, 0x03000000, 1, 8, tail, 0#32, next, [], [], none⟩
def queued (q : Queue) (u : List (Nat × Word)) (leases : List Lease) : State := demo Hints.empty (withU u)
  (fun t => { t with leases := leases }) id (fun s => { s with queues := s.queues ++ [q] })

/-- A POP that waits, an entry to give, a full queue, a leased entry, control words at their edges. -/
theorem test_hyp_queues :
    (Ready (.pop 8#6 20#6) (queued (queue9 1#32 0#32) [(20, 9#32)] []) ∧ (queued (queue9 1#32 0#32) [] []).declared 1#32 9 =
      some (queue9 1#32 0#32) ∧ plain.declared 1#32 511 = none) ∧
    ((queued (queue9 1#32 0#32) [] []).chosen (loadLaunch 1#32 0) (at' plain).team ⟨⟨1#32, 0, 0⟩, 0⟩ 9#32 = some (queue9 1#32 0#32, 0#32) ∧
      (queued (queue9 0#32 0#32) [] []).chosen (loadLaunch 1#32 0) (at' plain).team ⟨⟨1#32, 0, 0⟩, 0⟩ 512#32 = none) ∧
    (Ready (.push 8#6 20#6) (queued (queue9 16#32 0#32) [(28, 9#32)] []) ∧ (queue9 16#32 0#32).full = true ∧
      (queue9 15#32 0#32).full = false ∧ SlotClean (queued (queue9 15#32 0#32) [] []) ((queue9 15#32 0#32).at 15#32)) ∧
    (Ready (.fin 8#6) (queued (queue9 1#32 1#32) [(9, 0x80000009#32)] [⟨9, 0#32⟩]) ∧
      (⟨9, 0#32⟩ : Lease) ∈ (at' (queued (queue9 1#32 1#32) [] [⟨9, 0#32⟩])).team.leases) ∧
    (Ready (.qstat 8#6 20#6) (queued (queue9 1#32 0#32) [(20, 9#32)] []) ∧ [0#6, 1#6, 2#6, 3#6].all (fun b =>
      Ready (.qctl 20#6 b) (queued (queue9 1#32 0#32) [(20, 9#32), (21, 7#32)] [])) = true) := by decide +kernel

/-- A crew that waits in POP for queue 9; a governed pair of queues with a team between; a held notice. -/
theorem test_hyp_dispatch : (let s := queued (queue9 1#32 0#32) [] []
      let c := { (at' plain).crew with pop := some ⟨1, 8#6, 9#32, 1, 0, 0#32, 0xFFFFFFFF#32, 0#32, false⟩ }
      (s.popReady c).isSome = true ∧ ({ s with crews := [c] } : State).popAhead ⟨1, 8#6, 9#32, 1, 0, 0#32, 0xFFFFFFFF#32, 0#32, false⟩ (at' plain).team ⟨⟨1#32, 0, 0⟩, 0⟩ = false) ∧
    (let l : Launch := { loadLaunch 1#32 0 with gov := true, types := [{ loadType with rmask := 3#16 }] }
      let t : Team := { (at' plain).team with role := 1#4 }
      let s : State := { plain with teams := [t] }
      s.movable l 0#4 1#4 = some t ∧ s.governable (queue9 9#32 0#32) = true ∧ 8 < (queue9 9#32 0#32).occupancy ∧
        (queue9 0#32 0#32).occupancy < 1) ∧
    ((⟨5, List.replicate 32 0#8⟩ : Nat × List Byte).2.length = 32) := by decide +kernel

/-- A launch record at 0x02000000: one team type, one team on logical core 0, queue 8 of 16 entries at 0x03000000. -/
def record (retry : Byte) : List Host.Cell :=
  [(0x02000013, 1#8)] ++ (if retry = 0#8 then [] else [(0x02000028, retry)]) ++ [(0x0200002A, 1#8), (0x0200002B, 1#8), (0x02000038, 8#8), (0x0200003A, 1#8), (0x02000061, 1#8),
    (0x02000065, 2#8), (0x02000068, 0x20#8), (0x02000069, 2#8), (0x02000105, 1#8), (0x02000106, 1#8), (0x0200010A, 1#8)] ++
  (List.range 192).map (fun k => (0x02000140 + k, 0xFF#8)) ++
  [(0x02000220, 8#8), (0x02000222, 4#8), (0x0200022B, 3#8), (0x02000234, 16#8)]
/-- A request for it at the head of queue 7. -/
def requested (kind : Byte) (rec : List Host.Cell) : State := { State.reset with
  mem := { Mem.reset with bytes := rec ++ [(0x00BFFFFF0000, kind), (0x00BFFFFF000B, 2#8)] }
  queues := [{ Queue.seven with tail := 1#32 }] }

theorem test_hyp_requests : (requested 8#8 (record 0#8)).sound = true ∧
    (requested 8#8 (record 0#8)).numAt (Queue.seven.at 0#32 + 8) 8 = 0x02000000 ∧
    ((requested 8#8 (record 0#8)).headerOk 0x02000000 = true ∧ (requested 8#8 (record 0#8)).tablesOk 0x02000000 = true) ∧
    (requested 8#8 []).headerOk 0x02000000 = false ∧ readByte (requested 7#8 []).mem.bytes 0x00BFFFFF0000 = 7#8 := by decide +kernel

theorem test_hyp_launch : ((requested 8#8 (record 0#8)).reasons 0x02000000 false).2 = [] ∧
    ((requested 8#8 (record 0#8)).placement ((requested 8#8 (record 0#8)).launchAt 0x02000000) = some [(0, 0)]) ∧
    (State.mapHeats (requested 8#8 []) (loadLaunch 1#32 0) []).2 = some [] ∧
    ({ (requested 8#8 (record 0#8)).launchAt 0x02000000 with places := [⟨0, 0, 0, 0⟩, ⟨0, 0, 0, 1⟩] }.lcores = [0]) := by decide +kernel

/-- A launch is over when its gang has ended; its completion queue has room. -/
theorem test_hyp_launch_end : (let s : State := { queued { queue9 0#32 0#32 with num := 8 } [] [] with
      gangs := [{ Gang.start 1#32 0 with st := .ended }] }
    s.launchOver (loadLaunch 1#32 0) = true ∧ s.noticeDue 1#32 = false ∧ (s.queueOf 8).any (fun q => !q.full) = true) := by
  decide +kernel

/-- What the control core finds: a killed gang with a relaunch left and without, one to be relaunched, one to be saved, one
to be restored, a save too late. -/
theorem test_hyp_gangs : (let g : Gang := { Gang.start 1#32 0 with again := true, kill := some (KillInfo.device 9) }
      g.fate { loadLaunch 1#32 0 with retry := 1 } = 1 ∧ g.fate (loadLaunch 1#32 0) = 2 ∧ { g with again := false }.fate (loadLaunch 1#32 0) = 0) ∧
    (let g : Gang := { Gang.start 1#32 0 with st := .relaunchPending, count := 1 }
      let s : State := { plain with gangs := [g], teams := [], crews := [] }
      (s.replace (loadLaunch 1#32 0) 0 0).isSome = true ∧ allPairs gangPair (loadLaunch 1#32 0).places = true) ∧
    (plain.slicedGang (Gang.start 1#32 0) = false ∧ plain.quiet (fun k => k.within 1#32 0) = true ∧
      plain.preemptLate (Gang.start 1#32 0) true = none ∧ plain.preemptLate (Gang.start 1#32 0) false = some 2 ∧
      (∀ x ∈ plain.teams, x.accBad = [] ∧ x.scBad = []) ∧ ∀ x ∈ plain.crews, x.vbad = []) ∧
    ((plain.coresOf 0).length = 8 ∧ (plain.teamsOf 1#32 0).length = 1 ∧ (plain.teams.map (·.key)).Nodup ∧ (plain.crews.map (·.key)).Nodup) := by
  decide +kernel

/-- A second launch sliced out of the cluster, whose crew has not begun, while the first crew waits in POP for nothing. -/
theorem test_hyp_slices : (let s : State := { others [] with
      teams := plain.teams ++ plain.teams.map (fun t => { t with key := ⟨7#32, 0, 0⟩, st := .sliced })
      crews := plain.crews.map (fun c => { c with
        group := none
        pop := some ⟨1, 8#6, 9#32, 1, 0, 0#32, 0#32, 0#32, false⟩
        entries := c.entries.map (fun e => { e with popWait := some 1 }) }) ++
        plain.crews.map (fun c => { c with key := ⟨⟨7#32, 0, 0⟩, 0⟩, started := false, group := none }) }
    (s.teamsIn 0 .sliced).length = 1 ∧ (s.teamsIn 0 .running).length = 1 ∧ s.coresOf 0 ≠ [] ∧ (s.held 0).length = 2 ∧
      (s.crews[0]?).any (fun c => c.inPop && !s.servable c) = true ∧ s.quiet (fun k => decide (k.launch = 1#32)) = true) := by decide +kernel

/-! #### Outside, encodings, the step -/

/-- The device is up with its ports on and its key 0; a CWR of another device with the present version and a later one. -/
theorem test_hyp_outside : ({ State.reset with dev := { Device.reset with portsOn := true } } : State).dev.ready = true ∧
    farSound (.write [(0, 1#8), (127, 2#8)] 8#4) = true ∧ farSound (.write [(128, 1#8)] 0#4) = false ∧
    later 1#12 0#12 = true ∧ later 2047#12 0#12 = true ∧ later 0#12 0#12 = false ∧
    (paExists 0xBFFFFFFFFF = true ∧ paExists 0xC000000000 = false) ∧
    ((busy [] [opOf' 1 (.load 4 false) none none [] [reqOf (.remote 3 512) .sent]]).fl.ops.all (fun o => o.awaits 3)) = true ∧
    (Cells.get Port.off State.reset.dev.ports 35).trained = false ∧ State.reset.launches = [] ∧
    ({ State.reset with dev := { Device.reset with power := false } } : State).dev.power = false ∧ State.reset.dev.level 31 = 0 := by
  decide +kernel

/-- The IADD v3, v1, s4 of spec/09 as the first instruction after reset runs and moves the pc on. -/
theorem test_step_runs : (match step (State.reset.withFetchWord 32 0x20181C80) with
    | .next t => (t.crews[0]?).any (fun c => decide (c.pcOf 31 = some 4#32) && c.group.isNone)
    | _ => false) = true := by decide +kernel

theorem test_step_hypotheses : (let s := State.reset.withFetchWord 32 0x20181C80
      s.agenda = [.issue 0 0] ∧ s.mayIssue 0 = true ∧ (s.crews[0]?).any (fun c => decide (c.looseEntries.length = 1) &&
        decide (c.overAged = none) && decide (c.group = none)) = true ∧ s.sound = true) ∧
    (decodeTableWord 32 0x20181C80).isSome = true ∧ encode (.iadd 3#7 1#7 100#7) = some 0x20181C80#32 ∧
    (Instr.iadd 3#7 1#7 100#7).wellFormed = true ∧ firstDue State.reset State.reset.due = none ∧
    ({ plain with turn := 0 } : State).nextCrew 0 = some 0 := by decide +kernel

/-- The FMUL v10, v1, v2 and FADD v11, v10, v3 of spec/09, at addresses 0 and 4. -/
def sequence : State := let s := State.reset.load (leBytes 4 0x60501048 ++ leBytes 4 0x6058A060)
  { s with launches := s.launches.map (fun l => { l with codelen := 8 }) }

/-- The two are fused: one step issues both (R216, R217); FMUL alone begins a sequence, IADD and SEL do not fuse. -/
theorem test_step_fuses : (match step sequence with
    | .next t => (t.crews[0]?).any (fun c => decide (c.pcOf 31 = some 8#32))
    | _ => false) = true ∧ fuses (.fmul 10#7 1#7 2#7 0#2) (.fadd 11#7 10#7 3#7 0#2) = true ∧
    fuses (.fmul 10#7 1#7 2#7 0#2) (.fadd 11#7 10#7 3#7 1#2) = false ∧
    fuses (.iadd 3#7 1#7 2#7) (.sel 4#7 3#7 5#7 1#3) = false := by decide +kernel

/-- Two entries that may go on, at the NOP of address 0 and at address 8, past the code. -/
def twoEntries : State := { halves with
  agenda := [.issue 0 0]
  crews := halves.crews.map (fun c => { c with group := none }) }

/-- One goes on and the other ages (R318). -/
theorem test_step_ages : (match step twoEntries with
    | .next t => (t.crews[0]?).any (fun c => c.entries.any (fun e => decide (e.age = 1)))
    | _ => false) = true := by decide +kernel

/-! #### More clauses, one theorem for the statements of each part -/

/-- CREW.MASK, the matches, PACK and UNPACK in a protected launch, where both members form the same mask. -/
theorem test_hyp_protected : (∀ i ∈ ([.crewMask 4#7 0#1 1#3, .matchB 4#7 8#7, .matchB64 4#7 8#7, .matchF 4#7 8#7 0#2,
      .pack 4#7 8#7 1#2, .unpack 4#7 8#7 1#2] : List Instr), Ready i prot) ∧
    MembersAgree (at' prot) (fun t => maskOf (((at' prot).threads.filter (fun u =>
      decide ((at' prot).crew.src 8#7 ((at' prot).peer t u) = (at' prot).crew.src 8#7 t))).map (at' prot).threadOf)) := by
  decide +kernel

/-- Finite operands: 1.5 and -0.5, whose sum is not 0; 1.5 rounds between 1 and 2; infinities, a NaN and -0 as FRND reads
them. -/
theorem test_hyp_float_finite : fp32.read 0x3FC00000 = .fin false (3 * 2 ^ 22) (-23) ∧
    fp32.read 0xBF000000 = .fin true (2 ^ 23) (-24) ∧ (3 * 2 ^ 22 * 2 ^ 1 - 2 ^ 23 * 2 ^ 0 : Int) ≠ 0 ∧
    (3 * 2 ^ 22 / 2 ^ 23 = 1 ∧ 3 * 2 ^ 22 % 2 ^ 23 ≠ 0) ∧ fp32.read 0xFF800000 = .inf true ∧
    fp32.read 0x7FA00000 = .nan true ∧ fp32.read 0x80000000 = .fin true 0 (-149) := by decide +kernel

/-- Control words of QUANT and DEQ with a code that is not allowed, and code 9 under RUP. -/
theorem test_hyp_bad_codes : ∀ n ∈ [0, 1, 10, 255], Ready (.quant 4#7 8#7 100#7) (uni [(4, BitVec.ofNat 32 (256 * n))]) ∧
    (at' (uni [(4, BitVec.ofNat 32 (256 * n))])).threads = 0 :: (List.range 32).tail ∧
    ¬ (2 ≤ quantCode ((at' (uni [(4, BitVec.ofNat 32 (256 * n))])).crew.src 100#7 0) ∧
      quantCode ((at' (uni [(4, BitVec.ofNat 32 (256 * n))])).crew.src 100#7 0) ≤ 9) ∧
    (at' (crewed (fun c => { c with rm := 2#3 }))).rm ≠ 0#3 := by decide +kernel

/-! The roundings and results of the statements about numbers. -/

/-- In FP4: 9/4 between 2 and 3, a tiny quarter between 0 and 1/2, and 7 between 6, the largest, and 8 (R155, R156). -/
theorem test_hyp_rounding : (e2m1.point 4 (-2) = 8 ∧ e2m1.point 5 (-2) = 12 ∧ roundsAway 0#3 false 0#32 false 8 9 12 = false ∧
      roundsAway 2#3 false 0#32 false 8 9 12 = true ∧ roundsAway 3#3 false 0#32 false 8 9 12 = false) ∧
    (e2m1.point 0 (-3) = 0 ∧ e2m1.point 1 (-3) = 4 ∧ (2 : Nat) < 2 ^ (e2m1.emin - -3).toNat ∧
      roundsAway 0#3 true 0#32 false 0 2 4 = false) ∧
    (e2m1.maxCode = 7 ∧ e2m1.point 7 (-2) = 24 ∧ e2m1.point 8 (-2) = 32 ∧ roundsAway 0#3 false 0#32 true 24 28 32 = true) ∧
    2 ^ (e2m1.mb + 2) ≤ 8 := by decide +kernel

/-- 3 and -1/2 are counted in units of 1/4; eight zeros, a NaN and an infinity in units of 2^-149. -/
theorem test_hyp_units : UnitsFor (-2) [.fin false 3 0, .fin true 1 (-1)] ∧ (.fin true 1 (-1) : Machine.Num).Below (.fin false 3 0) (-2) ∧
    (.inf true : Machine.Num).Below (.fin false 3 0) (-2) ∧ ¬ (.fin false 3 0 : Machine.Num).Below (.inf true) (-2) ∧
    UnitsFor (-149) (List.replicate 8 (.fin false 0 (-149))) ∧ UnitsFor (-149) [.nan true, .inf true] := by
  refine ⟨?_, by decide, by decide, by decide, ?_, ?_⟩ <;> intro s m e h hm <;> simp at h <;> omega

/-- To two's complement bytes: 5/2 between 2 and 3, and 300, above the largest; the source 0x80 of I8 and of Z8. -/
theorem test_hyp_integers : (5 / 2 ^ (1 : Int).toNat = 2 ∧ (2 : Nat) * 2 ^ (1 : Int).toNat ≠ 5 ∧ 8 * 2 ^ ((0#4).toNat % 4) = 8 ∧
      (-2 : Int) ^ 7 ≤ 2 ∧ (2 : Int) ^ 7 - 1 < 300) ∧ (BitVec.ofNat 8 0x80).toInt = -128 ∧ (BitVec.ofNat 8 0x80).toNat = 128 := by
  decide +kernel

/-- Operands of the results given outright: special values, 2, 1/2, -2, 3, and 4 of FP32. -/
theorem test_hyp_outright : fp32.read 0x7FC00000 = .nan false ∧ fp32.read 0xFF800000 = .inf true ∧ fp32.read 0 = .fin false 0 (-149) ∧
    fp32.read 0xC0000000 = .fin true (2 ^ 23) (-22) ∧ SameNumber (2 ^ 23) (-22) 2 0 ∧ 2 ^ (22 : Nat) < 2 ^ 23 * 2 ^ 0 ∧
    SameNumber (2 ^ 23) (-24) (2 * 0 + 1) (-1) ∧ SameNumber (3 * 2 ^ 22) (-22) (2 * 1 + 1) 0 ∧ SameNumber (2 ^ 23) (-22) 1 1 ∧
    SameNumber (2 ^ 23) (-21) 1 (2 * 1) ∧ SameNumber (2 ^ 23) (-20) 1 (3 * 1) ∧ fp32.emin - fp32.mb ≤ 2 ∧ (2 : Int) ≤ fp32.bias := by
  decide +kernel

theorem two_pow_mod_three (b : Nat) : 2 ^ b % 3 ≠ 0 := by
  induction b with
  | zero => decide
  | succ b h => rw [Nat.pow_succ]; omega

/-- 3 is no power of two, 1/2 is no integer. -/
theorem test_hyp_algebraic : (∀ i, ¬ SameNumber (3 * 2 ^ 22) (-22) 1 i) ∧ ∀ i, ¬ SameNumber (2 ^ 23) (-24) i 0 := by
  refine ⟨fun i h => two_pow_mod_three (i - -22).toNat ?_, fun i h => ?_⟩
  · rw [← Nat.one_mul (2 ^ (i - -22).toNat), ← h, Nat.mul_assoc, Nat.mul_mod_right]
  · simp [SameNumber] at h; omega

/-- A lane of FDOT2.h with a NaN, with 0 times infinity and with opposed infinities, and one of zeros; sums whose addends are
held and one whose smaller addend lies too far below. -/
theorem test_hyp_sums : (fp16.read 0x7E00).isNan = true ∧ zeroTimesInf (fp16.read 0) (fp16.read 0x7C00) = true ∧
    (∀ q, Machine.Num.inf q ∈ [product (fp16.read 0x7C00) (fp16.read 0x3C00), product (fp16.read 0xFC00) (fp16.read 0x3C00)]) ∧
    (product (fp16.read 0) (fp16.read 0)).isInf = false ∧ Held [.fin false 1 0, .fin false 1 120] 0 ∧
    ¬ Held [.fin false 1 0, .fin false 1 121] 0 := by
  refine ⟨by decide, by decide, fun q => by cases q <;> decide +kernel, by decide, by decide +kernel, by decide +kernel⟩

/-- The rotation of a cluster stands at its first core. -/
theorem test_hyp_rotation : Cells.get 0 (parked [park .queued]).dev.rslv 0 = 0 ∧ (0 : Nat) % 8 = (0 + 0) % 8 ∧
    Cells.get 0 State.reset.dev.rslv 31 = 0 := by decide +kernel

/-- Eight links, none; a thread named in an open SYNC.C, a crew named in an open BAR.T, and parked lanes. -/
theorem test_hyp_control_stops :
    (Ready (.call 3#5 0#20) (linked 8) ∧ 0 ∈ (at' (linked 8)).threads ∧ 8 ≤ ((at' (linked 8)).crew.links? 0).length) ∧
    (Ready .ret plain ∧ 0 ∈ (at' plain).threads ∧ (at' plain).crew.links? 0 = []) ∧
    (Ready .exit (crewed (fun c => { c with smask := 3#32 })) ∧ (at' (crewed (fun c => { c with smask := 3#32 }))).crew.smask.getLsbD 0 = true) ∧
    (let s := demo Hints.empty id (fun t => { t with bmask := 1#32 }) id id;
      Ready .exit s ∧ (at' s).crew.live &&& ~~~(at' s).act = 0#32 ∧ (at' s).team.bmask.getLsbD (at' s).crew.key.crew = true) ∧
    (Ready .exit (parked [park .queued]) ∧ (parked [park .queued]).mayPark (at' (parked [park .queued])).crew.key = true) := by
  decide +kernel

/-- SYNC.C of a mask without thread 0, of threads that have arrived and that have ended; BAR.T of masks that are empty, beyond
W, of a crew that does not exist, other than the open one, without the own bit, a second arrival and an ended crew; GBAR and
BAR.T behind a store. -/
theorem test_hyp_barrier_traps :
    ([0#32, 0xFFFFFFFE#32].all (fun m => Ready (.syncC 4#6) (uni [(4, m)]) && decide ((at' (uni [(4, m)])).crew.u 4 = m))) = true ∧
    (Ready (.syncC 4#6) prot ∧ 2 ^ (at' prot).W ≤ (0x10000#32).toNat) ∧
    (at' (crewed (fun c => { c with sarr := 1#32, smask := 3#32 }))).crew.sarr.getLsbD 0 = true ∧
    ([0#32, 3#32, 2#32].all (fun m => Ready (.barT 4#6) (uni [(4, m)]) &&
      decide ((at' (uni [(4, m)])).ent.mask = (at' (uni [(4, m)])).crew.live))) = true ∧
    ((3#32).getLsbD 1 = true ∧ ∀ x ∈ plain.crewsOf (at' plain).team.key, x.key.crew ≠ 1) ∧ (2#32).getLsbD 0 = false ∧
    (let s := demo Hints.empty (withU [(4, 1#32)]) (fun t => { t with bmask := 3#32, barr := 1#32 }) id id;
      Ready (.barT 4#6) s ∧ (at' s).team.bmask ≠ 0#32 ∧ 1#32 ≠ (at' s).team.bmask ∧ (at' s).team.barr.getLsbD 0 = true) ∧
    (let s := demo Hints.empty (withU [(4, 3#32)]) id id (fun s => { s with crews := s.crews ++ s.crews.map (fun c =>
        { c with key := ⟨c.key.team, 1⟩, entries := [] }) });
      Ready (.barT 4#6) s ∧ ∃ x ∈ s.crewsOf (at' s).team.key, x.entries = [] ∧ (3#32).getLsbD x.key.crew = true) ∧
    (let s := busy [(4, 1#32)] [opOf' 1 (.store 4) none none [] [reqOf (.home 0) .sent]];
      Ready (.barT 4#6) s ∧ Ready .gbar s ∧ (s.teamsOf 1#32 0).length = 1 ∧
        s.outstanding (at' s).crew.key 0xFFFFFFFF#32 s.serial false = true) := by decide +kernel

/-- A RVWAIT on a point that is not initialised; quotas of a partner that is the crew itself, missing or ended, of one that
waits for something else, and of one whose granules do not allow the move; registers inside the quota. -/
theorem test_hyp_quota_traps : (Ready (.rvwait 4#6 5#6) plain ∧ ((at' plain).team.point 5).init = false) ∧
    (Ready (.quotaGive 0#6 1#6) (pair none none) ∧ (at' (pair none none)).crew.key.crew = 0) ∧
    (Ready (.quotaGive 1#6 1#6) plain ∧ ∀ x ∈ plain.crews, x.key ≠ ⟨(at' plain).team.key, 1⟩) ∧
    (let s := demo Hints.empty id id id (fun s => { s with crews := s.crews ++ s.crews.map (fun c =>
        { c with key := ⟨c.key.team, 1⟩, entries := [] }) });
      Ready (.quotaGive 1#6 1#6) s ∧ (s.crewOf ⟨(at' s).team.key, 1⟩).any (fun x => x.entries.isEmpty) = true) ∧
    (let s := pair none (some ⟨true, 0, 5, 0, 0#32⟩);
      Ready (.quotaGive 1#6 5#6) s ∧ Ready (.quotaTake 1#6 4#6) s ∧ (s.crewOf ⟨⟨1#32, 0, 0⟩, 1⟩).any (fun x =>
        decide (x.quotaW = some ⟨true, 0, 5, 0, 0#32⟩)) = true) ∧
    (let s := pair none (some ⟨false, 0, 6, 0, 0#32⟩);
      Ready (.quotaGive 1#6 6#6) s ∧ (at' s).crew.quota < 6 + 1 ∧ (s.crewIx ⟨⟨1#32, 0, 0⟩, 1⟩).isSome = true) ∧
    plain.regsFit ∧ 8 * (at' plain).crew.quota ≤ 96 := by decide +kernel

/-- Two entries both of which may go on: one in a YIELD, and both. -/
theorem test_hyp_yields : ∀ y ∈ [[0, 5], [5, 5]], (let s : State := { twoEntries with crews := twoEntries.crews.map (fun c =>
      { c with entries := (c.entries.zip y).map (fun e => { e.1 with yield := e.2 }) }) }
    (s.crews[0]?).any (fun c => decide (2 ≤ c.looseEntries.length) &&
      decide (((s.survey 0 c.looseEntries).2.map (·.yield)) = y) && (s.survey 0 c.looseEntries).1.crews[0]?.isSome) = true) := by
  decide +kernel

/-- An AMAX.PUSH in flight may still raise a flag; WRSR of EVEC without privilege. -/
theorem test_hyp_flags : (let s := busy [] [opOf' 1 (.amaxPush 5 7#32 0#64 0#5) (some ⟨4#7, 2⟩) none [] []]
      Ready (.rdsr 4#6 17#6 0#3) s ∧ Ready (.wrsr 4#6 17#6 0#3) s ∧ s.mayFlag (at' s).crew.key = true) ∧
    (Ready (.wrsr 4#6 32#6 0#3) (user []) ∧ (at' (user [])).crew.u 4 = 0#32 ∧ (at' (user [])).launch.priv = false) := by
  decide +kernel

/-- An invalidation of everything of launch 1 while a request and a copy line are on their way, and a TLB entry covers both
an L1 line and an L2-held line. -/
theorem test_hyp_tlbinv_waits : (let s := busy [] [opOf' 3 (.store 4) none none [] [reqOf (.home 512) .sent]]
      (∀ o ∈ s.fl.ops, o.crew.team.launch = 1#32 ∧ ∀ r ∈ o.reqs, r.st ≠ .performed ∧ r.st ≠ .delivered ∧
        r.target.memory = true ∧ 0 < 128 * r.vline + 128 ∧ 128 * r.vline < 0 + 2 ^ 32)) ∧
    (∀ x ∈ (copyOf' false false).lines, x.done = false ∧ 128 * x.vline < 2 ^ 32) ∧
    ((mem [] id id).fl.tlb.any (fun e => decide (leafAddr e.leaf e.lg 0x10000 e.sel = .main 0x03000000) && decide (16 ≤ e.lg))) = true ∧
    (leafAddr 0x000C00000300004E#64 16 0x10000 false).isRemote = true := by decide +kernel

/-- A deterministic launch with no active thread. -/
theorem test_hyp_no_thread : (let s := demo { Hints.empty with g := some 1#4, count := 1 } id id (fun l => { l with det := true }) id
    ∀ i ∈ ([.atomMin 4#7 8#7 12#7 0#1, .atomMax 4#7 8#7 12#7 1#1, .atomAnd 4#7 8#7 12#7, .atomOr 4#7 8#7 12#7,
      .atomXor 4#7 8#7 12#7, .atomExch32 4#7 8#7 12#7, .atomExch64 4#7 8#7 12#7, .atomfAddS 4#7 8#7 12#7,
      .atomfRedD 4#7 8#7 12#7] : List Instr), Ready i s ∧ (at' s).act = 0#32) := by decide +kernel

/-- A VERS on its way for PFENCE.C; a WALL of a thread that has no part in the line on its way; a bad witness in the second
member of thread 0. -/
theorem test_hyp_waits : (let s := busy [] [opOf' 1 .vers (some ⟨4#7, 1⟩) none [] [reqOf (.home 0) .sent]];
      Ready .pfenceC s ∧ ∃ o ∈ s.fl.ops, o.crew = (at' s).crew.key ∧ o.kind = .vers ∧ o.unperformed = true) ∧
    (let s := busy [] [opOf' 1 (.store 4) none none [accOf 0x10000#64 0#128 0#128] [reqOf (.home 0) .sent]];
      Ready (.wall 4#7) s ∧ ∃ o ∈ s.fl.ops, o.kind.writes = true ∧ (∃ a ∈ o.accs, (at' s).act.getLsbD a.slot = true ∧ a.fin = false ∧
        (o.reqs[a.req]?).any (fun r => !r.performed) = true) ∧ o.openFor 2#32 = false) ∧
    (let s := demo Hints.empty (fun c => { c with entries := c.entries.map (fun e => { e with mask := 0xFFFF#32 }), vregs := Cells.set 0#32 c.vregs (32 * 9 + 16) 0x80000000#32 }) id
        (fun l => { l with prot := true }) id;
      Ready (.wmerge 4#7 8#7 12#7) s ∧ witOk ((at' s).crew.src64 8#7 0) = true ∧ witOk ((at' s).crew.src64 8#7 16) = false) := by
  decide +kernel

/-- AMAX.SCALE with a bad control word and with a reserved witness; a full ring; 1 under code 2, whose scale is 2^-15. -/
theorem test_hyp_rings_more : ([0x45#32, 0x1005#32, 0x105#32, 0xA05#32].all (fun w => Ready (.amaxScale 4#7 106#7 8#7) (ringed w) &&
      !decide (w.toNat < 4096 ∧ w.toNat % 256 < 64 ∧ 2 ≤ w.toNat / 256 ∧ w.toNat / 256 ≤ 9))) = true ∧
    (let s := demo Hints.empty (fun c => withV [(9, 0x80000000#32)] (withU [(10, 0x405#32)] c)) id (fun l => { l with rings := 0x20#64 }) id;
      Ready (.amaxScale 4#7 106#7 8#7) s ∧ witOk ((at' s).crew.src64 8#7 0) = false) ∧
    (let l := (List.range 16).map (fun k => (BitVec.ofNat 32 (k + 1), 1#64));
      16 ≤ l.length ∧ l.any (fun e => decide (e.1 = 1#32)) = true ∧ l.all (fun e => decide ((1#32).toNat ≤ e.1.toNat)) = true ∧
        l.all (fun e => decide (e.1 ≠ 99#32)) = true) ∧
    (1 * 2 ^ (0 - (-11) : Int).toNat ≤ 2047 * 2 ^ (5 + -15 - (-11) : Int).toNat ∧
      2047 * 2 ^ (5 + -15 - 1 - (-11) : Int).toNat < 1 * 2 ^ (0 - (-11) : Int).toNat) := by decide +kernel

/-- A home that holds 64 CWRs; an aged request that finds only reserved entries free. -/
theorem test_hyp_rejections : (let s : State := { sent .cwr .sent 0#128 1#128 with
        fl := { (sent .cwr .sent 0#128 1#128).fl with far := List.replicate 64 ⟨3, 1, 0x60000, 1#12, [], 0⟩ } }
      64 ≤ s.heldAt (homeOf 0x60000)) ∧
    (let r : LReq := { reqOf (.home 0x70000) .rejected with aged := some 5, tries := 64 }
      let s := busy [] [opOf' 1 (.load 4 false) (some ⟨4#7, 1⟩) none [] [r],
        opOf' 2 (.load 4 false) none none [] ((List.range 240).map (fun k => reqOf (.home k) .sent))]
      s.reservedUsed 0 < 16 ∧ s.agedBefore 0 5 = false ∧ ¬ s.entriesUsed 0 - s.reservedUsed 0 < 240) ∧
    ((busy [] [opOf' 1 (.load 4 false) (some ⟨4#7, 1⟩) none [] [reqOf (.remote 3 512) .sent]]).launchOf 1#32).isSome = true := by
  decide +kernel

/-- A slice is full of one line. -/
theorem test_hyp_full (s : State) (h : s.mem.resident = [] ++ 7 :: List.replicate Config.sliceLines 7) :
    s.sliceFull (homeOf 7) = true := by
  simp [State.sliceFull, h]; omega

/-- A walk behind 64 others of its die. -/
theorem test_hyp_walkers : (let w : Walk := ⟨99, 1#32, 0, 1, [⟨0, 0x10000, .load, .crew ⟨⟨1#32, 0, 0⟩, 0⟩ 0 0#32, some 0⟩]⟩;
    let pre : List Walk := (List.range 64).map (fun k => { w with id := k, page := k + 2 });
    64 ≤ (pre.filter (fun x => decide (x.die = w.die))).length ∧ ∀ x ∈ pre, x.id ≠ w.id) := by decide +kernel

/-- A heat with an operation of the closing participant; an update of a participant that has closed. -/
theorem test_hyp_heats_more : (let h : Heat := { heat0 with closed := [1] };
      (heated h [] [opOf' 1 (.ordAtom 0) none none [accOf 0x10000#64 3#128 (BitVec.ofNat 128 (2 ^ 37))]
        [reqOf (.home 0x60000) .sent]]).heatOf 1#32 0 = some h ∧ h.closed.contains 1 = true) ∧
    ((heated heat0 [] [opOf' 1 (.ordClose 0 1 false) (some ⟨4#7, 2⟩) none [] []]).opOf 1).isSome = true := by decide +kernel

/-- Copies with a reserved witness, a misaligned address, nonzero bits where none are used, an undefined tile, an empty slot,
and CPY.MC with masks that are zero, beyond 7 and of a position without a team, of an undefined tile, of tiles unlike. -/
theorem test_hyp_copy_traps : (∀ i ∈ ([.cpy 8#6 1#6, .cpyMc 4#6 8#6 1#6, .cpyCvt 8#6 1#6, .cpyOut 8#6, .cpyCvtOut 8#6,
      .xform 8#6 1#6, .xformOut 8#6] : List Instr), Ready i (uni [(15, 0x80000000#32)]) ∧ Ready i (uni [(8, 2#32)]) ∧
        Ready i (uni [(11, 0x40000000#32)]) ∧ Ready i plain) ∧
    witOk ((at' (uni [(15, 0x80000000#32)])).crew.u64 14) = false ∧ ((at' (uni [(8, 2#32)])).crew.u64 8).toNat % 4 ≠ 0 ∧
    ¬ DescFits (at' (uni [(11, 0x40000000#32)])) 8#6 0x8001F000#32 false ∧
    (DescFits (at' plain) 8#6 0x80000000#32 true ∧ (at' plain).team.tile 1 = none ∧
      Cells.get [] (at' plain).team.xprog ((at' plain).xslot 8#6) = []) ∧
    ([0#32, 0x100#32, 2#32, 1#32].all (fun m => Ready (.cpyMc 4#6 8#6 1#6) (uni [(12, m)]) &&
      decide (DescFits (at' (uni [(12, m)])) 8#6 0x80000000#32 true))) = true ∧
    plain.teamOf { (at' plain).team.key with pos := 1 } = none ∧ tileRows 0x00200001#32 ≠ tileRows 0x00400001#32 := by
  decide +kernel

/-- Two crews wait in POP, the one of CREWID 1 since an earlier clk, and since the same. -/
theorem test_hyp_pop_order : ∀ k ∈ [0, 1], (let s := queued (queue9 1#32 0#32) [] []
      let p : PopWait := ⟨1, 8#6, 9#32, 1, 1, 0#32, 0xFFFFFFFF#32, 0#32, false⟩
      let a : Crew := { (at' plain).crew with pop := some p }
      let b : Crew := { a with key := ⟨a.key.team, 1⟩, pop := some { p with clk := k } }
      let s : State := { s with crews := [a, b] }
      (s.popReady a).isSome = true ∧ (s.popReady b).isSome = true ∧
        (if k = 0 then PopEarlier { p with clk := 0 } (at' plain).team b.key p (at' plain).team a.key
          else PopEarlier p (at' plain).team a.key p (at' plain).team b.key) ∧
        (s.chosen (loadLaunch 1#32 0) (at' plain).team b.key 9#32).isSome = true) := by decide +kernel

/-- The first physical cluster that fits is the launch's own; with all its cores off the next is taken. -/
theorem test_hyp_placement : ((requested 8#8 (record 0#8)).placement ((requested 8#8 (record 0#8)).launchAt 0x02000000) = some [(0, 0)]) ∧
    (let s : State := { requested 8#8 (record 0#8) with dev := { State.reset.dev with diesDown := [(0, 0, 0), (1, 0, 0)] } };
      s.placement (s.launchAt 0x02000000) = none) := by decide +kernel

/-- A registers' and memory's boundary for BAR0 reads, a bring-up under way, WINBASE at 32 TiB. -/
theorem test_hyp_bar0 : ((4 : Nat) = 4 ∧ 0x18 ≤ 0x2C ∧ 0x2C < 0x30) ∧ (0x107F8 = 0x10000 + 8 * 255) ∧ srMonitor 459 = true ∧
    srMonitor 318 = false ∧ (({ State.reset with dev := { State.reset.dev with boot := some 1#4, step := 2#4 } } : State).dev.boot = some 1#4) ∧
    (45#6).toNat = 45 ∧ (1#4).toNat ≤ 3 ∧ State.reset.dev.boot = none ∧ State.reset.dev.power = true := by decide +kernel

/-- No line of the machine after reset is struck or poisoned. -/
theorem test_hyp_clean : MemoryClean State.reset := ⟨by decide, fun _ => ⟨rfl, rfl⟩, fun _ => rfl⟩

theorem test_hyp_writes : Cells.wf 0#32 (at' plain).crew.vregs = true ∧ Cells.wf 0#32 (at' plain).crew.preds = true ∧
    Cells.wf 0#32 (at' plain).crew.uregs = true ∧ (∀ x ∈ (at' plain).slots, x < 32) ∧ (∀ x ∈ (at' prot).slots, x < 32) := by
  decide +kernel

/-! What a protected launch and a struck register stop, and what an access breaks. -/

/-- A protected launch whose uniform registers hold u and whose vector registers hold v, by register and slot. -/
def twin (u : List (Nat × Word)) (v : List (Nat × Nat × Word)) (fc : Crew → Crew) : State := demo Hints.empty (fun c =>
    fc { withU u c with
      entries := c.entries.map (fun e => { e with mask := 0xFFFF#32 })
      vregs := Cells.setAll 0#32 c.vregs (v.map (fun p => (32 * p.1 + p.2.1, p.2.2))) }) id (fun l => { l with prot := true })
  (fun s => { s with fl := { s.fl with tlb := s.fl.tlb ++ [⟨0, 1#32, 0x10000, 16, 0x0300000E#64, false⟩] } })

/-- v8 is uncorrectable and read; v4 is uncorrectable and written in part; the members of thread 0 differ on the guard; an
upset at a UADD. -/
theorem test_hyp_late_traps :
    (let s := crewed (fun c => { c with vbad := [8] });
      Stands s (at' s) ∧ HintsFit (formOf (.iadd 4#7 8#7 12#7)) (at' s) ∧ (∀ r ∈ formRegs (formOf (.iadd 4#7 8#7 12#7)) Hints.empty,
        (at' s).crew.pending r = false) ∧ (vNums ((formOf (.iadd 4#7 8#7 12#7)).shape.flatMap (opndReads none))).find?
          (fun k => (at' s).crew.vbad.contains k) = some 8) ∧
    (let s := demo Hints.empty (fun c => { c with vbad := [4], entries := c.entries.map (fun e => { e with mask := 1#32 }) }) id id id;
      (at' s).act = 1#32 ∧ (vNums ((formOf (.iadd 4#7 8#7 12#7)).shape.flatMap opndWrites)).find?
        (fun k => (at' s).crew.vbad.contains k) = some 4) ∧
    (let s := twin [] [] (fun c => { c with preds := Cells.set 0#32 c.preds 1 0x10000#32, group := c.group.map (fun g =>
        { g with hints := { g.hints with g := some 1#4, count := 1 } }) });
      (threadsOf (at' s).ent.mask).find? (fun t => (at' s).crew.guard (at' s).grp.hints.g t !=
        (at' s).crew.guard (at' s).grp.hints.g (t + 16)) = some 0) ∧
    (let s := twin [] [] (fun c => { c with upset := true });
      GuardsAgree (at' s) ∧ (at' s).crew.upset = true ∧ HintsFit (formOf (.uadd 4#6 8#6 12#6 1#1)) (at' s)) := by decide +kernel

/-- Slot 16 of v8 and of p1 differ from slot 0: compares, matches, crew predicates, a branch, MOVS and RFAL. -/
theorem test_hyp_disagreement :
    (let s := twin [] [(8, 16, 0x40000000#32)] (fun c => { c with preds := Cells.set 0#32 c.preds 1 0x10000#32 });
      (∀ i ∈ ([.icmp32 0#3 0#1 3#3 8#7 12#7, .icmpi 0#3 0#1 3#3 8#7 0#12, .fcmp 0#3 3#3 8#7 12#7 0#2, .crewAny 3#3 0#1 1#3,
        .crewMask 4#7 0#1 1#3, .crewSame 3#3 0#1 1#3, .bra 1#3 1#1 5#6 7#16, .matchB 4#7 8#7, .movs 0#1 4#6 8#7 0#5, .rfal 0#1 4#6 8#7] : List Instr),
        Ready i s) ∧ (at' s).threads.find? (fun x => decide ((if intCond 0#3 false ((at' s).crew.src 8#7 x) 0#32 then 1#32 else 0#32) ≠
          (if intCond 0#3 false ((at' s).crew.src 8#7 (x + 16)) 0#32 then 1#32 else 0#32))) = some 0 ∧
      (at' s).threads.find? (fun x => decide ((at' s).crew.p 1 x ≠ (at' s).crew.p 1 (x + 16))) = some 0 ∧
      (at' s).crew.src 8#7 0 ≠ (at' s).crew.src 8#7 (0 + 16)) := by decide +kernel

/-- A page of another device, which LDC, STW and CWR do not take; members that reach two lines, and members whose data
differ. -/
theorem test_hyp_access_checks :
    (let s := demo Hints.empty (withU [(8, 0x10000#32)]) id id (fun s => { s with
        fl := { s.fl with tlb := s.fl.tlb ++ [⟨0, 1#32, 0x10000, 16, 0x000C00000300004E#64, false⟩] } });
      [Need.load, Need.both].all (fun n => reachesB s (at' s) n 0x10000#64 (leafAddr 0x000C00000300004E#64 16 0x10000 false)) &&
        !PAddr.isMain (leafAddr 0x000C00000300004E#64 16 0x10000 false) && Ready (.ldc 4#7 104#7 4#3 0#9) s) = true ∧
    (let s := twin [] ((List.range 32).map (fun k => (8, k, if k = 16 then 0x10080#32 else 0x10000#32))) id;
      (∀ i ∈ ([.ld 4#7 8#7 4#3 0#9, .st 4#7 12#7 8#7 4#3, .redXor 4#7 8#7 12#7, .vers 4#7 8#7] : List Instr), Ready i s) ∧
      (at' s).slots.all (fun k => reachesB s (at' s) Need.both ((at' s).crew.src64 8#7 k) (.main (if k = 16 then 0x03000080 else
        0x03000000))) = true ∧ (PAddr.main 0x03000000).target ≠ (PAddr.main 0x03000080).target) ∧
    (let s := twin [(8, 0x10000#32)] [(12, 16, 1#32)] id;
      (∀ i ∈ ([.st 4#7 12#7 104#7 4#3, .atomAdd 4#7 104#7 12#7 0#1, .ldw 4#7 12#7 104#7 4#3, .sts 4#7 12#7 100#7 4#3] : List Instr),
        Ready i s) ∧ (at' s).threads.find? (fun t => decide ((at' s).crew.dataOf 12#7 4 t ≠ (at' s).crew.dataOf 12#7 4 (t + 16))) =
          some 0) := by decide +kernel

/-- Accesses beyond the scratchpad and outside the grants; a bad witness of a LDW; a version of CWR beyond 12 bits. -/
theorem test_hyp_local_checks :
    (∀ i ∈ ([.lds 4#7 104#7 6#3, .sts 4#7 12#7 104#7 4#3, .ldRs 4#7 104#7 6#3, .stRs8 4#7 104#7 12#7, .stRs128 4#7 104#7 12#7] :
      List Instr), Ready i (mem [(8, 0x3E000#32)] id id)) ∧ ¬ 0x3E000 < 4096 * (at' plain).team.spu ∧
    (∀ i ∈ ([.ldv 4#7 100#7 6#3, .stv 4#7 12#7 100#7 6#3] : List Instr), Ready i (vaulted [(4, 0x10000#32)])) ∧
    (let s := demo Hints.empty (fun c => withV [(13, 0x80000000#32)] (withU [(8, 0x10000#32)] c)) id id id;
      Ready (.ldw 4#7 12#7 104#7 4#3) s ∧ witOk ((at' s).crew.src64 12#7 0) = false ∧ (at' s).threads = [] ++ 0 :: (List.range 32).tail) ∧
    (let s := demo Hints.empty (fun c => withV [(13, 4096#32)] (withU [(8, 0x10000#32)] c)) id id id;
      Ready (.cwr 4#7 104#7 12#7) s ∧ 4096 ≤ ((at' s).crew.srcK 12#7 1 0).toNat) := by decide +kernel

/-- A third crew waits for this one, which names another; one entry in a YIELD, and none that could go on; a word that reads a
register of the crew's POP. -/
theorem test_hyp_waiting :
    (let s := demo Hints.empty id id id (fun s => { s with
        crews := s.crews ++ s.crews.map (fun c => { c with key := ⟨c.key.team, 1⟩ }) ++
          s.crews.map (fun c => { c with key := ⟨c.key.team, 2⟩, quotaW := some ⟨true, 0, 5, 0, 0#32⟩ }) });
      Ready (.quotaGive 1#6 5#6) s ∧ (s.crews.map (·.key)).Nodup ∧ (s.crewOf ⟨(at' s).team.key, 1⟩).any (fun x => x.quotaW.isNone) = true ∧
        (s.crews[2]?).any (fun y => decide (y.quotaW = some ⟨true, 0, 5, 0, 0#32⟩)) = true) ∧
    (let s := crewed (fun c => { c with group := none, entries := c.entries.map (fun e => { e with yield := 2 }) });
      (s.crews[0]?).any (fun c => decide (c.looseEntries.map (·.yield) = [2])) = true) ∧
    (let s := crewed (fun c => { c with group := none, entries := c.entries.map (fun e => { e with hold := .walk }) });
      (s.crews[0]?).any (fun c => c.looseEntries.isEmpty) = true) ∧
    (let s := crewed (fun c => { c with pop := some ⟨1, 8#6, 9#32, 1, 0, 0#32, 0#32, 0#32, false⟩, pend := [⟨.u 8, 1⟩] });
      Stands s (at' s) ∧ HintsFit (formOf (.uadd 4#6 8#6 12#6 0#1)) (at' s) ∧
        PReg.u 8 ∈ formRegs (formOf (.uadd 4#6 8#6 12#6 0#1)) Hints.empty ∧ (at' s).crew.pending (.u 8) = true) := by decide +kernel

/-- A save of the own launch into memory that does not exist holds two statuses; a killed gang holds status 4. -/
theorem test_hyp_statuses : (others []).preemptNow 1#32 1#32 0 (2 ^ 40) = [6, 7] ∧
    ({ others [] with gangs := (others []).gangs.map (fun g => { g with kill := some (KillInfo.device 9) }) } : State).preemptNow
      1#32 7#32 0 0 = [4] := by decide +kernel

/-- A cell of an FP32 command on tiles of zeros, in units of 2^-298. -/
theorem test_hyp_cells : (cmdOf' false []).fmt.toNat = 8 ∧ (cmdOf' false []).rowsA[0]? = some (some 0) ∧ 0 < (cmdOf' false []).n ∧
    UnitsFor (-298) (.fin false 0 (-149) :: List.replicate 16 (product (fp32.read 0) (fp32.read 0))) := by
  refine ⟨rfl, rfl, by decide, fun s m e h hm => ?_⟩
  have h0 : fp32.read 0 = .fin false 0 (-149) := by decide +kernel
  rw [h0] at h
  simp [product] at h
  omega

/-- A die that has trained its ports after its reset, and one that has not; a gang of it whose kill is still to come. -/
theorem test_hyp_die_reset : (let d := { Device.reset with diesDown := [(0, 1, 0)], portsDown := [18] };
      d.diesDown.find? (fun x => decide (x.1 = 0)) = some (0, 1, 0) ∧ (∀ p ∈ d.portsDown, p / 18 ≠ 0) ∧
        ∃ p ∈ d.portsDown, p / 18 = 1) ∧
    ({ Gang.start 1#32 0 with kill := some (KillInfo.device 11) } : Gang).kill.isSome = true ∧
    (plain.teams.all (fun t => t.key.within 1#32 0 && decide (dieOf t.core = 0))) = true := by decide +kernel

/-- The launch that queue 7 asks for clears memory without errors; its completion queue has a clean slot. -/
theorem test_hyp_launch_memory : MemoryClean (requested 8#8 (record 0#8)) ∧ (∀ g ∈ ((requested 8#8 (record 0#8)).launchAt 0x02000000).grants,
      g.vault ≤ 127 ∧ g.unit + g.count ≤ 192) ∧
    SlotClean (queued { queue9 0#32 0#32 with num := 8 } [] []) ({ queue9 0#32 0#32 with num := 8 }.at 0#32) := by
  refine ⟨⟨by decide, fun _ => ⟨rfl, rfl⟩, fun _ => rfl⟩, by decide +kernel, by decide +kernel⟩

/-! ### Hypotheses of results, of traps and of waits -/

/-- A REDUX at the resolver, of .s, which settles, and of .d, which goes on; FRCP, which the test decides. -/
theorem test_hyp_settles : ([0#2, 1#2].all (fun t => let p : Park := { park .resolver with major := 0x16#6, sel := 16#5, fmt := t, chain := true };
      decide ((parked [p]).parkAt 0 0 = some p) && decide (fnOf p.major p.sel = none))) = true ∧
    fnOf 0x1A#6 3#5 = some .rcp ∧ (∀ x ∈ fast.args, x.1 < 32) ∧ (parked []).crews.all (fun c => c.vbad.isEmpty) = true := by decide +kernel

/-- A BAR.T whose last crew has arrived and one with an arrival to come; a GBAR likewise. -/
theorem test_hyp_barriers_close :
    ([3#32, 1#32].all (fun a => let s := demo Hints.empty id (fun t => { t with bmask := 3#32, barr := a, garr := a }) id id;
      (s.teamOf ⟨1#32, 0, 0⟩).any (fun x => decide (x.bmask ≠ 0#32) && (decide (x.barr = x.bmask) == decide (a = 3#32))))) = true ∧
    (∃ y ∈ (demo Hints.empty id (fun t => { t with garr := 1#32 }) id id).teams, y.garr ≠ 0#32 ∧ ∀ x ∈ plain.crews, y.garr.getLsbD x.key.crew = true) ∧
    (plain.teams.all (fun y => decide (y.garr = 0#32))) = true := by decide +kernel

/-- A gang number of 2^16; a save with an area that is not aligned, one with a cluster, a restore onto cluster 32, and each of
the three zero words, the gang number of 2^16 among them. -/
theorem test_hyp_bad_operands : Ready (.killg 4#6 8#6) (others [(9, 65536#32)]) = true ∧
    ([(.preemptSave 4#6 16#6, 17, 65536#32), (.preemptSave 4#6 16#6, 18, 128#32), (.preemptSave 4#6 16#6, 20, 1#32),
      (.preemptRest 4#6 16#6, 20, 32#32), (.preemptRest 4#6 16#6, 21, 1#32), (.preemptSave 4#6 16#6, 22, 1#32),
      (.preemptRest 4#6 16#6, 23, 1#32)] : List (Instr × Nat × Word)).all (fun x => Ready x.1 (others [(x.2.1, x.2.2)])) = true := by
  decide +kernel

/-- The counters of RSLV.STAT: parked lanes 0 and 5 of the crew, and 62 free records. -/
theorem test_hyp_counters : (let s := parked [{ park .queued with pmask := 0x21#32, idx := [0, 1] }];
    ([0#6, 1#6, 2#6, 3#6, 4#6, 5#6].all (fun n => Ready (.rslvStat 4#6 n) s)) = true ∧
      ((List.range 32).filter (fun k => s.fl.parks.any (fun p => p.pmask.getLsbD k))) = [0, 5] ∧
      ((List.range 64).filter (fun i => s.fl.parks.all (fun p => !p.idx.contains i))).length = 62) := by decide +kernel

/-- ULD of a misaligned address, of one beyond 2^56, of one outside the grants, of one in no TLB; ORD.ATOM and ORD.CLOSE under a
control word that names no heat, a participant above np, and with a bit where none may be; an update beyond its heat. -/
theorem test_hyp_violations :
    ([(2#32, 0#32), (0#32, 0x01000000#32), (0x80000000#32, 0x00FFFFFF#32), (0x20000#32, 0#32)].all (fun x =>
      Ready (.uld 4#6 8#6 1#1) (mem [(8, x.1), (9, x.2)] id id))) = true ∧
    ((mem [] id id).tlbFind 0 1#32 0x20000 = none ∧ 2 % 8 ≠ 0) ∧
    ([0x101#32, 0x200#32, 0x110#32, 0x1000000#32].all (fun w => Ready (.ordClose 4#7 100#7) (heated heat0 [(4, w)] []) &&
      Ready (.ordAtom 100#7 104#7 12#7) (heated heat0 [(4, w)] []) && !decide (w.toNat < 2 ^ 24 ∧ w.toNat / 16 % 16 = 0 ∧
        w.toNat % 16 = 0 ∧ w.toNat / 256 ≤ heat0.np))) = true ∧
    (Ready (.ordAtom 100#7 104#7 12#7) (heated heat0 [(4, 0x100#32), (8, 0x11000#32)] []) ∧
      heat0.ext + heat0.len < ((at' (heated heat0 [(8, 0x11000#32)] [])).crew.src64 104#7 0).toNat + 4) ∧
    heatSize { heat0 with op := 1 }.op = 8 ∧ vsOk .pair 13#7 = false := by decide +kernel

/-- A dual-version page at 0x10000; the members of thread 0 name two addresses of it. -/
def twinDual : State :=
  let s := twin [] [(8, 0, 0x10000#32), (8, 16, 0x10004#32)] id
  { s with
    launches := s.launches.map (fun l => { l with dvs := [⟨0x10000, 65536, false⟩] })
    fl := { s.fl with tlb := [⟨0, 1#32, 0x10000, 16, 0x0300008E#64, false⟩] } }

/-- FLIP of an address beyond 2^56, of a page that is not dual-version, of a page in no TLB; of two pages by the members of a
thread; its witness with its discards under way and done. -/
theorem test_hyp_flip_checks :
    (Ready (.flip 4#7 104#7) (mem [(9, 0x01000000#32)] id id) ∧ Ready (.flip 4#7 104#7) (mem [] id id) ∧
      leafDV 0x0300000E#64 = false ∧ Ready (.flip 4#7 104#7) (mem [(8, 0x20000#32)] id id)) ∧
    (let s := twinDual;
      Ready (.flip 4#7 8#7) s ∧ (at' s).crew.src64 8#7 0 ≠ (at' s).crew.src64 8#7 (0 + 16) ∧ (s.tlbFind 0 1#32 0x10000).any
        (fun x => leafDV x.leaf && ((at' s).launch.dvs[leafRange x.leaf]?).isSome) = true ∧
        [0, 16].all (fun k => reachesB s (at' s) Need.both ((at' s).crew.src64 8#7 k) (.main (0x03000000 + k / 4))) = true) ∧
    ([2, 9].all (fun n => let s := inval [opOf' 3 (.flip 0 n) (some ⟨4#7, 2⟩) none [] [reqOf (.scratch ⟨1#32, 0, 0⟩) .sent]];
      (s.opOf 3).isSome && (s.fl.invs.any (fun i => decide (i.id = n)) == decide (n = 2)))) = true := by decide +kernel

/-- PREF and DISC.LINE of an address that a TLB holds, and of one that none does; a WALL behind a line of an active thread; two
witnesses of a line at versions 2,047, 2,048 and 2,049 apart, and of two lines. -/
theorem test_hyp_merges : (∀ u ∈ ([[], [(8, 0x20000#32)]] : List (List (Nat × Word))), Ready (.pref 104#7 0#1) (mem u id id) ∧
      Ready (.discLine 104#7) (mem u id id)) ∧ ((mem [] id id).tlbFind 0 1#32 0x10000).isSome = true ∧
    ([0x2000000000001000#64, 0x4000000000001000#64].all (fun w => [0, 2047, 2048, 2049].all (fun n =>
      witOk (w + BitVec.ofNat 64 n)) && [2047, 2048, 2049].all (fun n => decide (witMerge (w + BitVec.ofNat 64 n) w =
        if n = 2047 then w + 2047#64 else if n = 2048 then (if w = 0x2000000000001000#64 then 0x6800000000000000#64 else 0x6C00000000000000#64) else w)))) = true ∧
    witMerge 0x2000000000001000#64 0x7000000000000000#64 = 0x7000000000000000#64 ∧
    witMerge 0x2000000000001000#64 0x4000000000001000#64 = 0x6C00000000000000#64 := by decide +kernel

/-- AMAX.PUSH of members with different maxima; AMAX.SCALE of members with different witnesses. -/
theorem test_hyp_rings_twice :
    (let s := demo Hints.empty (fun c => { withU [(10, 5#32)] c with
        entries := c.entries.map (fun e => { e with mask := 0xFFFF#32 })
        vregs := Cells.setAll 0#32 c.vregs [(32 * 9 + 3, 0x20000000#32), (32 * 8 + 16, 0x3F800000#32)] }) id
        (fun l => { l with prot := true, rings := 0x20#64 }) id;
      Ready (.amaxPush 4#7 8#7 106#7) s ∧ (at' s).launch.rings.getLsbD 5 = true ∧ ((at' s).readsGood 8#7 1).toOption = some () ∧
      absBits ((at' s).crew.num 0#2 8#7 16) ≠ 0#64 ∧ (∀ k ∈ (at' s).threads, absBits ((at' s).crew.num 0#2 8#7 k) = 0#64) ∧
      Ready (.amaxScale 4#7 106#7 8#7) s ∧ (at' s).threads.find? (fun t => decide ((at' s).crew.src64 8#7 t ≠
        (at' s).crew.src64 8#7 (t + 16))) = some 0 ∧ ∀ t ∈ (at' s).threads, witOk ((at' s).crew.src64 8#7 t) = true) := by
  decide +kernel

/-- The requests held for a line. -/
def heldOn (ops : List MOp) (ln : Nat) : List (MOp × Nat) := ops.flatMap (fun p => (p.reqs.zipIdx.filter (fun r =>
  decide (r.1.st = .held) && decide (r.1.target = .home ln))).map (fun r => (p, r.2)))

theorem mem_heldOn (ops : List MOp) (ln : Nat) (p : MOp) (j : Nat) : (p, j) ∈ heldOn ops ln ↔
    p ∈ ops ∧ ∃ r, p.reqs[j]? = some r ∧ r.st = .held ∧ r.target = .home ln := by
  simp only [heldOn, List.mem_flatMap, List.mem_map, List.mem_filter, Bool.and_eq_true, decide_eq_true_eq]
  constructor
  · rintro ⟨q, hq, x, ⟨hx, h⟩, e⟩
    obtain ⟨rfl, rfl⟩ := Prod.mk.inj e
    exact ⟨hq, x.1, (List.mem_zipIdx_iff_getElem? (x := x)).1 hx, h⟩
  · rintro ⟨hp, r, hr, h⟩
    exact ⟨p, hp, (r, j), ⟨(List.mem_zipIdx_iff_getElem? (x := (r, j))).2 hr, h⟩, rfl⟩

/-- A write of line 0x60000, at version 4, arrives; CWRs that expect 6, 5 and 6 are held there, in this order of arrival. -/
def holding (kind : OpKind) : State :=
  let s := busy [] ([opOf' 1 kind (some ⟨4#7, 1⟩) none [accOf 0x10000#64 7#128 4#128] [reqOf (.home 0x60000) .sent]] ++
    [(2, 6#128), (3, 5#128), (4, 6#128)].map (fun x => opOf' x.1 .cwr (some ⟨6#7, 2⟩) none
      [accOf (0x10000#64 + BitVec.ofNat 64 (4 * x.1)) (BitVec.ofNat 128 (16 * x.1)) x.2]
      [{ reqOf (.home 0x60000) .held with aged := some x.1 }]))
  { s with mem := { s.mem with lines := [(0x60000, { LineMeta.clean with ver := 4#12 })] } }

theorem test_hyp_holds : ∀ k ∈ [OpKind.store 4, .cwr, .atomic 0 true false],
    HoldsOn (holding k) 0x60000 (heldOn (holding k).fl.ops 0x60000) ∧ (heldOn (holding k).fl.ops 0x60000).length = 3 := by
  intro k hk
  refine ⟨⟨?_, ?_, ?_, ?_, fun p j => mem_heldOn _ _ p j⟩, ?_⟩ <;> revert k <;> decide +kernel

/-- A command on region 3, whose first cell holds 2, with requests of the line at 0x03000000. -/
def regional (kind : OpKind) (reqs : List LReq) : State :=
  let s := matrix [] Hints.empty []
  { s with
    serial := 100
    teams := s.teams.map (fun t => { t with acc := [(0, 0x40000000#32)], accSt := [(0, 1#8)] })
    fl := { s.fl with ops := [opOf' 1 kind none (some ⟨4#7, 2⟩) [] reqs] } }

/-- The weights of an ACCDRAIN and its write, the line of an ACCSAVE, of an ACCLOAD and of an XPROG; then all of them performed.
-/
theorem test_hyp_regional : ([ReqSt.sent, .performed].all (fun st =>
      ([OpKind.accdrain 3 0x1F860000#32 0x10000#64 256#32 0x3F800000#32 0#2, .accsave 3 0x1F860000#32 0x10000#64,
        .accload 3 0x1F860000#32 0x10000#64, .xprog 0].all (fun k =>
      let s := regional k [reqOf (.home 0x60000) st, reqOf (.home 0x60000) st]
      (s.opOf 1).any (fun o => !s.blocked o 0 (reqOf (.home 0x60000) st) && (o.performed == decide (st = .performed)) &&
        decide (o.udest = some ⟨4#7, 2⟩)) && s.teams.all (fun t => t.accBad.isEmpty && Cells.wf 0#32 t.acc && Cells.wf 0#8 t.accSt))))) = true ∧
    (fmtOf 0#2).read 0 = .fin false 0 (-149) ∧ ((0x10000#64).toNat % 4 = 0 ∧ (256#32).toNat % 4 = 0) := by decide +kernel

/-- What a second addition of 1 and a second MSADD at the same place find: what the first has left. -/
theorem test_hyp_found : (atomicSteps (0 : Line) 0 [(4, 5, 0)]).Finds 0 4 4 5 ∧ (msaddSteps (0 : Line) true 0#3 0#64 0#12 [(512, 0, 0x3C00)]).Finds 0 0 2 0x3C00 ∧
    fp16.read 0x3C00 = .fin false 1024 (-10) ∧ (fpSteps (0 : Line) false 0#3 [(8, 0x40000000)]).Finds 0 8 4 0x40000000 := by decide +kernel

/-- Heat 0 with room for a record behind the count of its spill area at 0x03010000, and with none. -/
def spilling (room : Bool) : Heat := { heat0 with spill := 0x20000, spillb := if room then 96 else 64, spillPa := [0x03010000] }
/-- A home that holds 16 updates of heat 0, of tags 1 to 16, and an update of tag 2^37 or, under `low`, of tag 0 on its way. -/
def fullHome (room low : Bool) : State :=
  let s := heated (spilling room) [] [opOf' 1 (.ordAtom 0) none none [accOf 0x10000#64 3#128 (if low then 0#128 else BitVec.ofNat 128 (2 ^ 37))]
    [reqOf (.home 0x60000) .sent]]
  { s with mem := { s.mem with updates := (List.range 16).map (fun k => ⟨homeOf 0x60000, 1#32, 0, 0x03000000, k + 1, 1#64, BitVec.ofNat 32 k, k⟩) } }

theorem test_hyp_spills : ([true, false].all (fun room => [true, false].all (fun low => let s := fullHome room low;
      decide ((s.mem.updates.filter (fun x => decide (x.home = homeOf 0x60000))).length = 16) && s.sound &&
        decide (s.heatOf 1#32 0 = some (spilling room)) && (decide ((spilling room).count < ((spilling room).spillb - 64) / 32) == room) &&
        s.mem.updates.all (fun y => decide (y.tag ≤ 16)) && s.mem.updates.any (fun y => decide (y.tag = 16))))) = true ∧
    (spilling true).spillAt 64 = 0x03010040 ∧ (0x03010000 % 65536 = 0) := by decide +kernel

/-- The last close of a heat of two participants with updates in a buffer and in the spill area, and of one that has failed. -/
def closing' (failed : Bool) : State :=
  let s := heated { spilling true with closed := [0], count := 1, failed := failed } [] [opOf' 1 (.ordClose 0 1 false) (some ⟨4#7, 2⟩) none [] [],
    opOf' 2 (.ordClose 0 0 true) (some ⟨6#7, 2⟩) none [] []]
  { s with mem := { s.mem with
      bytes := [(0x03000003, 0x3F#8), (0x03010043, 3#8), (0x03010052, 0x80#8), (0x03010053, 0x3F#8)]
      updates := [⟨homeOf 0x60000, 1#32, 0, 0x03000000, 2 ^ 37, 0x40000000#64, 0#32, 5⟩] } }

theorem test_hyp_merge : ([true, false].all (fun f => let s := closing' f;
      (s.heatOf 1#32 0).any (fun h => decide (h.closed.length = h.np) && !h.closed.contains 1 && decide (h.failed = f) && !h.merged) && s.sound)) = true ∧
    ((closing' false).numAt 0x03010040 8 = 0x03000000 ∧ (closing' false).numAt 0x03010050 8 = 0x3F800000 ∧ 0x03000000 % heatSize 0 = 0 ∧
      paExists 0x03000000 = true) ∧
    heatFold heat0 0x3F000000 (keptUpdates [⟨0x03000000, 0, 0x3F800000, 0⟩, ⟨0x03000000, 2 ^ 37, 0x40000000, 0⟩]) = (0x40600000, 0#5) := by decide +kernel

/-- XPROG of a misaligned address, of one beyond 2^56, of one in no TLB, of a page of another device's host; its program legal
and not. -/
theorem test_hyp_programs : ([(16#32, 0#32), (0x10000#32, 0x01000000#32), (0x20000#32, 0#32), (0x80000000#32, 0x00FFFFFF#32)].all (fun x =>
      Ready (.xprog 8#6 3#6) (mem [(8, x.1), (9, x.2)] id id))) = true ∧ 16 % 64 ≠ 0 := by decide +kernel

/-- Batches of thread 0 sealed under numbers 2^32 - 1 and 3, the current one being 4. -/
def batched (n : BitVec 6) : Bool :=
  let s := crewed (fun c => { c with batch := [(0, 4#32)], sealedB := [⟨0, 0xFFFFFFFF#32⟩, ⟨0, 3#32⟩] })
  Ready (.waitb 4#6 n) s && (at' s).crew.sealedB.any (fun x => decide (n.toNat < (4#32 - x.number).toNat))

theorem test_hyp_batches : batched 4#6 = true ∧ batched 5#6 = false ∧ Ready (.waitb 4#6 5#6) (crewed (fun c => { c with
    batch := [(0, 4#32)], sealedB := [⟨0, 0xFFFFFFFF#32⟩, ⟨0, 3#32⟩] })) = true := by decide +kernel
/-- The line of an XPROG has come: a dimension of 32 elements, a word of kind 11, a XOR that reaches beyond its place, and
poison. -/
def programmed (data : Line) (poison : BitVec 4) : State :=
  busy [] [opOf' 1 (.xprog 0) none none [accOf 0x10000#64 0#128 0#128]
    [{ reqOf (.home 0x60000) .performed with data := data, poison := poison }]]

theorem test_hyp_program_loads : ([(0x407C0001, 0#4), (0xC0000000, 0#4), (0x80010FC0407C0001, 0#4), (0x407C0001, 1#4)].all (fun x =>
      let s := programmed (BitVec.ofNat 1024 x.1) x.2
      (s.opOf 1).any (fun o => o.performed && o.reqs.all (fun r => !r.refused && decide (lineNum r.data 0 4 = x.1 % 2 ^ 32) &&
        (decide (r.poison &&& o.readsAt 0 = 0#4) == decide (x.2 = 0#4)))) && (s.teamOf ⟨1#32, 0, 0⟩).isSome)) = true ∧
    (0x407C0001 / 2 ^ 30 = 1 ∧ 0xC0000000 / 2 ^ 30 = 3 ∧ 0x80010FC0 / 2 ^ 30 = 2 ∧ 8 < 0x80010FC0 / 64 % 16) := by decide +kernel

/-- An outward copy whose line no other has reached, and a fill of two tiles with its words still to land. -/
theorem test_hyp_copy_bytes : (∀ x ∈ (copyOf' true false).lines, x.done = true → x.asked ≠ some (.home 0x60000)) ∧
    (copyOf' false true).landed = [] ∧
    ([(⟨1#32, 0, 0⟩, 1), (⟨1#32, 0, 1⟩, 1)] : List (TeamKey × Nat)).Pairwise (fun x y => x.1 ≠ y.1) ∧
    (((moving (copyOf' false true)).teamOf ⟨1#32, 0, 0⟩).bind (fun t => t.tile 1)).isSome = true ∧
    ((moving (copyOf' false true)).crewOf ⟨⟨1#32, 0, 0⟩, 0⟩).isSome = true := by decide +kernel

/-- A matrix machine whose tile k is x. -/
def matrixTile (k : Nat) (x : Option Tile) (h : Hints) (u : List (Nat × Word)) (cmds : List Cmd) : State :=
  let s := matrix u h cmds
  { s with teams := s.teams.map (fun t => t.setTile k x) }
/-- A HINT.C payload. -/
def payload (n : Nat) : Hints := { Hints.empty with c := some (BitVec.ofNat 22 n), count := 1 }

/-- MMA on a tile that is undefined, being filled and of 63 rows, with a full sequencer and with its identifier in use; MMAS of
a scale tile of another layout. -/
theorem test_hyp_mma_stops :
    ([none, some ⟨0x07E01800#32, .filling, 0⟩, some ⟨0x07C01800#32, .ready, 0⟩].all (fun x =>
      Ready (.mma 0#2 4#6 1#5 2#5 3#4 8#4) (matrixTile 1 x Hints.empty [] []))) = true ∧ tileRows 0x07C01800#32 = 63 ∧
    (Ready (.mmas 0#2 4#6 1#5 2#5 3#4 3#4) (matrixTile 3 (some ⟨0x00401840#32, .ready, 0⟩) (payload (3 * 32 + 4)) [] []) ∧ tileRows 0x00401840#32 = 3) ∧
    (64 ≤ ((matrix [] Hints.empty (List.replicate 64 (cmdOf' false []))).fl.cmds.filter (fun x => decide (x.core = 0))).length ∧
      ∃ x ∈ (matrix [] Hints.empty [{ cmdOf' false [] with ident := 0#6 }]).fl.cmds, x.ident = (at' plain).crew.mnext) := by decide +kernel

/-- MMA.G without a row field, with a pending one, with an index beyond A, with an uncorrectable one, and with members that
differ; MMA.CV without its words, with a bit set where none may be, and with more rows than A has. -/
theorem test_hyp_mma_words :
    (Ready (.mmaG 0#2 4#6 1#5 2#5 3#4 3#3) (matrix [] (payload 127) []) ∧ Ready (.mmaCv 0#2 4#6 1#5 2#5 3#4 3#3) (matrix [] (payload 92) []) ∧
      Ready (.mmaCv 0#2 4#6 1#5 2#5 3#4 3#3) (matrix [(10, 1#32)] (payload 104) []) ∧
      Ready (.mmaCv 0#2 4#6 1#5 2#5 3#4 3#3) (matrix [(11, 0x00FF0000#32)] (payload 104) [])) ∧
    ((0x00FF0000#32).toNat / 2 ^ 16 % 256 + 1 = 256 ∧ ¬ 256 ≤ tileRows 0x07E01800#32) ∧
    ([(fun c => { c with pend := [⟨.v 17, 5⟩] }), (fun c => { c with vbad := [17] }), withV [(16, 0x40#32)]].all (fun (f : Crew → Crew) =>
      let s := matrix [] (payload 16) []
      Ready (.mmaG 1#2 4#6 1#5 2#5 3#4 3#3) { s with crews := s.crews.map f })) = true ∧ ¬ 0x40 < tileRows 0x07E01800#32 := by decide +kernel

/-- ACC instructions on an undefined region; control words with a bit set, of rows and of columns beyond the region; an odd pair
of registers for a wide region; ACCDRAIN with a stride that is too small, ACCSAVE off a line, an image in no TLB, on a read-only
page, of another device. -/
theorem test_hyp_acc_stops :
    (Ready (.accz 3#4) plain ∧ (at' plain).team.region 3 = none) ∧
    ([0x100#32, 0x400000#32, 0x39#32, 0x00020000#32].all (fun w => Ready (.accrd 8#7 100#7 3#2 3#4) (matrix [(4, w)] Hints.empty []))) = true ∧
    (0x39 + 8 > 64 ∧ ¬ 32 * 2 < 64) ∧
    (Ready (.accdrain 4#6 8#6 3#4 0#2) (matrix [(8, 0x10000#32), (10, 252#32)] Hints.empty []) ∧ (252#32).toInt.natAbs < 64 * 4) ∧
    (Ready (.accsave 4#6 8#6 3#4) (matrix [(8, 64#32)] Hints.empty []) ∧ Ready (.accload 4#6 8#6 3#4) (matrix [(5, 0x80000000#32)] Hints.empty []) ∧
      witOk ((at' (matrix [(5, 0x80000000#32)] Hints.empty [])).crew.u64 4) = false) ∧
    (matrix [(8, 0x10000#32)] Hints.empty []).tlbFind 0 1#32 0x10000 = none ∧
    ((matrix [] Hints.empty []).tlbFind 0 1#32 0).any (fun t => !Need.store.ok t.leaf) = true := by decide +kernel

/-- POP in a deterministic launch of a queue that is not bound, and of one bound to another type; POP.TRY there; selectors
beyond 512; PUSH, QSTAT and QCTL of a queue that is not declared. -/
theorem test_hyp_task_stops :
    (let s := { queued (queue9 1#32 0#32) [(20, 9#32)] [] with launches := plain.launches.map (fun l => { l with det := true }) };
      Ready (.pop 8#6 20#6) s ∧ Ready (.popTry 8#6 20#6) s ∧ (s.declared 1#32 9).any (fun q => q.bound.isNone) = true) ∧
    (let q := { queue9 1#32 0#32 with bound := some 1 };
      Ready (.pop 8#6 20#6) (queued q [(20, 9#32)] []) ∧ (at' (queued q [] [])).team.type = 0) ∧
    ([.pop 8#6 20#6, .popTry 8#6 20#6].all (fun i => Ready i (uni [(20, 513#32)]) && Ready i (uni [(20, 10#32)]))) = true ∧
    (Ready (.push 8#6 20#6) (uni [(28, 9#32)]) ∧ Ready (.qstat 8#6 20#6) (uni [(20, 9#32)]) ∧
      Ready (.qctl 20#6 0#6) (uni [(20, 9#32), (21, 7#32)]) ∧ plain.declared 1#32 9 = none) := by decide +kernel

/-- A queue bound to the demo's type offers entry 0 to its one crew; one that is not bound its lowest returned entry. -/
theorem test_hyp_offers :
    (let q := { queue9 2#32 0#32 with bound := some 0 };
      (queued q [] []).offer (loadLaunch 1#32 0) ⟨⟨1#32, 0, 0⟩, 0⟩ q = some 0#32 ∧
        (queued q [] []).offer (loadLaunch 1#32 0) ⟨⟨1#32, 0, 0⟩, 1⟩ q = none) ∧
    (queued (queue9 3#32 3#32) [] []).offer (loadLaunch 1#32 0) ⟨⟨1#32, 0, 0⟩, 0⟩ { queue9 3#32 3#32 with returned := [2#32, 1#32] } = some 1#32 := by
  decide +kernel

/-- Two teams of logical core 0 after one of logical core 3; a TLBINV of the host under way. -/
theorem test_hyp_bases : (let l : Launch := { loadLaunch 1#32 0 with places := [⟨3, 0, 0, 0⟩, ⟨0, 0, 1, 0⟩, ⟨0, 0, 2, 0⟩], types := [{ loadType with crews := 2, resv := 5#32 }] };
      l.bases.map (fun x => (x.1.team.gang, x.1.crew, x.2)) = [(1, 0, 0#32), (1, 1, 5#32), (2, 0, 10#32), (2, 1, 15#32), (0, 0, 20#32), (0, 1, 25#32)] ∧
      l.places.Pairwise (fun a b => a.gang = b.gang → a.pos ≠ b.pos)) ∧
    (let s : State := { State.reset with fl := { State.reset.fl with invs := [⟨2, true, 1#32, 0, 65536, [3], []⟩] } };
      (∃ i ∈ s.fl.invs, i.host = true) ∧ s.dev.power = true) ∧ (∀ i ∈ State.reset.fl.invs, i.host = false) := by decide +kernel

/-! ### Single steps

Expected values by hand from the rule named, or from the spec's own example. -/

/-- Slot 0 of v4 (and of v5) after the word i, with slot 0 of v8 holding x and of v12 holding y. -/
def after (i : Instr) (x y : Word) : Option (Word × Word) :=
  match exec i (crewed (withV [(8, x), (12, y)])) with
  | .next t => (t.crews[0]?).map (fun c => (c.v 4 0, c.v 5 0))
  | _ => none

/-- R189, R192: wraps, borrows, counts beyond the width, division corners. -/
theorem test_integer : after (.iadd 4#7 8#7 12#7) 0xFFFFFFFF#32 2#32 = some (1#32, 0#32) ∧
    after (.isubb 4#7 8#7 12#7) 1#32 2#32 = some (1#32, 0#32) ∧ after (.sar 4#7 8#7 12#7) 0x80000000#32 40#32 = some (0xFFFFFFFF#32, 0#32) ∧
    after (.shl 4#7 8#7 12#7) 1#32 32#32 = some (0#32, 0#32) ∧ after (.iabs 4#7 8#7) 0x80000000#32 0#32 = some (0x80000000#32, 0#32) ∧
    after (.imulhI32 4#7 8#7 12#7) 0xFFFFFFFF#32 2#32 = some (0xFFFFFFFF#32, 0#32) ∧
    after (.idivI32 4#7 8#7 12#7) 0x80000000#32 0xFFFFFFFF#32 = some (0x80000000#32, 0#32) ∧
    after (.iremI32 4#7 8#7 12#7) 0xFFFFFFF9#32 2#32 = some (0xFFFFFFFF#32, 0#32) ∧
    after (.idivZ32 4#7 8#7 12#7) 5#32 0#32 = some (0xFFFFFFFF#32, 0#32) ∧
    after (.imadwI32 4#7 8#7 12#7) 0xFFFFFFFF#32 3#32 = some (0xFFFFFFFD#32, 0xFFFFFFFF#32) := by decide +kernel

/-- R193 and its FUNNEL example with n = 31 (n from the old destination, here 0, and from HINT.C). -/
theorem test_bits : after (.clz 4#7 8#7) 0#32 0#32 = some (32#32, 0#32) ∧ after (.ctz 4#7 8#7) 8#32 0#32 = some (3#32, 0#32) ∧
    after (.brev 4#7 8#7) 1#32 0#32 = some (0x80000000#32, 0#32) ∧ after (.rot 4#7 8#7 12#7) 0x80000001#32 33#32 = some (3#32, 0#32) ∧
    after (.funnel 4#7 8#7 12#7) 5#32 7#32 = some (7#32, 0#32) ∧ after (.bfxI32 4#7 8#7 12#7) 0xF0#32 0x0404#32 = some (0xFFFFFFFF#32, 0#32) ∧
    after (.bfxZ32 4#7 8#7 12#7) 0xF0000000#32 0xFF1C#32 = some (15#32, 0#32) ∧
    after (.leaPair 4#7 8#7 12#7 0#1 3#3) 16#32 0xFFFFFFFF#32 = some (8#32, 0#32) := by decide +kernel

/-- R203 to R205, R212: a tie to even, 1/3, the root of -1, -0.4 to an integer, the exponent of the least subnormal, the class
of -0. -/
theorem test_float : after (.fadd 4#7 8#7 12#7 0#2) 0x3F800000#32 0x33800000#32 = some (0x3F800000#32, 0#32) ∧
    after (.fdiv 4#7 8#7 12#7 0#2) 0x3F800000#32 0x40400000#32 = some (0x3EAAAAAB#32, 0#32) ∧
    after (.fsqrt 4#7 8#7 0#2) 0xBF800000#32 0#32 = some (0x7FC00000#32, 0#32) ∧
    after (.frnd 4#7 8#7 0#2) 0xBECCCCCD#32 0#32 = some (0x80000000#32, 0#32) ∧
    after (.fexpo 4#7 8#7 0#2) 1#32 0#32 = some (0xFFFFFF6B#32, 0#32) ∧ after (.fclass 4#7 8#7 0#2) 0x80000000#32 0#32 = some (8#32, 0#32) := by
  decide +kernel

/-- R258's worked example, in 32 threads: with base 100 and count 32 the results are 100 to 131 and running becomes 32. -/
theorem test_reservation : (match exec (.atomAdd 4#7 104#7 106#7 0#1) (reserved 0#32) with
    | .next t => decide ((t.fl.ops[0]?).map (fun o => o.accs.map (·.out)) = some ((List.range 32).map (fun k => BitVec.ofNat 128 (100 + k)))) &&
        (t.crews[0]?).any (fun c => decide (c.running = 32#32))
    | _ => false) = true := by decide +kernel

/-- R370: TRAP 9 under an armed handler. -/
theorem test_trap_entry : (match exec (.trap 9#6) (armed 8#32 0#32) with
    | .next t => (t.crews[0]?).any (fun c => decide (c.epc = 4#32) && decide (c.ecause = 0x0009FF07#32) && decide (c.evec = 0#32) &&
        decide (c.pcOf 0 = some 8#32) && c.entries.all (fun e => decide (e.prio = 63#6)))
    | _ => false) = true := by decide +kernel

/-- R328: the second of two arrivals closes the phase and is counted in it. -/
theorem test_rendezvous : (match exec (.rvarrCount 1) { pointed 2 7#32 [] [opOf' 1 (.rvarr 5) none (some ⟨4#7, 1⟩) [] []] with
      teams := plain.teams.map (fun t => t.setPoint 5 ⟨true, 2, 1, 7#32⟩) } with
    | .next t => (t.teams[0]?).any (fun x => decide (x.point 5 = ⟨true, 2, 2, 8#32⟩)) && (t.crews[0]?).any (fun c => decide (c.u 4 = 7#32))
    | _ => false) = true := by decide +kernel

/-- R255, R267: what a home does with an addition and with a conditional write of the present version. -/
theorem test_home : (match exec (.homeCommand 1 0) (sent (.atomic 0 true false) .sent 0x0102#128 0#128) with
    | .next t => decide (t.mem.bytes = [(0x03000000, 2#8), (0x03000001, 1#8)]) && decide ((t.lineMeta 0x60000).ver = 1#12)
    | _ => false) = true ∧ (match exec (.homeCommand 1 0) (sent .cwr .sent 0x7F#128 0#128) with
    | .next t => decide (t.mem.bytes = [(0x03000000, 0x7F#8)])
    | _ => false) = true := by decide +kernel

/-- R359, R340: a refused request's entry is overwritten; an accepted one starts its launch with a team and a crew. -/
theorem test_launch_request : (match exec .launchRequest (requested 7#8 []) with
    | .next t => decide (t.request = none) && (t.queues[0]?).any (fun q => decide (q.head = 1#32)) &&
        decide (readByte t.mem.bytes 0x00BFFFFF0000 = 9#8) && decide (readByte t.mem.bytes 0x00BFFFFF000D = 8#8)
    | _ => false) = true := by decide +kernel

/-- R378: power on after a removal leaves the device as reset does. -/
theorem test_power : (match exec .boardPowerRemoval State.reset with
    | .next s => !s.dev.power && (match exec (.powerOn 0#4) s with
      | .next t => decide (t.dev.step = 6#4) && decide (t.queues = [Queue.seven])
      | _ => false)
    | _ => false) = true := by decide +kernel

/-- The one fault: a word asked of a crew that does not exist. -/
theorem test_no_crew : (match exec .nop State.reset with
    | .fault .noCrew => true
    | _ => false) = true := by decide +kernel

end Sys2Proof.Tests
end

namespace Sys2Proof.Machine

/-! ### Integer results in exact arithmetic (R189) -/

theorem sub_eq_ofInt {w : Nat} (x y : BitVec w) : x - y = BitVec.ofInt w (x.toNat - y.toNat) := by
  rw [Int.sub_eq_add_neg, BitVec.ofInt_add, BitVec.ofInt_neg, BitVec.ofInt_natCast, BitVec.ofInt_natCast,
    BitVec.ofNat_toNat, BitVec.ofNat_toNat, BitVec.setWidth_eq, BitVec.setWidth_eq, BitVec.sub_eq_add_neg]

theorem borrowOut_eq {w : Nat} (x y : BitVec w) : borrowOut x y = if x.toNat < y.toNat then 1#w else 0#w := by
  simp only [borrowOut, BitVec.ult_iff_lt, BitVec.lt_def]

theorem slt_iff_le_of_ne {w : Nat} {x y : BitVec w} (h : x ≠ y) : x.slt y = true ↔ x.toInt ≤ y.toInt := by
  have hne : x.toInt ≠ y.toInt := mt BitVec.eq_of_toInt_eq h
  rw [BitVec.slt_iff_toInt_lt]
  omega

theorem ult_iff_le_of_ne {w : Nat} {x y : BitVec w} (h : x ≠ y) : x.ult y = true ↔ x.toNat ≤ y.toNat := by
  have hne : x.toNat ≠ y.toNat := mt BitVec.eq_of_toNat_eq h
  rw [BitVec.ult_iff_lt, BitVec.lt_def]
  omega

theorem minS_eq {w : Nat} (x y : BitVec w) : minS x y = if x.toInt ≤ y.toInt then x else y := by
  by_cases h : x = y
  · subst h; simp only [minS, ite_self]
  · simp only [minS, slt_iff_le_of_ne h]

theorem maxS_eq {w : Nat} (x y : BitVec w) : maxS x y = if x.toInt ≤ y.toInt then y else x := by
  by_cases h : x = y
  · subst h; simp only [maxS, ite_self]
  · simp only [maxS, slt_iff_le_of_ne h]

theorem minU_eq {w : Nat} (x y : BitVec w) : minU x y = if x.toNat ≤ y.toNat then x else y := by
  by_cases h : x = y
  · subst h; simp only [minU, ite_self]
  · simp only [minU, ult_iff_le_of_ne h]

theorem maxU_eq {w : Nat} (x y : BitVec w) : maxU x y = if x.toNat ≤ y.toNat then y else x := by
  by_cases h : x = y
  · subst h; simp only [maxU, ite_self]
  · simp only [maxU, ult_iff_le_of_ne h]

theorem absW_eq_ofNat {w : Nat} (x : BitVec w) : absW x = BitVec.ofNat w x.toInt.natAbs := by
  rw [← BitVec.ofInt_natCast, absW, BitVec.msb_eq_toInt]
  by_cases h : x.toInt < 0
  · rw [Int.ofNat_natAbs_of_nonpos (Int.le_of_lt h), BitVec.ofInt_neg, BitVec.ofInt_toInt, if_pos (decide_eq_true h)]
  · rw [Int.natAbs_of_nonneg (Int.not_lt.mp h), BitVec.ofInt_toInt, if_neg (mt of_decide_eq_true h)]

theorem shl_eq {w : Nat} (x : BitVec w) (n : Word) :
    shl x n = if n.toNat < w then BitVec.ofNat w (x.toNat * 2 ^ n.toNat) else 0#w := by
  rw [shl, ← Nat.shiftLeft_eq]
  rfl

theorem shr_eq {w : Nat} (x : BitVec w) (n : Word) :
    shr x n = if n.toNat < w then BitVec.ofNat w (x.toNat / 2 ^ n.toNat) else 0#w := by
  have h : x >>> n.toNat = BitVec.ofNat w (x.toNat / 2 ^ n.toNat) := by
    rw [← Nat.shiftRight_eq_div_pow, ← BitVec.toNat_ushiftRight, BitVec.ofNat_toNat, BitVec.setWidth_eq]
  rw [shr, h]

theorem sar_eq {w : Nat} (x : BitVec w) (n : Word) :
    sar x n = if n.toNat < w then BitVec.ofInt w (x.toInt / 2 ^ n.toNat)
      else if x.toInt < 0 then BitVec.ofInt w (-1) else 0#w := by
  have hones : BitVec.allOnes w = BitVec.ofInt w (-1) := by
    rw [← BitVec.neg_one_eq_allOnes, BitVec.ofInt_neg, BitVec.ofInt_ofNat]
  simp only [sar, BitVec.sshiftRight_eq, Int.shiftRight_eq_div_pow, BitVec.msb_eq_toInt, decide_eq_true_eq, hones,
    Int.natCast_pow, Int.cast_ofNat_Int]

/-! ### Products, quotients and remainders in exact arithmetic (R192) -/

theorem mul_eq_ofNat {w : Nat} (x y : BitVec w) : x * y = BitVec.ofNat w (x.toNat * y.toNat) := by
  rw [BitVec.ofNat_mul, BitVec.ofNat_toNat, BitVec.ofNat_toNat, BitVec.setWidth_eq, BitVec.setWidth_eq]

theorem mulAdd_eq_ofNat {w : Nat} (x y z : BitVec w) : x * y + z = BitVec.ofNat w (x.toNat * y.toNat + z.toNat) := by
  rw [BitVec.ofNat_add, ← mul_eq_ofNat, BitVec.ofNat_toNat, BitVec.setWidth_eq]

/-- The product of sign-extended words is the exact product of their signed values, reduced. -/
theorem signExtend_mul_signExtend (x y : Word) : x.signExtend 64 * y.signExtend 64 = BitVec.ofInt 64 (x.toInt * y.toInt) :=
  (BitVec.ofInt_mul ..).symm

theorem setWidth_mul_setWidth (x y : Word) : x.setWidth 64 * y.setWidth 64 = BitVec.ofNat 64 (x.toNat * y.toNat) := by
  rw [BitVec.ofNat_mul, BitVec.ofNat_toNat, BitVec.ofNat_toNat]

theorem highWord_ofInt (n : Int) : (BitVec.ofInt 64 n).extractLsb' 32 32 = BitVec.ofInt 32 (n / 2 ^ 32) := by
  apply BitVec.eq_of_toNat_eq
  simp only [BitVec.extractLsb'_toNat, BitVec.toNat_ofInt, Nat.shiftRight_eq_div_pow]
  omega

theorem highWord_ofNat (n : Nat) : (BitVec.ofNat 64 n).extractLsb' 32 32 = BitVec.ofNat 32 (n / 2 ^ 32) := by
  apply BitVec.eq_of_toNat_eq
  simp only [BitVec.extractLsb'_toNat, BitVec.toNat_ofNat, Nat.shiftRight_eq_div_pow]
  omega

theorem mulHigh_signed (x y : Word) : mulHigh true x y = BitVec.ofInt 32 (x.toInt * y.toInt / 2 ^ 32) :=
  (congrArg _ (signExtend_mul_signExtend x y)).trans (highWord_ofInt _)

theorem mulHigh_unsigned (x y : Word) : mulHigh false x y = BitVec.ofNat 32 (x.toNat * y.toNat / 2 ^ 32) :=
  (congrArg _ (setWidth_mul_setWidth x y)).trans (highWord_ofNat _)

theorem mulWide_signed (x y : Word) (z : DWord) :
    mulWide true x y z = BitVec.ofInt 64 (x.toInt * y.toInt + z.toNat) := by
  rw [BitVec.ofInt_add, ← signExtend_mul_signExtend, BitVec.ofInt_natCast, BitVec.ofNat_toNat, BitVec.setWidth_eq]
  rfl

theorem mulWide_unsigned (x y : Word) (z : DWord) :
    mulWide false x y z = BitVec.ofNat 64 (x.toNat * y.toNat + z.toNat) := by
  rw [BitVec.ofNat_add, ← setWidth_mul_setWidth, BitVec.ofNat_toNat, BitVec.setWidth_eq]
  rfl

theorem sdiv_eq_ofInt {w : Nat} (x y : BitVec w) : x.sdiv y = BitVec.ofInt w (x.toInt.tdiv y.toInt) := by
  apply BitVec.eq_of_toInt_eq
  rw [BitVec.toInt_sdiv, BitVec.toInt_ofInt]

theorem srem_eq_ofInt {w : Nat} (x y : BitVec w) :
    x.srem y = BitVec.ofInt w (x.toInt - y.toInt * x.toInt.tdiv y.toInt) := by
  rw [← Int.tmod_def, ← BitVec.toInt_srem, BitVec.ofInt_toInt]

theorem udiv_eq_ofNat {w : Nat} (x y : BitVec w) : x / y = BitVec.ofNat w (x.toNat / y.toNat) := by
  rw [← BitVec.toNat_udiv, BitVec.ofNat_toNat, BitVec.setWidth_eq]

theorem umod_eq_ofNat {w : Nat} (x y : BitVec w) : x % y = BitVec.ofNat w (x.toNat % y.toNat) := by
  rw [← BitVec.toNat_umod, BitVec.ofNat_toNat, BitVec.setWidth_eq]

theorem divW_signed (x y : Word) :
    divW true x y = if y = 0#32 then BitVec.ofInt 32 (-1) else BitVec.ofInt 32 (x.toInt.tdiv y.toInt) := by
  rw [← sdiv_eq_ofInt]
  rfl

theorem divW_unsigned (x y : Word) :
    divW false x y = if y = 0#32 then 0xFFFFFFFF#32 else BitVec.ofNat 32 (x.toNat / y.toNat) := by
  rw [← udiv_eq_ofNat]
  rfl

theorem remW_signed (x y : Word) :
    remW true x y = if y = 0#32 then x else BitVec.ofInt 32 (x.toInt - y.toInt * x.toInt.tdiv y.toInt) := by
  rw [← srem_eq_ofInt]
  rfl

theorem remW_unsigned (x y : Word) :
    remW false x y = if y = 0#32 then x else BitVec.ofNat 32 (x.toNat % y.toNat) := by
  rw [← umod_eq_ofNat]
  rfl

/-! ### Forms that read a third source (R29) -/

/-- `vec1_eq` for a value that also depends on what the instruction finds, as the third source of R29 does. -/
theorem vec1_ctx_eq {i : Instr} {s : State} {c : Ctx} (h : Issues (formOf i) s c) (d : BitVec 7) (f : Ctx → Crew → Nat → Word)
    (g : Nat → Word) (hg : ∀ t, f c c.crew t = g t) :
    issueCrew i (fun x => vec1 d (f x) x) s = .next (c.done s (c.vec d g)) := by
  rw [issueCrew_eq h _ _ rfl]; simp only [Ctx.vec, hg]

/-- The same for 64-bit results. -/
theorem vec2_ctx_eq {i : Instr} {s : State} {c : Ctx} (h : Issues (formOf i) s c) (d : BitVec 7) (f : Ctx → Crew → Nat → DWord)
    (g : Nat → DWord) (hg : ∀ t, f c c.crew t = g t) :
    issueCrew i (fun x => vec2 d (f x) x) s = .next (c.done s (c.vec64 d g)) := by
  rw [issueCrew_eq h _ _ rfl]; simp only [Ctx.vec64, hg]

/-! ### The two statements -/

/-- Settles O1: each row of the table is one instruction, whose value is given by the lemma about its operation. -/
theorem integerArithmetic : Obligations.IntegerArithmetic := by
  refine ⟨fun s c d a b i f hm h => ?single, fun s c d a b i f hm h => ?pair, fun s c d a b i f hm h => ?shift⟩
  all_goals simp only [List.mem_cons, List.not_mem_nil, or_false, Prod.mk.injEq] at hm
  case single =>
    rcases hm with ⟨rfl, rfl⟩ | ⟨rfl, rfl⟩ | ⟨rfl, rfl⟩ | ⟨rfl, rfl⟩ | ⟨rfl, rfl⟩ | ⟨rfl, rfl⟩ | ⟨rfl, rfl⟩ | ⟨rfl, rfl⟩ |
      ⟨rfl, rfl⟩ | ⟨rfl, rfl⟩ | ⟨rfl, rfl⟩ | ⟨rfl, rfl⟩ | ⟨rfl, rfl⟩ | ⟨rfl, rfl⟩ | ⟨rfl, rfl⟩ | ⟨rfl, rfl⟩
    · exact vec1_eq h d _ _ fun _ => BitVec.add_def ..
    · exact vec1_eq h d _ _ fun _ => rfl
    · exact vec1_eq h d _ _ fun _ => sub_eq_ofInt ..
    · exact vec1_eq h d _ _ fun _ => borrowOut_eq ..
    · exact vec1_eq h d _ _ fun _ => minS_eq ..
    · exact vec1_eq h d _ _ fun _ => minU_eq ..
    · exact vec1_eq h d _ _ fun _ => maxS_eq ..
    · exact vec1_eq h d _ _ fun _ => maxU_eq ..
    · exact vec1_eq h d _ _ fun _ => absW_eq_ofNat ..
    · exact vec1_eq h d _ _ fun _ => rfl
    · exact vec1_eq h d _ _ fun _ => rfl
    · exact vec1_eq h d _ _ fun _ => rfl
    · exact vec1_eq h d _ _ fun _ => rfl
    · exact vec1_eq h d _ _ fun _ => shl_eq ..
    · exact vec1_eq h d _ _ fun _ => shr_eq ..
    · exact vec1_eq h d _ _ fun _ => sar_eq ..
  case pair =>
    rcases hm with ⟨rfl, rfl⟩ | ⟨rfl, rfl⟩ | ⟨rfl, rfl⟩ | ⟨rfl, rfl⟩ | ⟨rfl, rfl⟩ | ⟨rfl, rfl⟩ | ⟨rfl, rfl⟩ | ⟨rfl, rfl⟩ |
      ⟨rfl, rfl⟩ | ⟨rfl, rfl⟩ | ⟨rfl, rfl⟩ | ⟨rfl, rfl⟩ | ⟨rfl, rfl⟩
    · exact vec2_eq h d _ _ fun _ => BitVec.add_def ..
    · exact vec2_eq h d _ _ fun _ => rfl
    · exact vec2_eq h d _ _ fun _ => sub_eq_ofInt ..
    · exact vec2_eq h d _ _ fun _ => borrowOut_eq ..
    · exact vec2_eq h d _ _ fun _ => minS_eq ..
    · exact vec2_eq h d _ _ fun _ => minU_eq ..
    · exact vec2_eq h d _ _ fun _ => maxS_eq ..
    · exact vec2_eq h d _ _ fun _ => maxU_eq ..
    · exact vec2_eq h d _ _ fun _ => absW_eq_ofNat ..
    · exact vec2_eq h d _ _ fun _ => rfl
    · exact vec2_eq h d _ _ fun _ => rfl
    · exact vec2_eq h d _ _ fun _ => rfl
    · exact vec2_eq h d _ _ fun _ => rfl
  case shift =>
    rcases hm with ⟨rfl, rfl⟩ | ⟨rfl, rfl⟩ | ⟨rfl, rfl⟩
    · exact vec2_eq h d _ _ fun _ => shl_eq ..
    · exact vec2_eq h d _ _ fun _ => shr_eq ..
    · exact vec2_eq h d _ _ fun _ => sar_eq ..

/-- Settles O3: as O1, with the third source of IMAD and IMADW read from `Ctx.third`. -/
theorem multiplyDivide : Obligations.MultiplyDivide := by
  refine ⟨fun s c d a b i f hm h => ?single, fun s c d a b i f hm h => ?wide⟩
  all_goals simp only [List.mem_cons, List.not_mem_nil, or_false, Prod.mk.injEq] at hm
  case single =>
    rcases hm with ⟨rfl, rfl⟩ | ⟨rfl, rfl⟩ | ⟨rfl, rfl⟩ | ⟨rfl, rfl⟩ | ⟨rfl, rfl⟩ | ⟨rfl, rfl⟩ | ⟨rfl, rfl⟩ | ⟨rfl, rfl⟩
    · exact vec1_eq h d _ _ fun _ => mul_eq_ofNat ..
    · exact vec1_eq h d _ _ fun _ => mulHigh_signed ..
    · exact vec1_eq h d _ _ fun _ => mulHigh_unsigned ..
    · exact vec1_ctx_eq h d _ _ fun _ => mulAdd_eq_ofNat ..
    · exact vec1_eq h d _ _ fun _ => divW_signed ..
    · exact vec1_eq h d _ _ fun _ => divW_unsigned ..
    · exact vec1_eq h d _ _ fun _ => remW_signed ..
    · exact vec1_eq h d _ _ fun _ => remW_unsigned ..
  case wide =>
    rcases hm with ⟨rfl, rfl⟩ | ⟨rfl, rfl⟩
    · exact vec2_ctx_eq h d _ _ fun _ => mulWide_signed ..
    · exact vec2_ctx_eq h d _ _ fun _ => mulWide_unsigned ..

end Sys2Proof.Machine
